-- ==== Sys2Proof/Word.lean ====
section
/-! DEFINITION. Words of the part and the one container its numbered records live in. -/

namespace Sys2Proof

/-- A byte of a frame. -/
abbrev Byte := BitVec 8

/-- A 32-bit count that wraps: plant time, counters, sequence numbers (00_scope, "Counters"). -/
abbrev U32 := BitVec 32

/-- A bank of `n` numbered records, such as the 115 quantities or the 16 well channels. -/
structure Bank (α : Type) (n : Nat) where
  rows : List α
  size : rows.length = n
  deriving DecidableEq, Repr

namespace Bank

variable {α : Type} {n : Nat}

/-- The record numbered `i`. -/
def get (b : Bank α n) (i : Fin n) : α := b.rows.get (i.cast b.size.symm)

/-- The bank with the record numbered `i` replaced. -/
def set (b : Bank α n) (i : Fin n) (a : α) : Bank α n := ⟨b.rows.set i a, by simp [b.size]⟩

/-- The bank with the record numbered `i` changed by `f`. -/
def modify (b : Bank α n) (i : Fin n) (f : α → α) : Bank α n := b.set i (f (b.get i))

/-- The bank whose record numbered `i` is `f i`. -/
def ofFn (f : Fin n → α) : Bank α n := ⟨List.ofFn f, by simp⟩

/-- The bank of `n` equal records. -/
def fill (n : Nat) (a : α) : Bank α n := ⟨List.replicate n a, by simp⟩

/-- The bank with every record changed by `f`, which also sees the record's number. -/
def mapIdx (b : Bank α n) (f : Fin n → α → α) : Bank α n := ofFn fun i => f i (b.get i)

end Bank

end Sys2Proof
end

