-- ==== Sys2Proof/Config.lean ====
section
/-! DEFINITION. What the spec fixes for every TD-48, and the values it leaves open. -/

namespace Sys2Proof.Config

/-- The largest number of notices the notice queue holds (R187). -/
def noticeCapacity : Nat := 32

/-- The largest number of entries the alarm table holds (R163). -/
def alarmCapacity : Nat := 64

/-- The largest number of trend records kept (R48). -/
def trendCapacity : Nat := 256

/-- The largest number of plant times a trip history holds (R76). -/
def historyCapacity : Nat := 7

/-- The largest number of steps of a sequence (R151). -/
def maxSteps : Nat := 32

/-- Vendor code, part code and revision that IDENT answers (R191). -/
def vendorCode : Nat := 0x2E17
def partCode : Nat := 48
def revision : Nat := 1

/-- FREE VALUE (log 14): the value an escalation of CALCITE_RISK carries while INHIB_FEED is neither
VALID nor STALE. R42 gives the alarm's value for those two states only. -/
opaque calciteEscalationValue : Nat → Int

/-- FREE VALUE (log 14): the sequence number N a READ_TREND reply carries while the log is empty. R49
gives K = 0 there and names no newest record. -/
opaque emptyTrendNewest : Nat → U32

end Sys2Proof.Config
end

