-- ==== Sys2Proof/Syntax.lean ====
section
/-! DEFINITION. The names the spec writes in capitals, the data its events carry, and the part's
132 operations and events (`Instr`, one constructor per row of spec/opcode_table.json). -/

namespace Sys2Proof

/-! ## Numbers of records -/

/-- Channel number c of well Wc (00_scope, "Indices"). -/
abbrev WellNo := Fin 16
/-- Quantity index Q0 to Q114. -/
abbrev QtyNo := Fin 115
/-- Station table entry E0 to E23. -/
abbrev EntryNo := Fin 24
/-- Limit row L0 to L54. -/
abbrev RowNo := Fin 55
/-- Scaling point SP0 to SP3. -/
abbrev PointNo := Fin 4
/-- Sequence slot 0 to 3. -/
abbrev SlotNo := Fin 4

/-! ## States and modes -/

/-- State of a quantity (R15). -/
inductive QState | unprimed | priming | valid | stale
  deriving DecidableEq, Repr

/-- Quality code a station attaches to a value (R19, R146). -/
inductive Quality | good | suspect | fault
  deriving DecidableEq, Repr

/-- State of the pump machine (R76). -/
inductive WellState | off | starting | running | stopping | tripped | lockedOut
  deriving DecidableEq, Repr

/-- Role of a channel (R77). -/
inductive Role | production | reinjection | unused
  deriving DecidableEq, Repr

/-- Trip causes of a well, in counting priority (R90). -/
inductive WellCause | linkLost | driveFault | overcurrent | flash | dryRun | startFail | operator
  deriving DecidableEq, Repr

/-- State of the turbine machine (R100). -/
inductive TurbState | offline | warming | runup | syncWait | loaded | unloading | tripped
  deriving DecidableEq, Repr

/-- Trip causes of the turbine, in counting priority (R112). -/
inductive TurbCause
  | external | overspeed | lowInlet | linkLost | valveMismatch | runupFail | syncFail | operator | adopt
  deriving DecidableEq, Repr

/-- Mode of the exchanger (R54). -/
inductive HxMode | off | heating | heatLimited | isolated
  deriving DecidableEq, Repr

/-- Isolation causes (R62). -/
inductive IsoCause | sp0Alarm | silicaStale | outletStale | host
  deriving DecidableEq, Repr

/-- Where the base of the supply target comes from (R54). -/
inductive TargetSource | curve | held | fallback
  deriving DecidableEq, Repr

/-- Mode of the balance (R121). -/
inductive BalMode | power | heat | fixed
  deriving DecidableEq, Repr

/-- Tank hold (R121). -/
inductive HoldState | normal | hold | frozen
  deriving DecidableEq, Repr

/-- State of a scaling point (R30). -/
inductive PointState | clear | watch | alarm
  deriving DecidableEq, Repr

/-- State of the brine floor (R35). -/
inductive FloorState | none | fresh | staleHeld
  deriving DecidableEq, Repr

/-- Severity of CALCITE_RISK, PUMP_FOULING or HX_FOULING, or NONE when not raised (R40, R44). -/
inductive WatchState | none | watch | alarm
  deriving DecidableEq, Repr

/-- Flag of a forward interpolation (R7). -/
inductive ClampFlag | none | clampLow | clampHigh
  deriving DecidableEq, Repr

/-- Flag of an inverse interpolation (R10). -/
inductive FloorFlag | none | low | unreachable
  deriving DecidableEq, Repr

/-- The three characteristic tables (R1). -/
inductive TableName | silica | psat | curve
  deriving DecidableEq, Repr

/-- Where a table's entries came from (R1). -/
inductive Origin | factory | stored | loaded
  deriving DecidableEq, Repr

/-- Kind of a station table entry (R136). -/
inductive Kind | none | well | turbine | exchanger | brine | analyser | weather
  deriving DecidableEq, Repr

/-- What the link knows of a station (R136). -/
inductive LinkStatus | unknown | online | lost
  deriving DecidableEq, Repr

/-- Outcome of an exchange (R142). -/
inductive Outcome | noReply | badCheck | wrongAddr | badForm | good
  deriving DecidableEq, Repr

/-- The three exchanges (R142). -/
inductive Exchange | poll | set | trip
  deriving DecidableEq, Repr

/-- State of a sequence slot (R149). -/
inductive SlotState | empty | loaded | running | waiting | suspended | finished | failed | aborted
  deriving DecidableEq, Repr

/-! ## Alarms -/

/-- The 17 alarm codes (R163). -/
inductive AlarmCode
  | silicaSi | silicaFloorUnreachable | silicaStale | flashWatch | calciteRisk | pumpFouling
  | hxFouling | hxIsolated | floorBreach | wellTrip | wellLockout | turbTrip | steamShortfall
  | tankHigh | brineOver | stationLost | storeFault
  deriving DecidableEq, Repr

/-- Where an alarm's condition is (R163). -/
inductive Source
  | point (p : PointNo) | floor | well (c : WellNo) | exchanger | turbine | balance
  | station (address : Nat) | store
  deriving DecidableEq, Repr

/-- Severity of an alarm (R163). -/
inductive Severity | watch | alarm | trip
  deriving DecidableEq, Repr

/-- State of an alarm entry (R163). -/
inductive AlarmState | activeUnacked | activeAcked | clearedUnacked
  deriving DecidableEq, Repr

/-- A change an owner hands ALT for a (code, source), other than a clear (R164). -/
inductive AlarmChange
  | raise (sev : Severity) (value : Int)
  | escalate (sev : Severity) (value : Int)
  | deescalate (sev : Severity)
  deriving DecidableEq, Repr

/-- The mark of an alarm notice (R169). -/
inductive Mark | raised | escalated | deescalated | cleared | removed | evicted | notEntered
  deriving DecidableEq, Repr

/-! ## Counters -/

/-- Owners of the counter bank (R171). -/
inductive CounterOwner | well (c : WellNo) | turbine | exchanger | entry (e : EntryNo) | device
  deriving DecidableEq, Repr

/-- The counters of the counter bank (R171). -/
inductive Counter
  | wellStarts (c : WellNo) | wellTrips (c : WellNo) (cause : WellCause)
  | turbStarts | turbTrips (cause : TurbCause)
  | heatLimitedMin | isolations | floorBreaches
  | exchanges (e : EntryNo) | outcomes (e : EntryNo) (o : Outcome) | deferredPolls (e : EntryNo)
  | scanOverruns
  deriving DecidableEq, Repr

/-! ## Settings -/

/-- The 21 parameter groups (chapter 11.1). -/
inductive Group | well (c : WellNo) | turbine | exchanger | scaling | balance | field
  deriving DecidableEq, Repr

/-- Items of a group WELLc (R78, R51). -/
inductive WellItem
  | role | minFlow | maxFlow | startThreshold | startTimeout | rampInterval | rampStep
  | tripRampStep | tripPersist | dryCurrent | cooldown | lockoutWindow | lockoutCount
  | inhibMin | ratedFlow
  deriving DecidableEq, Repr

/-- Items of the group TURBINE (R101). -/
inductive TurbItem
  | warmTime | warmPos | warmSteam | ratedSpeed | runupRate | speedBand | settleTime | runupTimeout
  | syncTimeout | ratedLoad | admNoload | loadRate | unloadRate | minLoad | steamRate
  | shortfallMargin | shortfallPersist | inletPersist | mismatchTime | resetSpeed | adoptHold
  deriving DecidableEq, Repr

/-- Items of the group EXCHANGER (R72, R51). -/
inductive HxItem
  | supplyMin | supplyMax | fallbackSupply | kp | maxStep | deadband | hyst | floorStep | bypassMin
  | breachPersist | cpBrine | cpWater | ratedBrineFlow
  deriving DecidableEq, Repr

/-- Items of the group SCALING (R51). -/
inductive ScaleItem
  | siWatch | siHyst | siPersist | staleOffset | flashWatch | calcitePersist | foulBand | foulWatch
  | foulAlarm | foulHyst | trendInterval
  deriving DecidableEq, Repr

/-- Items of the group BALANCE (R122). -/
inductive BalItem | steamFraction | heatBaseFlow | tankXoff | tankXon | holdStep | holdInterval
  deriving DecidableEq, Repr

/-- The four scan settings of the group FIELD (R147). -/
inductive FieldItem | slotPeriod | patternLength | slotBudget | pollBurst
  deriving DecidableEq, Repr

/-- The six settings of a station table entry (R136). -/
inductive EntryItem | kind | address | channel | pollMask | replyTimeout | failLimit
  deriving DecidableEq, Repr

/-- The four settings of a quantity (R17). -/
inductive QtyItem | rangeLow | rangeHigh | weight | eraseLimit
  deriving DecidableEq, Repr

/-- Every item of the 21 groups (chapter 11.1): named by its group and name, with the quantity index
or entry number where it has one. -/
inductive Item
  | well (c : WellNo) (i : WellItem) | turbine (i : TurbItem) | exchanger (i : HxItem)
  | scaling (i : ScaleItem) | balance (i : BalItem) | field (i : FieldItem)
  | entry (e : EntryNo) (i : EntryItem) | qty (q : QtyNo) (i : QtyItem)
  deriving DecidableEq, Repr

/-- What an accepted SET_PARAM or SET_LIMIT changed (R174, R177). -/
inductive Changed | item (i : Item) | limit (l : RowNo)
  deriving DecidableEq, Repr

/-! ## Sequences -/

/-- What a claim or a state change is about (R149). -/
inductive Target | well (c : WellNo) | turbine | exchanger | balance
  deriving DecidableEq, Repr

/-- A state of a target, as WAIT_STATE names it and as the owners hand it (R150, R154). -/
inductive TargetState
  | well (s : WellState) | turbine (s : TurbState) | exchanger (m : HxMode)
  | balance (m : BalMode) | hold (h : HoldState)
  deriving DecidableEq, Repr

/-- Where a command comes from (R160). -/
inductive Caller | host | slot (k : SlotNo)
  deriving DecidableEq, Repr

/-- The 15 step kinds (R150), and any other kind a SEQ_LOAD may carry. -/
inductive StepKind
  | wellStart | wellStop | wellWeight | balMode | turbStart | turbLoad | turbStop | hxOn | hxOff
  | hxOffset | waitQty | waitState | delay | pause | fin | other
  deriving DecidableEq, Repr

/-- Target of a step as the host writes it; channel and quantity are not yet range checked. -/
inductive StepTarget | well (c : Nat) | turbine | exchanger | balance | qty (q : Nat)
  deriving DecidableEq, Repr

/-- Comparisons of WAIT_QTY (R150). -/
inductive Cmp | above | atLeast | below | atMost
  deriving DecidableEq, Repr

/-- Value of a step (R150). -/
inductive StepValue
  | num (v : Int) | mode (m : BalMode) | compare (c : Cmp) (level : Int) | state (t : TargetState)
  deriving DecidableEq, Repr

/-- What a step's failure does (R150). -/
inductive OnFail | abort | continue | goto (n : Nat)
  deriving DecidableEq, Repr

/-- A step record (R150). A step for which the host gives no on_fail carries `abort`. -/
structure Step where
  kind : StepKind
  target : Option StepTarget := none
  value : Option StepValue := none
  timeout : Option Nat := none
  onFail : OnFail := .abort
  deriving DecidableEq, Repr

/-- A trip or a stop of a target (R157). -/
inductive TripStop | trip | stop
  deriving DecidableEq, Repr

/-- The cause a trip of a well or of the turbine is handed with (R95, R118). -/
inductive TripCause | well (k : WellCause) | turbine (k : TurbCause)
  deriving DecidableEq, Repr

/-- Where a trip or stop comes from: a trip carries its cause, which the exchanger's has none of, and a stop the
origin of the command (R95, R118, R157). -/
inductive TripOrigin | cause (k : Option TripCause) | command (caller : Caller)
  deriving DecidableEq, Repr

/-! ## What the events carry -/

/-- The straps, sampled at power-on (00_scope, R191). -/
structure Straps where
  lspd : Fin 4
  fspd : Fin 2
  retain : Bool
  deriving DecidableEq, Repr

/-- What SSL's checks of its store find at power-on: of the stored copy (R181), and of each of the two copies of
the commissioning record (R179). -/
structure StoreChecks where
  copy : Bool
  firstRecord : Bool
  secondRecord : Bool
  deriving DecidableEq, Repr

/-- Select-before-operate objects (R188). -/
inductive SelObject
  | wellTrip | wellUnlock | turbineTrip | turbineReset | setBoundary | commissionLock | restart
  deriving DecidableEq, Repr

/-- One quantity of a delivery: a value with its quality code, or an erasure (R19, R20). -/
inductive Reading | value (v : Int) (q : Quality) | erasure
  deriving DecidableEq, Repr

/-- A delivery of FLC to QTB (R19 to R21). -/
structure Delivery where
  kind : Kind
  channel : WellNo
  readings : List (QtyNo × Reading)
  sampleNo : Option Byte
  deriving DecidableEq, Repr

/-- An update of QTB to its takers (R27): new values, state changes with old and new state, what it shows of
the station's quantities (the state and reported value of each as they stand after the event), and how they stood
before the event, which a taker still meets until it takes the update (R115, R127, log 42). -/
structure Update where
  values : List (QtyNo × Int)
  changes : List (QtyNo × QState × QState)
  shown : List (QtyNo × QState × Int)
  before : List (QtyNo × QState × Int)
  deriving DecidableEq, Repr

/-- Station status of a WELL reply (R86). -/
structure WellStatus where
  channel : WellNo
  run : Bool
  fault : Bool
  flow : Int
  flowQuality : Quality
  deriving DecidableEq, Repr

/-- Station status of a TURBINE reply (R103). -/
structure TurbStatus where
  breaker : Bool
  speed : Int
  speedQuality : Quality
  load : Int
  loadQuality : Quality
  deriving DecidableEq, Repr

/-- Control field of the turbine order (R102). -/
inductive Control | valve | speed | sync
  deriving DecidableEq, Repr

/-- The turbine order as sent to the TURBINE station (R102). -/
structure TurbOrder where
  control : Control
  speed : Int
  load : Int
  admission : Int
  breakerOpen : Bool
  deriving DecidableEq, Repr

/-- A SET: the station it names and the demand it carries (R140). -/
inductive SetOrder
  | well (c : WellNo) (flow : Int) | exchanger (bypass : Int) | turbine (o : TurbOrder)
  deriving DecidableEq, Repr

/-- The station a TRIP names (R141). -/
inductive TripStation | well (c : WellNo) | turbine
  deriving DecidableEq, Repr

/-- The settings of a station table entry that name its station (R136, R137). -/
structure Station where
  kind : Kind
  address : Nat
  channel : WellNo
  deriving DecidableEq, Repr

/-- Target of CAPTURE_BASELINE and argument of READ_SCALING FOULING, as the host writes it. -/
inductive FoulTarget | well (c : Nat) | exchanger | other
  deriving DecidableEq, Repr

/-- Sections of READ_SCALING with their arguments (R50). -/
inductive ScalingSection | points | floor | calcite (c : Nat) | fouling (t : FoulTarget) | interval
  deriving DecidableEq, Repr

/-- Argument of READ_FIELD (R145). -/
inductive FieldArg | entry (e : Nat) | all
  deriving DecidableEq, Repr

/-- The part's operations and events, one constructor per row of spec/opcode_table.json, in the
table's order. A name the host may get wrong is an `Option` (none: a name that does not exist), a
number it may get wrong is a Nat or an Int (log 8). -/
inductive Instr
  | powerOn (straps : Straps) (tripIn : Bool) (store : StoreChecks) (retainedPasses : Bool)
  | ident
  | setTime (t : U32)
  | select (object : Option SelObject) (arg : Nat)
  | operateWellTrip (c : Nat)
  | operateWellUnlock (c : Nat)
  | operateTurbineTrip (arg : Nat)
  | operateTurbineReset (arg : Nat)
  | operateSetBoundary (p : Nat)
  | operateCommissionLock (arg : Nat)
  | operateRestart (arg : Nat)
  | restart
  | selectWindowExpiry
  | plantTimeTick
  | readQty (first count : Nat)
  | loadTable (name : Option TableName) (entries : List Int)
  | readTable (name : Option TableName)
  | evalTableForward (name : Option TableName) (u : Int)
  | evalTableInverse (name : Option TableName) (c m : Int)
  | readScaling (sec : Option ScalingSection)
  | readTrend (first : U32) (count : Nat)
  | captureBaseline (t : FoulTarget)
  | hxCmdOn
  | hxCmdOff
  | hxCmdIsolate
  | hxCmdResume
  | hxCmdOffset (v : Int)
  | readExchanger
  | wellCmdStart (c : Nat)
  | wellCmdStop (c : Nat)
  | wellCmdResetTrip (c : Nat)
  | wellCmdWeight (c : Nat) (w : Int)
  | readWell (c : Nat)
  | turbCmdStart
  | turbCmdStop
  | turbCmdLoad (v : Option Int)
  | readTurbine
  | balCmdMode (m : Option BalMode)
  | balCmdFixedTarget (v : Int)
  | readBalance
  | readField (a : FieldArg)
  | seqLoad (k : Nat) (steps : List Step)
  | seqRun (k : Nat)
  | seqSuspend (k : Nat)
  | seqResume (k : Nat)
  | seqAbort (k : Nat)
  | readSeq (k : Nat)
  | ack (code : Option AlarmCode) (source : Option Source)
  | ackAll
  | readAlarms (first count : Nat)
  | readCounters (o : Option CounterOwner)
  | readAndClear (o : Option CounterOwner)
  | setParam (g : Option Group) (i : Option Item) (v : Int)
  | getParam (g : Option Group) (i : Option Item)
  | lockGroup (g : Option Group)
  | unlockGroup (g : Option Group)
  | setLimit (l : Nat) (v : Int)
  | readLimits
  | store
  | storeComplete (checkPasses : Bool)
  | badKind (kind : Byte)
  | frameDiscarded (bytes : List Byte)
  | linkOverrun
  | replyComplete
  | portResync
  | noticeStart
  | noticeComplete
  | tripInAsserted
  | tripInCleared
  | slotExpiry
  | fieldReplyReceived (bytes : List Byte)
  | replyTimeout
  | setPlaced (o : SetOrder)
  | tripPlaced (st : TripStation)
  | stationRetire (e : EntryNo) (old : Station)
  | qtbDelivery (d : Delivery)
  | qtbStationLost (kind : Kind) (channel : WellNo)
  | settingChangeTaken (what : Changed) (old : Int)
  | scmUpdate (u : Update)
  | scmWellState (c : WellNo) (move : WellState × WellState) (cause : Option WellCause)
  | scmRoleChange (c : WellNo) (role : Role)
  | staleClockExpiry
  | trendIntervalExpiry
  | hxcUpdate (u : Update)
  | hxcSp0Change (old new : PointState)
  | hxcSilicaStale (raised : Bool)
  | hxcLinkLost
  | hxcSecondTimer
  | heatLimitedMin
  | wccStatusEvent (e : WellStatus)
  | wccUpdate (u : Update)
  | wccFlashMargin (c : WellNo) (m : Option Int)
  | wccFlashHold (c : WellNo) (held : Bool)
  | wccLinkLost (c : WellNo)
  | wccTarget (c : WellNo) (t : Option Int)
  | rampTimerExpiry (c : WellNo)
  | startTimerExpiry (c : WellNo)
  | wccSecondTimer
  | tbcStatusEvent (e : TurbStatus)
  | tbcUpdate (u : Update)
  | tbcLinkLost
  | tbcWellDemand (c : WellNo)
  | tbcWellState (c : WellNo) (move : WellState × WellState) (cause : Option WellCause)
  | stageTimerExpiry
  | tbcSecondTimer
  | settleComplete
  | runupTimeout
  | syncTimeout
  | valveMismatch
  | adoptHoldEnd
  | bbuSteamDemand (d : Int)
  | bbuTurbineState (move : TurbState × TurbState) (cause : Option TurbCause)
  | bbuWellState (c : WellNo) (move : WellState × WellState) (cause : Option WellCause)
  | bbuWellDemand (c : WellNo)
  | bbuWellWeight (c : WellNo)
  | bbuFlashHold (c : WellNo) (held : Bool)
  | bbuTankUpdate (u : Update)
  | holdTimerExpiry
  | seqCommandStep (k : SlotNo)
  | seqWaitStep (k : SlotNo)
  | seqPauseStep (k : SlotNo)
  | seqEndStep (k : SlotNo)
  | sqrQtyUpdate (u : Update)
  | sqrStateChange (t : Target) (move : TargetState × TargetState) (cause : Option TripCause)
  | sqrTargetTripStop (t : Target) (what : TripStop) (origin : TripOrigin)
  | sqrSecondTimer
  | waitTimeout (k : SlotNo)
  | delayExpiry (k : SlotNo)
  | alarmChange (code : AlarmCode) (source : Source) (ch : AlarmChange)
  | alarmClear (code : AlarmCode) (source : Source)
  | counterIncrement (cs : List Counter)
  | staleClockSecond
  deriving DecidableEq, Repr

end Sys2Proof
end

