-- ==== Sys2Proof/Machine/Settings.lean ====
section
/-! DEFINITION. The settings of the 21 groups and the limit table: their items, ranges and defaults,
and the reading and writing of one item (R17, R51, R72, R78, R101, R122, R136, R147, R177). -/

namespace Sys2Proof.Machine

/-- The range and the default of a setting or limit row. -/
structure Range where
  lo : Int
  hi : Int
  dflt : Int
  deriving DecidableEq, Repr

/-- The working settings: one value per item, in the order the items are declared. -/
structure Settings where
  well : Bank (Bank Int 15) 16
  turbine : Bank Int 21
  exchanger : Bank Int 13
  scaling : Bank Int 11
  balance : Bank Int 6
  field : Bank Int 4
  entry : Bank (Bank Int 6) 24
  qty : Bank (Bank Int 4) 115
  deriving DecidableEq, Repr

/-! ## Codes of enumerated settings (log 9) -/

/-- The value of ROLE that stands for a role, in the order R78 lists them. -/
def roleCode : Role → Int
  | .production => 0 | .reinjection => 1 | .unused => 2

/-- The role a value of ROLE stands for. -/
def roleOfCode (v : Int) : Role :=
  if v = 0 then .production else if v = 1 then .reinjection else .unused

/-- The value of KIND that stands for a kind, in the order R136 lists them. -/
def kindCode : Kind → Int
  | .none => 0 | .well => 1 | .turbine => 2 | .exchanger => 3 | .brine => 4 | .analyser => 5
  | .weather => 6

/-- The kind a value of KIND stands for. -/
def kindOfCode (v : Int) : Kind :=
  if v = 1 then .well else if v = 2 then .turbine else if v = 3 then .exchanger
  else if v = 4 then .brine else if v = 5 then .analyser else if v = 6 then .weather else .none

/-! ## Quantities (R16) -/

/-- The quantity of channel `c` with offset `k` (R16: Q(6c) to Q(6c+5)). -/
def wellQty (c : WellNo) (k : Fin 6) : QtyNo := ⟨6 * c.val + k.val, by omega⟩

def qFlow (c : WellNo) : QtyNo := wellQty c 0
def qIntakeP (c : WellNo) : QtyNo := wellQty c 1
def qCurrent (c : WellNo) : QtyNo := wellQty c 2
def qWhTemp (c : WellNo) : QtyNo := wellQty c 3
def qPumpDp (c : WellNo) : QtyNo := wellQty c 4
def qInhibFeed (c : WellNo) : QtyNo := wellQty c 5
def qTurbSpeed : QtyNo := 96
def qInletP : QtyNo := 97
def qSteamFlow : QtyNo := 98
def qGenLoad : QtyNo := 99
def qAdmPos : QtyNo := 100
def qSepBrineT : QtyNo := 101
def qHxInT : QtyNo := 102
def qHxOutT : QtyNo := 103
def qHxBrineFlow : QtyNo := 104
def qNetSupplyT : QtyNo := 105
def qNetReturnT : QtyNo := 106
def qNetFlow : QtyNo := 107
def qBypassPos : QtyNo := 108
def qHxDp : QtyNo := 109
def qReinjT : QtyNo := 110
def qTankLevel : QtyNo := 111
def qMixT : QtyNo := 112
def qSilica : QtyNo := 113
def qOutdoorT : QtyNo := 114

/-- The default plausible ranges of the plant quantities Q96 to Q114 (R16). -/
def plantRanges : List (Int × Int) :=
  [(0, 4000), (0, 3000), (0, 400), (0, 60000), (0, 1000), (0, 3000), (0, 3000), (0, 3000),
   (0, 1500), (0, 1500), (0, 1500), (0, 3000), (0, 1000), (0, 1000), (0, 3000), (0, 10000),
   (0, 3000), (0, 2000), (-500, 500)]

/-- The default plausible ranges of a channel's six quantities (R16). -/
def wellRanges : List (Int × Int) :=
  [(0, 600), (0, 10000), (0, 2000), (0, 3000), (0, 5000), (0, 1000)]

/-- The default plausible range of a quantity (R16). -/
def plausible (q : QtyNo) : Int × Int :=
  if q.val < 96 then wellRanges.getD (q.val % 6) (0, 0) else plantRanges.getD (q.val - 96) (0, 0)

/-- The group a quantity's settings belong to (R17). -/
def qtyGroup (q : QtyNo) : Group :=
  if q.val < 96 then .well (Fin.ofNat 16 (q.val / 6))
  else if q.val ≤ 100 then .turbine
  else if q.val = 101 ∨ q.val = 110 ∨ q.val = 112 ∨ q.val = 113 then .scaling
  else if q.val = 111 then .balance
  else .exchanger

/-! ## Item numbers -/

def wellItemNo : WellItem → Fin 15
  | .role => 0 | .minFlow => 1 | .maxFlow => 2 | .startThreshold => 3 | .startTimeout => 4
  | .rampInterval => 5 | .rampStep => 6 | .tripRampStep => 7 | .tripPersist => 8
  | .dryCurrent => 9 | .cooldown => 10 | .lockoutWindow => 11 | .lockoutCount => 12
  | .inhibMin => 13 | .ratedFlow => 14

def turbItemNo : TurbItem → Fin 21
  | .warmTime => 0 | .warmPos => 1 | .warmSteam => 2 | .ratedSpeed => 3 | .runupRate => 4
  | .speedBand => 5 | .settleTime => 6 | .runupTimeout => 7 | .syncTimeout => 8 | .ratedLoad => 9
  | .admNoload => 10 | .loadRate => 11 | .unloadRate => 12 | .minLoad => 13 | .steamRate => 14
  | .shortfallMargin => 15 | .shortfallPersist => 16 | .inletPersist => 17 | .mismatchTime => 18
  | .resetSpeed => 19 | .adoptHold => 20

def hxItemNo : HxItem → Fin 13
  | .supplyMin => 0 | .supplyMax => 1 | .fallbackSupply => 2 | .kp => 3 | .maxStep => 4
  | .deadband => 5 | .hyst => 6 | .floorStep => 7 | .bypassMin => 8 | .breachPersist => 9
  | .cpBrine => 10 | .cpWater => 11 | .ratedBrineFlow => 12

def scaleItemNo : ScaleItem → Fin 11
  | .siWatch => 0 | .siHyst => 1 | .siPersist => 2 | .staleOffset => 3 | .flashWatch => 4
  | .calcitePersist => 5 | .foulBand => 6 | .foulWatch => 7 | .foulAlarm => 8 | .foulHyst => 9
  | .trendInterval => 10

def balItemNo : BalItem → Fin 6
  | .steamFraction => 0 | .heatBaseFlow => 1 | .tankXoff => 2 | .tankXon => 3 | .holdStep => 4
  | .holdInterval => 5

def fieldItemNo : FieldItem → Fin 4
  | .slotPeriod => 0 | .patternLength => 1 | .slotBudget => 2 | .pollBurst => 3

def entryItemNo : EntryItem → Fin 6
  | .kind => 0 | .address => 1 | .channel => 2 | .pollMask => 3 | .replyTimeout => 4
  | .failLimit => 5

def qtyItemNo : QtyItem → Fin 4
  | .rangeLow => 0 | .rangeHigh => 1 | .weight => 2 | .eraseLimit => 3

/-! ## Ranges and defaults -/

/-- Ranges and defaults of the items of a group WELLc (R78, R51). -/
def wellItemRange : WellItem → Range
  | .role => ⟨0, 2, 2⟩ | .minFlow => ⟨1, 600, 50⟩ | .maxFlow => ⟨1, 600, 250⟩
  | .startThreshold => ⟨0, 600, 40⟩ | .startTimeout => ⟨10, 600, 120⟩
  | .rampInterval => ⟨1, 60, 5⟩ | .rampStep => ⟨1, 100, 10⟩ | .tripRampStep => ⟨1, 200, 40⟩
  | .tripPersist => ⟨1, 15, 2⟩ | .dryCurrent => ⟨0, 2000, 300⟩ | .cooldown => ⟨0, 3600, 300⟩
  | .lockoutWindow => ⟨1, 1440, 60⟩ | .lockoutCount => ⟨1, 7, 3⟩ | .inhibMin => ⟨0, 1000, 50⟩
  | .ratedFlow => ⟨1, 600, 200⟩

/-- Ranges and defaults of the items of the group TURBINE (R101). -/
def turbItemRange : TurbItem → Range
  | .warmTime => ⟨5, 60, 10⟩ | .warmPos => ⟨0, 300, 50⟩ | .warmSteam => ⟨0, 100, 20⟩
  | .ratedSpeed => ⟨1000, 3600, 3000⟩ | .runupRate => ⟨1, 50, 5⟩ | .speedBand => ⟨5, 200, 30⟩
  | .settleTime => ⟨1, 120, 10⟩ | .runupTimeout => ⟨60, 3600, 900⟩
  | .syncTimeout => ⟨30, 1800, 300⟩ | .ratedLoad => ⟨1000, 60000, 30000⟩
  | .admNoload => ⟨0, 500, 80⟩ | .loadRate => ⟨1, 500, 50⟩ | .unloadRate => ⟨1, 1000, 100⟩
  | .minLoad => ⟨0, 10000, 1000⟩ | .steamRate => ⟨50, 250, 120⟩
  | .shortfallMargin => ⟨0, 500, 100⟩ | .shortfallPersist => ⟨1, 15, 3⟩
  | .inletPersist => ⟨1, 15, 3⟩ | .mismatchTime => ⟨1, 60, 5⟩ | .resetSpeed => ⟨0, 1000, 500⟩
  | .adoptHold => ⟨0, 300, 30⟩

/-- Ranges and defaults of the items of the group EXCHANGER (R72, R51). -/
def hxItemRange : HxItem → Range
  | .supplyMin => ⟨0, 1500, 600⟩ | .supplyMax => ⟨0, 1500, 1100⟩
  | .fallbackSupply => ⟨0, 1500, 900⟩ | .kp => ⟨1, 100, 20⟩ | .maxStep => ⟨1, 200, 20⟩
  | .deadband => ⟨0, 200, 30⟩ | .hyst => ⟨0, 200, 20⟩ | .floorStep => ⟨1, 200, 10⟩
  | .bypassMin => ⟨0, 1000, 0⟩ | .breachPersist => ⟨1, 15, 3⟩ | .cpBrine => ⟨3000, 5000, 4300⟩
  | .cpWater => ⟨3000, 5000, 4190⟩ | .ratedBrineFlow => ⟨1, 1500, 600⟩

/-- Ranges and defaults of the items of the group SCALING (R51). -/
def scaleItemRange : ScaleItem → Range
  | .siWatch => ⟨500, 2000, 950⟩ | .siHyst => ⟨0, 200, 30⟩ | .siPersist => ⟨1, 15, 3⟩
  | .staleOffset => ⟨0, 200, 50⟩ | .flashWatch => ⟨0, 2000, 300⟩ | .calcitePersist => ⟨1, 15, 3⟩
  | .foulBand => ⟨10, 500, 100⟩ | .foulWatch => ⟨1000, 3000, 1150⟩
  | .foulAlarm => ⟨1000, 3000, 1300⟩ | .foulHyst => ⟨0, 100, 20⟩ | .trendInterval => ⟨1, 60, 10⟩

/-- Ranges and defaults of the items of the group BALANCE (R122). -/
def balItemRange : BalItem → Range
  | .steamFraction => ⟨50, 500, 200⟩ | .heatBaseFlow => ⟨0, 9600, 300⟩
  | .tankXoff => ⟨1, 10000, 8000⟩ | .tankXon => ⟨0, 9999, 6000⟩ | .holdStep => ⟨1, 200, 20⟩
  | .holdInterval => ⟨10, 600, 60⟩

/-- Ranges and defaults of the scan settings (R147). -/
def fieldItemRange : FieldItem → Range
  | .slotPeriod => ⟨50, 1000, 100⟩ | .patternLength => ⟨1, 8, 4⟩ | .slotBudget => ⟨1, 32, 16⟩
  | .pollBurst => ⟨1, 16, 4⟩

/-- Ranges and defaults of the settings of a station table entry (R136). -/
def entryItemRange (e : EntryNo) : EntryItem → Range
  | .kind => ⟨0, 6, 0⟩ | .address => ⟨1, 63, e.val + 1⟩ | .channel => ⟨0, 15, 0⟩
  | .pollMask => ⟨0, 255, 255⟩ | .replyTimeout => ⟨5, 200, 20⟩ | .failLimit => ⟨1, 15, 3⟩

/-- Ranges and defaults of the settings of a quantity (R17). -/
def qtyItemRange (q : QtyNo) : QtyItem → Range
  | .rangeLow => ⟨(plausible q).1, (plausible q).2, (plausible q).1⟩
  | .rangeHigh => ⟨(plausible q).1, (plausible q).2, (plausible q).2⟩
  | .weight => ⟨1, 16, 4⟩ | .eraseLimit => ⟨1, 15, 3⟩

/-- The range and default of an item. -/
def itemRange : Item → Range
  | .well _ i => wellItemRange i | .turbine i => turbItemRange i | .exchanger i => hxItemRange i
  | .scaling i => scaleItemRange i | .balance i => balItemRange i | .field i => fieldItemRange i
  | .entry e i => entryItemRange e i | .qty q i => qtyItemRange q i

/-- The group an item belongs to (chapter 11.1, R17). -/
def itemGroup : Item → Group
  | .well c _ => .well c | .turbine _ => .turbine | .exchanger _ => .exchanger
  | .scaling _ => .scaling | .balance _ => .balance | .field _ => .field | .entry _ _ => .field
  | .qty q _ => qtyGroup q

/-- The ranges and defaults of the 55 limit rows (R177). -/
def limitRange (l : RowNo) : Range :=
  if l.val = 0 then ⟨1000, 4000, 3300⟩
  else if l.val = 1 then ⟨0, 3000, 400⟩
  else if l.val = 2 then ⟨0, 1000, 50⟩
  else if l.val = 3 then ⟨500, 2000, 1050⟩
  else if l.val = 4 then ⟨0, 500, 100⟩
  else if l.val = 5 then ⟨200, 2600, 1700⟩
  else if l.val = 6 then ⟨1, 240, 30⟩
  else if (l.val - 7) % 3 = 0 then ⟨0, 2000, 1500⟩
  else if (l.val - 7) % 3 = 1 then ⟨0, 2000, 100⟩
  else ⟨0, 600, 20⟩

/-- The limit row of a well: L7+3c overcurrent, L8+3c flash trip margin, L9+3c dry-run flow (R177). -/
def wellLimit (c : WellNo) (k : Fin 3) : RowNo := ⟨7 + 3 * c.val + k.val, by omega⟩

/-! ## Reading and writing one item -/

/-- The value of an item. -/
def Settings.read (t : Settings) : Item → Int
  | .well c i => (t.well.get c).get (wellItemNo i)
  | .turbine i => t.turbine.get (turbItemNo i)
  | .exchanger i => t.exchanger.get (hxItemNo i)
  | .scaling i => t.scaling.get (scaleItemNo i)
  | .balance i => t.balance.get (balItemNo i)
  | .field i => t.field.get (fieldItemNo i)
  | .entry e i => (t.entry.get e).get (entryItemNo i)
  | .qty q i => (t.qty.get q).get (qtyItemNo i)

/-- The settings with the value of one item replaced. -/
def Settings.write (t : Settings) (i : Item) (v : Int) : Settings :=
  match i with
  | .well c i => { t with well := t.well.modify c fun b => b.set (wellItemNo i) v }
  | .turbine i => { t with turbine := t.turbine.set (turbItemNo i) v }
  | .exchanger i => { t with exchanger := t.exchanger.set (hxItemNo i) v }
  | .scaling i => { t with scaling := t.scaling.set (scaleItemNo i) v }
  | .balance i => { t with balance := t.balance.set (balItemNo i) v }
  | .field i => { t with field := t.field.set (fieldItemNo i) v }
  | .entry e i => { t with entry := t.entry.modify e fun b => b.set (entryItemNo i) v }
  | .qty q i => { t with qty := t.qty.modify q fun b => b.set (qtyItemNo i) v }

def wellItems : List WellItem :=
  [.role, .minFlow, .maxFlow, .startThreshold, .startTimeout, .rampInterval, .rampStep,
   .tripRampStep, .tripPersist, .dryCurrent, .cooldown, .lockoutWindow, .lockoutCount, .inhibMin,
   .ratedFlow]

def turbItems : List TurbItem :=
  [.warmTime, .warmPos, .warmSteam, .ratedSpeed, .runupRate, .speedBand, .settleTime,
   .runupTimeout, .syncTimeout, .ratedLoad, .admNoload, .loadRate, .unloadRate, .minLoad,
   .steamRate, .shortfallMargin, .shortfallPersist, .inletPersist, .mismatchTime, .resetSpeed,
   .adoptHold]

def hxItems : List HxItem :=
  [.supplyMin, .supplyMax, .fallbackSupply, .kp, .maxStep, .deadband, .hyst, .floorStep,
   .bypassMin, .breachPersist, .cpBrine, .cpWater, .ratedBrineFlow]

def scaleItems : List ScaleItem :=
  [.siWatch, .siHyst, .siPersist, .staleOffset, .flashWatch, .calcitePersist, .foulBand,
   .foulWatch, .foulAlarm, .foulHyst, .trendInterval]

def balItems : List BalItem :=
  [.steamFraction, .heatBaseFlow, .tankXoff, .tankXon, .holdStep, .holdInterval]

def fieldItems : List FieldItem := [.slotPeriod, .patternLength, .slotBudget, .pollBurst]

def entryItems : List EntryItem :=
  [.kind, .address, .channel, .pollMask, .replyTimeout, .failLimit]

def qtyItems : List QtyItem := [.rangeLow, .rangeHigh, .weight, .eraseLimit]

/-- Every setting at its default (R181, check fails). -/
def defaultSettings : Settings where
  well := Bank.fill 16 ⟨wellItems.map fun i => (wellItemRange i).dflt, rfl⟩
  turbine := ⟨turbItems.map fun i => (turbItemRange i).dflt, rfl⟩
  exchanger := ⟨hxItems.map fun i => (hxItemRange i).dflt, rfl⟩
  scaling := ⟨scaleItems.map fun i => (scaleItemRange i).dflt, rfl⟩
  balance := ⟨balItems.map fun i => (balItemRange i).dflt, rfl⟩
  field := ⟨fieldItems.map fun i => (fieldItemRange i).dflt, rfl⟩
  entry := Bank.ofFn fun e => ⟨entryItems.map fun i => (entryItemRange e i).dflt, rfl⟩
  qty := Bank.ofFn fun q => ⟨qtyItems.map fun i => (qtyItemRange q i).dflt, rfl⟩

/-- Every limit row at its default (R177). -/
def defaultLimits : Bank Int 55 := Bank.ofFn fun l => (limitRange l).dflt

end Sys2Proof.Machine
end

