-- ==== Sys2Proof/Machine/Records.lean ====
section
/-! DEFINITION. The records the twelve blocks keep, and what replies and notices carry. -/

namespace Sys2Proof.Machine

/-! ## QTB and TIP -/

/-- A quantity record (R15). -/
structure Qty where
  state : QState
  y : Int
  prime : Nat
  run : Nat
  lastGood : Option U32
  sampleNo : Option Byte
  deriving DecidableEq, Repr

/-- A table record: 17 entries and the origin (R1). -/
structure Table where
  entries : Bank Int 17
  origin : Origin
  deriving DecidableEq, Repr

/-- The three table records (R1). -/
structure Tip where
  silica : Table
  psat : Table
  curve : Table
  deriving DecidableEq, Repr

/-! ## SCM -/

/-- The interval figures of a scaling point (R47). -/
structure Interval where
  min : Int
  max : Int
  sum : Int
  count : Nat
  staleSeen : Bool
  deriving DecidableEq, Repr

/-- A scaling point record (R30). -/
structure Point where
  state : PointState
  si : Option Int
  temp : Option Int
  solubility : Option Int
  clamp : ClampFlag
  alarmRun : Nat
  watchRun : Nat
  fallRun : Nat
  figures : Interval
  deriving DecidableEq, Repr

/-- The brine floor record (R35), and whether SILICA_STALE stands (R36, R38). -/
structure Floor where
  state : FloorState
  last : Option Int
  target : Option Int
  flag : FloorFlag
  inUse : Int
  clock : Option Nat
  silicaStale : Bool
  deriving DecidableEq, Repr

/-- A calcite record (R40), and whether WCC last reported the channel RUNNING (R42). -/
structure Calcite where
  margin : Option Int
  clamp : ClampFlag
  hold : Bool
  feedRun : Nat
  state : WatchState
  running : Bool
  deriving DecidableEq, Repr

/-- A fouling record (R44). -/
structure Fouling where
  baseline : Option Int
  rise : Option Int
  state : WatchState
  deriving DecidableEq, Repr

/-- A trend record (R47, R48). -/
structure Trend where
  seq : U32
  interval : U32
  point : PointNo
  state : PointState
  staleSeen : Bool
  min : Int
  max : Int
  mean : Int
  count : Nat
  floorInUse : Int
  deriving DecidableEq, Repr

/-- What the Scaling Monitor holds. -/
structure Scm where
  points : Bank Point 4
  floor : Floor
  calcite : Bank Calcite 16
  fouling : Bank Fouling 16
  hxFouling : Fouling
  trend : List Trend
  nextSeq : U32
  interval : U32
  trendLeft : Nat
  deriving DecidableEq, Repr

/-! ## HXC -/

/-- The set of isolation causes that stand (R54). -/
structure Causes where
  sp0Alarm : Bool
  silicaStale : Bool
  outletStale : Bool
  host : Bool
  deriving DecidableEq, Repr

/-- The exchanger record (R54). -/
structure Hxc where
  mode : HxMode
  bypass : Int
  curveBase : Option Int
  curveFlag : ClampFlag
  source : TargetSource
  offset : Int
  target : Int
  causes : Causes
  breachRun : Nat
  breach : Bool
  qmax : Option Int
  heat : Option Int
  limitedSeconds : Nat
  deriving DecidableEq, Repr

/-! ## WCC -/

/-- A channel record (R76). -/
structure Well where
  state : WellState
  target : Option Int
  demand : Int
  weight : Int
  ramp : Bool
  startLeft : Option Nat
  run : Option Bool
  fault : Option Bool
  margin : Option Int
  flashHold : Bool
  ocRun : Nat
  flashRun : Nat
  dryRun : Nat
  lastCause : Option WellCause
  cooldown : Nat
  history : List U32
  adopting : Bool
  deriving DecidableEq, Repr

/-! ## TBC -/

/-- The turbine record (R100). -/
structure Tbc where
  state : TurbState
  loadDemand : Int
  load : Int
  speed : Int
  admission : Int
  breakerOpen : Bool
  stageLeft : Option Nat
  settle : Nat
  inBand : Bool
  inletRun : Nat
  mismatch : Option Nat
  steamAvail : Int
  ceiling : Int
  shortfall : Bool
  shortRun : Nat
  steam : Int
  breaker : Option Bool
  tripIn : Bool
  tripOut : Bool
  lastCause : Option TurbCause
  adopting : Bool
  hold : Nat
  deriving DecidableEq, Repr

/-! ## BBU -/

/-- The classes of a well in an allocation (R130). -/
inductive WellClass | active | starting | heldLow | out
  deriving DecidableEq, Repr

/-- What READ_BALANCE gives for one well: its class in the last allocation and the target it was
handed (R134). -/
structure AllocRow where
  cls : Option WellClass
  target : Option Int
  deriving DecidableEq, Repr

/-- The balance record (R121), with the steam demand last handed (R124), whether TANK_HIGH stands
(R127), the TANK_XOFF of the last TANK_LEVEL value (R122), and the last allocation's classes and targets
(R134). -/
structure Bbu where
  mode : BalMode
  fixedTarget : Int
  afterTrip : Bool
  tReq : Int
  capacity : Int
  brineLimit : Int
  hold : HoldState
  holdCeiling : Option Int
  ceiling : Int
  fastDown : Bool
  brineOver : Bool
  holdTimer : Bool
  caps : Bank (Option Int) 16
  production : Int
  request : Int
  steam : Int
  tankHigh : Bool
  tankXoff : Int
  rows : Bank AllocRow 16
  deriving DecidableEq, Repr

/-! ## FLC -/

/-- What the link keeps of a station (R136). -/
structure StationRec where
  status : LinkStatus
  failRun : Nat
  lastDemand : Option SetOrder
  deriving DecidableEq, Repr

/-- A pending SET (R140). -/
structure SetEntry where
  entry : EntryNo
  order : SetOrder
  inFlight : Bool
  replaced : Bool
  deriving DecidableEq, Repr

/-- A queued TRIP with its count of sends (R141). -/
structure TripEntry where
  entry : EntryNo
  sends : Nat
  deriving DecidableEq, Repr

/-- The exchange in flight: the station settings under which it started (R137), the frame sent and
the REPLY_TIMEOUT it waits (R142). -/
structure Flight where
  exchange : Exchange
  entry : EntryNo
  station : Station
  timeout : Int
  frame : List Byte
  deriving DecidableEq, Repr

/-- What the Field Link Controller holds. -/
structure Flc where
  stations : Bank StationRec 24
  setQ : List SetEntry
  tripQ : List TripEntry
  flight : Option Flight
  position : Nat
  started : Nat
  burst : Nat
  pollList : List EntryNo
  retiring : List (EntryNo × Station)
  deriving DecidableEq, Repr

/-! ## SQR -/

/-- A step timer (R149). -/
inductive Timer | stopped | running (n : Nat) | frozen (n : Nat)
  deriving DecidableEq, Repr

/-- What SEQ_RESUME returns to (R149). -/
inductive SuspendedFrom | running | waiting | pause
  deriving DecidableEq, Repr

/-- The status byte of a reply (R193). -/
inductive Status
  | ok | clamped | busy | badKind | badValue | badTable | refusedState | refusedLocked
  | refusedClaimed | refusedProtected | refusedStore | notSelected | notFound
  deriving DecidableEq, Repr

/-- Reasons of a last failure (R149). -/
inductive FailReason
  | refused (st : Status) | timeout | targetTrip (t : Target) | targetStop (t : Target)
  | aborted | restart
  deriving DecidableEq, Repr

/-- A last failure (R149). -/
structure Failure where
  step : Nat
  reason : FailReason
  time : U32
  deriving DecidableEq, Repr

/-- A slot record (R149). -/
structure Slot where
  state : SlotState
  steps : List Step
  ptr : Nat
  timer : Timer
  suspendedFrom : Option SuspendedFrom
  pendingFailure : Option (Target × TripStop)
  claims : List Target
  lastFailure : Option Failure
  deriving DecidableEq, Repr

/-! ## ALT -/

/-- An alarm entry (R163). -/
structure AlarmEntry where
  code : AlarmCode
  source : Source
  severity : Severity
  state : AlarmState
  firstRaise : U32
  lastChange : U32
  occurrences : Nat
  value : Int
  deriving DecidableEq, Repr

/-- What the last power-on did with the retained memory (R173). -/
inductive Retention | cleared | kept | lost
  deriving DecidableEq, Repr

/-- The counter bank (R171). -/
structure Counters where
  well : Bank (Bank U32 8) 16
  turbine : Bank U32 10
  exchanger : Bank U32 3
  entry : Bank (Bank U32 7) 24
  device : Bank U32 1
  deriving DecidableEq, Repr

/-- What the Alarm Table and Counter Bank holds. -/
structure Alt where
  table : List AlarmEntry
  overflow : Bool
  alarmOut : Bool
  counters : Counters
  retention : Retention
  deriving DecidableEq, Repr

/-! ## SSL -/

/-- The content of the stored copy (R180): settings, tables, limit rows, P, the commissioning lock
and the 17 fouling baselines. -/
structure StoredCopy where
  settings : Settings
  silica : Bank Int 17
  psat : Bank Int 17
  curve : Bank Int 17
  limits : Bank Int 55
  boundary : Nat
  locked : Bool
  baselines : Bank (Option Int) 16
  hxBaseline : Option Int
  deriving DecidableEq, Repr

/-- The commissioning record (R179), whose two copies hold one content: P, the limit rows, of which it fixes
those below P, and the lock, which is set wherever the record stands. -/
structure CommRecord where
  boundary : Nat
  limits : Bank Int 55
  deriving DecidableEq, Repr

/-- What Settings and Limits holds. STORE_BUSY is set while `storing` is present. -/
structure Ssl where
  settings : Settings
  limits : Bank Int 55
  boundary : Nat
  locked : Bool
  hostLocks : Bank Bool 21
  storing : Option StoredCopy
  storeFault : Bool
  copy : Option StoredCopy
  record : Option CommRecord
  deriving DecidableEq, Repr

/-! ## SVP: replies and notices -/

/-- The port flags (R185, R193). -/
structure Flags where
  noticesLost : Bool
  storeBusy : Bool
  storeFault : Bool
  linkOverrun : Bool
  alarmUnacked : Bool
  deriving DecidableEq, Repr

/-- A group's lock state as GET_PARAM answers it (R175). -/
structure LockState where
  host : Bool
  claim : Option SlotNo
  deriving DecidableEq, Repr

/-- A quantity as READ_QTY and the machine reads give it (R28). -/
structure QtyView where
  index : QtyNo
  state : QState
  value : Option Int
  prime : Nat
  run : Nat
  lastGood : Option U32
  sampleNo : Option Byte
  deriving DecidableEq, Repr

/-- A point record as READ_SCALING POINTS gives it: without the interval figures (R50). -/
structure PointView where
  state : PointState
  si : Option Int
  temp : Option Int
  solubility : Option Int
  clamp : ClampFlag
  alarmRun : Nat
  watchRun : Nat
  fallRun : Nat
  deriving DecidableEq, Repr

/-- The owner's content of a reply, after its header (log 27). -/
inductive Content
  | none
  | ident (vendor part rev : Nat) (straps : Straps) (channels : Nat) (time : U32)
  | time (t : U32)
  | qtys (l : List QtyView)
  | badIndex (k : Nat)
  | table (entries : Bank Int 17) (origin : Origin)
  | forward (v : Int) (flag : ClampFlag)
  | inverse (target floor : Int) (flag : FloorFlag)
  | points (l : List PointView)
  | floor (f : Floor)
  | calcite (r : Calcite) (role : Role)
  | fouling (r : Fouling) (rated : Int)
  | interval (n : U32) (left : Nat) (l : List Interval)
  | trend (newest : U32) (kept : Nat) (fromOldest : Bool) (l : List Trend)
  | exchanger (h : Hxc) (floorInUse : Int) (floorState : FloorState) (outT supplyT : QtyView)
  | seconds (n : Nat)
  | well (w : Well) (role : Role)
  | turbine (t : Tbc) (l : List QtyView)
  | balance (b : Bbu) (rows : List (WellNo × AllocRow))
  | fieldEntry (kind : Kind) (address channel pollMask replyTimeout failLimit : Int)
      (r : StationRec) (pendingSet : Option SetEntry) (pendingTrip : Option TripEntry)
  | fieldAll (position started burst polls setLength : Nat) (tripQ : List TripEntry)
      (entries : List (Kind × Int × LinkStatus))
  | slot (s : Slot)
  | acked (acknowledged removed : Nat)
  | alarms (count : Nat) (overflow alarmOut : Bool) (retention : Retention) (l : List AlarmEntry)
  | counters (l : List U32) (retention : Retention)
  | param (v lo hi : Int) (lock : LockState)
  | limits (rows : Bank Int 55) (boundary : Nat) (locked : Bool)
  deriving DecidableEq, Repr

/-- A reply: kind byte, status, port flags, content (R184, R193). -/
structure Reply where
  kind : Byte
  status : Status
  flags : Flags
  content : Content
  deriving DecidableEq, Repr

/-- A notice (R187): of an alarm change with its mark (R169), of a state change (R66, R95, R118,
R134), or of a sequence slot (R161). -/
inductive Notice
  | alarm (e : AlarmEntry) (mark : Mark)
  | state (t : Target) (old new : TargetState) (cause : Option Nat)
  | seq (k : SlotNo) (old new : SlotState) (ptr : Nat) (failure : Option Failure)
  deriving DecidableEq, Repr

/-- What the Supervisory Port holds (R183 to R192). -/
structure Svp where
  plantTime : U32
  straps : Straps
  selection : Option (SelObject × Nat)
  noticesLost : Bool
  linkOverrun : Bool
  storeBusySeen : Bool
  storeFaultSeen : Bool
  notices : List Notice
  sending : Bool
  reply : Option Reply
  restartDue : Bool
  rx : List Byte
  deriving DecidableEq, Repr

end Sys2Proof.Machine
end

