-- ==== Sys2Proof/Machine/Tables.lean ====
section
/-! DEFINITION. The characteristic tables: factory copies, well-formedness, forward and inverse
interpolation (chapter 1), with the roundings of 00_scope. -/

namespace Sys2Proof.Machine

/-! ## Arithmetic words of the manual (00_scope, "Integer arithmetic", "Saturation and clamping") -/

/-- A value clamped to a range: replaced by the nearer end when it lies outside. -/
def clampTo (lo hi v : Int) : Int := max lo (min hi v)

/-- Division by a positive divisor, rounded up. -/
def ceilDiv (a b : Int) : Int := (a + b - 1) / b

/-- The larger of an integer and 0, as a count of seconds. -/
def seconds (v : Int) : Nat := v.toNat

/-! ## Axes and factory tables (R1, R2) -/

/-- The input of breakpoint 0 (R1). -/
def axis0 : TableName → Int
  | .silica => 200 | .psat => 200 | .curve => -400

/-- The distance between breakpoints (R1). -/
def axisStep : TableName → Int
  | .silica => 150 | .psat => 150 | .curve => 50

/-- The input of breakpoint 16 (R1). -/
def axisLast (t : TableName) : Int := axis0 t + 16 * axisStep t

def factorySilica : Bank Int 17 :=
  ⟨[106, 141, 181, 228, 282, 342, 409, 483, 563, 650, 742, 840, 944, 1053, 1167, 1286, 1409], rfl⟩

def factoryPsat : Bank Int 17 :=
  ⟨[2, 6, 12, 25, 47, 85, 143, 232, 362, 544, 792, 1123, 1555, 2106, 2797, 3650, 4692], rfl⟩

def factoryCurve : Bank Int 17 :=
  ⟨[1200, 1170, 1140, 1110, 1080, 1050, 1010, 970, 930, 880, 820, 760, 750, 750, 750, 750, 750],
   rfl⟩

/-! ## Well-formed tables (R3) -/

/-- The entry range of a kind of table (R3). -/
def entryInRange : TableName → Int → Bool
  | .silica, v => decide (1 ≤ v ∧ v ≤ 9999)
  | .psat, v => decide (1 ≤ v ∧ v ≤ 9999)
  | .curve, v => decide (0 ≤ v ∧ v ≤ 1500)

/-- The order between an entry and the one before it (R3). -/
def entryInOrder : TableName → (before v : Int) → Bool
  | .silica, before, v => decide (before < v)
  | .psat, before, v => decide (before < v)
  | .curve, before, v => decide (v ≤ before)

/-- The first offending index from index `k` on, after an entry `before` (R3). -/
def offendingFrom (t : TableName) : (k : Nat) → (before : Option Int) → List Int → Option Nat
  | _, _, [] => none
  | k, before, v :: vs =>
    if entryInRange t v && (match before with | none => true | some b => entryInOrder t b v)
    then offendingFrom t (k + 1) (some v) vs
    else some k

/-- The offending index of a list of entries, none when it is a well-formed table of the kind. -/
def offendingIndex (t : TableName) (l : List Int) : Option Nat := offendingFrom t 0 none l

/-! ## Forward interpolation (R7, R8) -/

/-- The entry of breakpoint `k`. -/
def entryAt (e : Bank Int 17) (k : Nat) : Int := e.rows.getD k 0

/-- The value in segment `k` at offset `f` (R8). -/
def segmentValue (t : TableName) (e : Bank Int 17) (k : Nat) (f : Int) : Int :=
  entryAt e k + ((entryAt e (k + 1) - entryAt e k) * f + axisStep t / 2) / axisStep t

/-- The forward interpolation of a table at an input (R7, R8). -/
def forward (t : TableName) (e : Bank Int 17) (u : Int) : Int × ClampFlag :=
  if u < axis0 t then (entryAt e 0, .clampLow)
  else if axisLast t < u then (entryAt e 16, .clampHigh)
  else if u = axisLast t then (entryAt e 16, .none)
  else (segmentValue t e ((u - axis0 t) / axisStep t).toNat ((u - axis0 t) % axisStep t), .none)

/-! ## Inverse interpolation (R10, R11) -/

/-- The solubility target S* (R10). -/
def solubilityTarget (c m : Int) : Int := (c * (1000 + m) + 999) / 1000

/-- The smallest k whose entry S[k+1] reaches `s`, the list being S[1], S[2], … (R11). -/
def segmentReaching (s : Int) : List Int → Nat
  | [] => 0
  | v :: vs => if s ≤ v then 0 else segmentReaching s vs + 1

/-- The floor and flag of an inverse SILICA interpolation for a target S* (R10, R11). -/
def inverseAt (e : Bank Int 17) (s : Int) : Int × FloorFlag :=
  if s ≤ entryAt e 0 then (200, .low)
  else if entryAt e 16 < s then (2600, .unreachable)
  else
    let k := segmentReaching s e.rows.tail
    (200 + 150 * (k : Int)
      + ceilDiv ((s - entryAt e k) * 150) (entryAt e (k + 1) - entryAt e k), .none)

/-- The inverse interpolation of a concentration and a margin: target, floor and flag (R10, R11). -/
def inverse (e : Bank Int 17) (c m : Int) : Int × Int × FloorFlag :=
  (solubilityTarget c m, inverseAt e (solubilityTarget c m))

end Sys2Proof.Machine
end

