-- ==== Sys2Proof/Machine/Initial.lean ====
section
/-! DEFINITION. The power-on value of every block's record, as the reset tables of the chapters give
it (R14, R29, R52, R74, R99, R120, R135, R148, R162, R173, R182, R192). -/

namespace Sys2Proof.Machine

/-- A quantity after a power-on or a restart (R29). -/
def newQty : Qty := ⟨.unprimed, 0, 0, 0, none, none⟩

/-- Empty interval figures (R47, R52). -/
def newFigures (staleSeen : Bool) : Interval := ⟨0, 0, 0, 0, staleSeen⟩

/-- A scaling point after power-on (R52). -/
def newPoint : Point := ⟨.clear, none, none, none, .none, 0, 0, 0, newFigures false⟩

/-- The brine floor record after power-on, from limit row L5 (R52). -/
def newFloor (l5 : Int) : Floor := ⟨.none, none, none, .none, l5, none, false⟩

/-- A calcite record after power-on (R52). -/
def newCalcite : Calcite := ⟨none, .none, false, 0, .none, false⟩

/-- A fouling record after power-on, with the baseline of the stored copy (R52). -/
def newFouling (baseline : Option Int) : Fouling := ⟨baseline, none, .none⟩

/-- The Scaling Monitor after power-on (R52). -/
def newScm (t : Settings) (limits : Bank Int 55) (baselines : Bank (Option Int) 16)
    (hxBaseline : Option Int) : Scm where
  points := Bank.fill 4 newPoint
  floor := newFloor (limits.get 5)
  calcite := Bank.fill 16 newCalcite
  fouling := Bank.ofFn fun c => newFouling (baselines.get c)
  hxFouling := newFouling hxBaseline
  trend := []
  nextSeq := 0
  interval := 0
  trendLeft := seconds (t.read (.scaling .trendInterval) * 60)

/-- The exchanger record after power-on (R74). -/
def newHxc (t : Settings) : Hxc where
  mode := .off
  bypass := 1000
  curveBase := none
  curveFlag := .none
  source := .fallback
  offset := 0
  target := clampTo (t.read (.exchanger .supplyMin)) (t.read (.exchanger .supplyMax))
    (t.read (.exchanger .fallbackSupply))
  causes := ⟨false, false, false, false⟩
  breachRun := 0
  breach := false
  qmax := none
  heat := none
  limitedSeconds := 0

/-- A channel record after a power-on that keeps nothing (R99). -/
def newWell : Well where
  state := .off
  target := none
  demand := 0
  weight := 1
  ramp := false
  startLeft := none
  run := none
  fault := none
  margin := none
  flashHold := false
  ocRun := 0
  flashRun := 0
  dryRun := 0
  lastCause := none
  cooldown := 0
  history := []
  adopting := true

/-- A channel record after a power-on that keeps the retained fields of `w` (R99). -/
def retainedWell (w : Well) : Well :=
  { newWell with
    state := if w.state = .lockedOut then .lockedOut else .off
    lastCause := w.lastCause
    history := w.history }

/-- The turbine record after power-on, with the level of TRIP_IN (R120). -/
def newTbc (tripIn : Bool) : Tbc where
  state := .offline
  loadDemand := 0
  load := 0
  speed := 0
  admission := 0
  breakerOpen := false
  stageLeft := none
  settle := 0
  inBand := false
  inletRun := 0
  mismatch := none
  steamAvail := 0
  ceiling := 0
  shortfall := false
  shortRun := 0
  steam := 0
  breaker := none
  tripIn := tripIn
  tripOut := false
  lastCause := none
  adopting := true
  hold := 0

/-- The class and target READ_BALANCE gives after power-on: every well of a role is OFF, so out of the
allocation and handed nothing (R130, R135). -/
def newRow (t : Settings) (c : WellNo) : AllocRow :=
  ⟨if roleOfCode (t.read (.well c .role)) = .unused then none else some .out, none⟩

/-- The balance record after power-on: computed from a steam demand of 0 and channels that are all OFF
(R135), so R and the brine limit are 0 and so is C. -/
def newBbu (t : Settings) : Bbu where
  mode := .power
  fixedTarget := 0
  afterTrip := false
  tReq := max (t.read (.balance .heatBaseFlow)) 0
  capacity := 0
  brineLimit := 0
  hold := .normal
  holdCeiling := none
  ceiling := 0
  fastDown := false
  brineOver := false
  holdTimer := false
  caps := Bank.fill 16 none
  production := 0
  request := 0
  steam := 0
  tankHigh := false
  tankXoff := t.read (.balance .tankXoff)
  rows := Bank.ofFn fun c => newRow t c

/-- A station's record after power-on (R148). -/
def newStation : StationRec := ⟨.unknown, 0, none⟩

/-- The Field Link Controller after power-on, before the poll list of position 0 is built (R148). -/
def newFlc : Flc where
  stations := Bank.fill 24 newStation
  setQ := []
  tripQ := []
  flight := none
  position := 0
  started := 0
  burst := 0
  pollList := []
  retiring := []

/-- A slot after power-on (R162). -/
def newSlot : Slot := ⟨.empty, [], 0, .stopped, none, none, [], none⟩

/-- A counter bank of zeros (R173). -/
def newCounters : Counters where
  well := Bank.fill 16 (Bank.fill 8 0)
  turbine := Bank.fill 10 0
  exchanger := Bank.fill 3 0
  entry := Bank.fill 24 (Bank.fill 7 0)
  device := Bank.fill 1 0

/-- The Supervisory Port after power-on (R192). -/
def newSvp (straps : Straps) : Svp where
  plantTime := 0
  straps := straps
  selection := none
  noticesLost := false
  linkOverrun := false
  storeBusySeen := false
  storeFaultSeen := false
  notices := []
  sending := false
  reply := none
  restartDue := false
  rx := []

/-- The factory tables, with origin FACTORY (R2). -/
def factoryTip : Tip :=
  ⟨⟨factorySilica, .factory⟩, ⟨factoryPsat, .factory⟩, ⟨factoryCurve, .factory⟩⟩

/-- The STORE_FAULT entry that a power-on whose stored copy fails its check raises (R181, R164). -/
def storeFaultEntry : AlarmEntry :=
  ⟨.storeFault, .store, .alarm, .activeUnacked, 0, 0, 1, 1⟩

end Sys2Proof.Machine
end

