-- ==== Sys2Proof/Machine/State.lean ====
section
/-! DEFINITION. The state of the part: every record of its twelve blocks, the command queue, and the
events one block has handed another. -/

namespace Sys2Proof.Machine

/-- Reasons a step can stop with a fault: there are none. The spec gives every operation and event an
effect (INVENTORY.md, Faults), so no meaning faults. -/
inductive Fault
  deriving DecidableEq, Repr

/-- Reasons a step can be refused. -/
inductive Refusal
  /-- Raised by exec's arm of a row that has no meaning yet; safe, since the machine stops. No arm
  raises it now. -/
  | notModelled (mnemonic : String)
  deriving DecidableEq, Repr

/-- The state of the TD-48. `pending` is the queue of commands waiting, first in, first out. `handed`
is the list of events handed from block to block and not yet taken (log 1). `free` makes each free
value fresh (log 14). -/
structure State where
  pending : List Instr
  handed : List Instr
  svp : Svp
  flc : Flc
  qtb : Bank Qty 115
  tip : Tip
  scm : Scm
  hxc : Hxc
  wcc : Bank Well 16
  tbc : Tbc
  bbu : Bbu
  sqr : Bank Slot 4
  alt : Alt
  ssl : Ssl
  free : Nat
  deriving DecidableEq, Repr

/-- The part right after the power-on of a part whose store was never written, with every strap pin
low and TRIP_IN clear (R181: a store never written counts as failing; log 6): defaults everywhere,
STORE_FAULT raised with the value 1 and its notice queued. -/
def State.reset : State where
  pending := []
  handed := []
  svp := { newSvp ⟨0, 0, false⟩ with
    storeFaultSeen := true
    notices := [.alarm storeFaultEntry .raised] }
  flc := newFlc
  qtb := Bank.fill 115 newQty
  tip := factoryTip
  scm := newScm defaultSettings defaultLimits (Bank.fill 16 none) none
  hxc := newHxc defaultSettings
  wcc := Bank.fill 16 newWell
  tbc := newTbc false
  bbu := newBbu defaultSettings
  sqr := Bank.fill 4 newSlot
  alt := ⟨[storeFaultEntry], false, true, newCounters, .cleared⟩
  ssl := {
    settings := defaultSettings
    limits := defaultLimits
    boundary := 0
    locked := false
    hostLocks := Bank.fill 21 false
    storing := none
    storeFault := true
    copy := none
    record := none }
  free := 0

end Sys2Proof.Machine
end

