-- ==== Sys2Proof/Machine/Operands.lean ====
section
/-! DEFINITION. The operands of requests and events: range checks of numbers, and how a taker reads a
quantity at an update. -/

namespace Sys2Proof.Machine

/-! ## Numbers a request carries -/

/-- A number as an index below `n`, none when it is out of range. -/
def indexArg (n k : Nat) : Option (Fin n) := if h : k < n then some ⟨k, h⟩ else none

/-- All channels, stations, slots, points in ascending order. -/
def wells : List WellNo := List.finRange 16
def entryNos : List EntryNo := List.finRange 24
def slotNos : List SlotNo := List.finRange 4
def pointNos : List PointNo := List.finRange 4

/-! ## Quantities -/

/-- The reported value of a smoothed value Y (R23): Y/16 rounded half up. -/
def reportedOf (y : Int) : Int := (y + 8) / 16

/-- The reported value of a quantity as it stands (R23). -/
def State.reported (s : State) (q : QtyNo) : Int := reportedOf (s.qtb.get q).y

/-- The reported value of a quantity while it is VALID. -/
def State.validNow (s : State) (q : QtyNo) : Option Int :=
  if (s.qtb.get q).state = .valid then some (s.reported q) else none

/-- The update that BBU is handed, if the event is one. -/
def bbuUpdateOf : Instr → Option Update
  | .bbuTankUpdate u => some u
  | _ => none

/-- The update that TBC is handed, if the event is one. -/
def tbcUpdateOf : Instr → Option Update
  | .tbcUpdate u => some u
  | _ => none

/-- A quantity's state and reported value as a taker meets them at an event other than an update: as they stood
before the oldest update that it has been handed and has not yet taken, and as the quantity table has them when
none waits or QTB has started anew (R115, R127, log 42). -/
def State.metBy (s : State) (updateOf : Instr → Option Update) (q : QtyNo) : QState × Int :=
  if (s.qtb.get q).state = .unprimed then (.unprimed, s.reported q)
  else (s.handed.findSome? fun e => (updateOf e).bind fun u => u.before.lookup q).getD
    ((s.qtb.get q).state, s.reported q)

/-- The reported value of a quantity that a taker meets as VALID. -/
def State.validFor (s : State) (updateOf : Instr → Option Update) (q : QtyNo) : Option Int :=
  if (s.metBy updateOf q).1 = .valid then some (s.metBy updateOf q).2 else none

/-- A quantity as READ_QTY gives it (R28). -/
def State.viewOf (s : State) (q : QtyNo) : QtyView :=
  let r := s.qtb.get q
  { index := q, state := r.state
    value := if r.state = .unprimed then none else some (reportedOf r.y)
    prime := r.prime, run := r.run, lastGood := r.lastGood
    sampleNo := if q = qSilica then r.sampleNo else none }

end Sys2Proof.Machine

namespace Sys2Proof

/-! ## Updates (R27) -/

/-- The new value an update lists for a quantity. -/
def Update.newValue (u : Update) (q : QtyNo) : Option Int := u.values.lookup q

/-- The change of state an update lists for a quantity. -/
def Update.change (u : Update) (q : QtyNo) : Option (QState × QState) := u.changes.lookup q

/-- An update lists a new value of the quantity. -/
def Update.listsValue (u : Update) (q : QtyNo) : Bool := (u.newValue q).isSome

/-- An update lists the quantity, in a new value or a change of state. -/
def Update.lists (u : Update) (q : QtyNo) : Bool := (u.newValue q).isSome || (u.change q).isSome

/-- An update lists the quantity as moving into STALE. -/
def Update.intoStale (u : Update) (q : QtyNo) : Bool :=
  match u.change q with | some (_, new) => decide (new = .stale) | none => false

/-- An update lists the quantity as moving into VALID. -/
def Update.intoValid (u : Update) (q : QtyNo) : Bool :=
  match u.change q with | some (_, new) => decide (new = .valid) | none => false

/-- An update lists the quantity as moving out of VALID. -/
def Update.outOfValid (u : Update) (q : QtyNo) : Bool :=
  match u.change q with | some (old, new) => decide (old = .valid ∧ new ≠ .valid) | none => false

/-- A quantity's state and reported value as an update shows them: those it stood at after the update's event;
a quantity of another station is read from the quantity table as it stands (R27). -/
def Update.seen (u : Update) (s : Machine.State) (q : QtyNo) : QState × Int :=
  (u.shown.lookup q).getD ((s.qtb.get q).state, s.reported q)

/-- The state of a quantity as an update leaves it (R27). -/
def Update.stateOf (u : Update) (s : Machine.State) (q : QtyNo) : QState :=
  if u.listsValue q then .valid
  else match u.change q with | some (_, new) => new | none => (u.seen s q).1

/-- The value of a quantity that is VALID as an update leaves it (R27, R31). -/
def Update.valid (u : Update) (s : Machine.State) (q : QtyNo) : Option Int :=
  match u.newValue q with
  | some v => some v
  | none => if u.stateOf s q = .valid then some (u.seen s q).2 else none

end Sys2Proof

namespace Sys2Proof.Machine

/-! ## Settings as they stand -/

def State.item (s : State) (i : Item) : Int := s.ssl.settings.read i
def State.wellSet (s : State) (c : WellNo) (i : WellItem) : Int := s.item (.well c i)
def State.turbSet (s : State) (i : TurbItem) : Int := s.item (.turbine i)
def State.hxSet (s : State) (i : HxItem) : Int := s.item (.exchanger i)
def State.scaleSet (s : State) (i : ScaleItem) : Int := s.item (.scaling i)
def State.balSet (s : State) (i : BalItem) : Int := s.item (.balance i)
def State.fieldSet (s : State) (i : FieldItem) : Int := s.item (.field i)
def State.entrySet (s : State) (e : EntryNo) (i : EntryItem) : Int := s.item (.entry e i)
def State.qtySet (s : State) (q : QtyNo) (i : QtyItem) : Int := s.item (.qty q i)
def State.limit (s : State) (l : RowNo) : Int := s.ssl.limits.get l
def State.wellLim (s : State) (c : WellNo) (k : Fin 3) : Int := s.limit (wellLimit c k)

/-- The role of a channel (R77). -/
def State.role (s : State) (c : WellNo) : Role := roleOfCode (s.wellSet c .role)

/-- STORE_BUSY (R180). -/
def State.storeBusy (s : State) : Bool := s.ssl.storing.isSome

/-- The station of a table entry as its settings name it (R136). -/
def State.station (s : State) (e : EntryNo) : Station where
  kind := kindOfCode (s.entrySet e .kind)
  address := (s.entrySet e .address).toNat
  channel := Fin.ofNat 16 (s.entrySet e .channel).toNat

/-- The entry of a kind other than WELL, when the table holds one (R136). -/
def State.entryOfKind (s : State) (k : Kind) : Option EntryNo :=
  entryNos.find? fun e => decide ((s.station e).kind = k)

/-- The WELL entry bound to a channel, when the table holds one (R136). -/
def State.entryOfWell (s : State) (c : WellNo) : Option EntryNo :=
  entryNos.find? fun e => decide ((s.station e).kind = .well ∧ (s.station e).channel = c)

/-- The status of an entry's station. -/
def State.linkStatus (s : State) (e : EntryNo) : LinkStatus := (s.flc.stations.get e).status

/-- The entry a SET names. -/
def State.entryOfOrder (s : State) : SetOrder → Option EntryNo
  | .well c _ => s.entryOfWell c
  | .exchanger _ => s.entryOfKind .exchanger
  | .turbine _ => s.entryOfKind .turbine

/-- The entry a TRIP names. -/
def State.entryOfTrip (s : State) : TripStation → Option EntryNo
  | .well c => s.entryOfWell c
  | .turbine => s.entryOfKind .turbine

/-- The quantities a station delivers, in the order of R136. -/
def stationQtys (k : Kind) (c : WellNo) : List QtyNo :=
  match k with
  | .none => []
  | .well => [qFlow c, qIntakeP c, qCurrent c, qWhTemp c, qPumpDp c, qInhibFeed c]
  | .turbine => [qTurbSpeed, qInletP, qSteamFlow, qGenLoad, qAdmPos]
  | .exchanger =>
    [qHxInT, qHxOutT, qHxBrineFlow, qNetSupplyT, qNetReturnT, qNetFlow, qBypassPos, qHxDp]
  | .brine => [qSepBrineT, qReinjT, qTankLevel, qMixT]
  | .analyser => [qSilica]
  | .weather => [qOutdoorT]

/-- A run of consecutive findings, incremented and saturating at 15. -/
def run15 (n : Nat) : Nat := min (n + 1) 15

/-- A run has reached a persistence setting. -/
def reaches (n : Nat) (persist : Int) : Bool := decide (persist ≤ (n : Int))

end Sys2Proof.Machine
end

