-- ==== Sys2Proof/Machine/Flags.lean ====
section
/-! DEFINITION. The flags computed from the records: ALARM_OUT, ALARM_UNACKED and the port flags. -/

namespace Sys2Proof.Machine

/-- An entry is active (R163). -/
def AlarmEntry.active (e : AlarmEntry) : Bool :=
  decide (e.state = .activeUnacked ∨ e.state = .activeAcked)

/-- ALARM_OUT is asserted: an entry is ACTIVE_UNACKED, or an active entry has the severity ALARM or
TRIP, or TABLE_OVERFLOW is set (R168). -/
def alarmOutOf (table : List AlarmEntry) (overflow : Bool) : Bool :=
  table.any (fun e => decide (e.state = .activeUnacked))
    || table.any (fun e => e.active && decide (e.severity ≠ .watch))
    || overflow

/-- The port flag ALARM_UNACKED: an entry is ACTIVE_UNACKED or CLEARED_UNACKED (R168). -/
def alarmUnackedOf (table : List AlarmEntry) : Bool :=
  table.any fun e => decide (e.state = .activeUnacked ∨ e.state = .clearedUnacked)

/-- The port flags of a reply formed now (R185). -/
def State.portFlags (s : State) : Flags where
  noticesLost := s.svp.noticesLost
  storeBusy := s.storeBusy || s.svp.storeBusySeen
  storeFault := s.ssl.storeFault || s.svp.storeFaultSeen
  linkOverrun := s.svp.linkOverrun
  alarmUnacked := alarmUnackedOf s.alt.table

/-- The port-flags byte of the reply header (R193). -/
def Flags.toByte (f : Flags) : Byte :=
  BitVec.ofNat 8 (f.noticesLost.toNat + 2 * f.storeBusy.toNat + 4 * f.storeFault.toNat
    + 8 * f.linkOverrun.toNat + 16 * f.alarmUnacked.toNat)

end Sys2Proof.Machine
end

