-- ==== Sys2Proof/Machine/Ops.lean ====
section
/-! DEFINITION. The operations several blocks share: handing an event on, notices, the alarm table and
the counter bank, claims and locks, and taking a request and answering it. -/

namespace Sys2Proof

/-- The order of severities: WATCH, ALARM, TRIP. -/
def Severity.rank : Severity → Nat
  | .watch => 0 | .alarm => 1 | .trip => 2

/-- The severity a change carries. -/
def AlarmChange.severity : AlarmChange → Severity
  | .raise sev _ => sev | .escalate sev _ => sev | .deescalate sev => sev

/-- The value a change carries; a de-escalation carries none. -/
def AlarmChange.value : AlarmChange → Option Int
  | .raise _ v => some v | .escalate _ v => some v | .deescalate _ => none

end Sys2Proof

namespace Sys2Proof.Machine

/-- What a step of the part answers. -/
abbrev Result := Host.Outcome State Fault Refusal

/-- What an owner answers to a request: the state after it, the status and the content. -/
abbrev Answer := State × Status × Content

/-! ## Events between blocks (log 1) -/

/-- Events handed to other blocks, in the order the rules hand them. -/
def State.hand (s : State) (l : List Instr) : State := { s with handed := s.handed ++ l }

/-- An event is being taken: it no longer waits among those handed. -/
def State.took (s : State) (i : Instr) : State := { s with handed := s.handed.erase i }

/-- The next free value's number (log 14), and the counter moved on. -/
def State.useFree (s : State) : State := { s with free := s.free + 1 }

/-! ## Notices (R187) -/

/-- A notice joins the tail of the queue, or is dropped with NOTICES_LOST set when the queue is
full. -/
def Svp.queue (v : Svp) (n : Notice) : Svp :=
  if v.notices.length < Config.noticeCapacity then { v with notices := v.notices ++ [n] }
  else { v with noticesLost := true }

/-- Notices handed to SVP, in order. -/
def State.notify (s : State) (l : List Notice) : State :=
  { s with svp := l.foldl Svp.queue s.svp }

/-! ## The alarm table (R164 to R169) -/

/-- The entry is the one for the code and source. -/
def AlarmEntry.isFor (code : AlarmCode) (source : Source) (e : AlarmEntry) : Bool :=
  decide (e.code = code ∧ e.source = source)

/-- The entry for a code and source. -/
def Alt.entry (a : Alt) (code : AlarmCode) (source : Source) : Option AlarmEntry :=
  a.table.find? (AlarmEntry.isFor code source)

/-- ALARM_OUT evaluated anew (R168). -/
def Alt.evaluate (a : Alt) : Alt := { a with alarmOut := alarmOutOf a.table a.overflow }

/-- The entry for a code and source replaced in its place. -/
def Alt.put (a : Alt) (e : AlarmEntry) : Alt :=
  { a with table := a.table.map fun x => if x.isFor e.code e.source then e else x }

/-- The entry for a code and source removed, which clears TABLE_OVERFLOW (R167). -/
def Alt.remove (a : Alt) (code : AlarmCode) (source : Source) : Alt :=
  { a with table := a.table.filter (fun x => !x.isFor code source), overflow := false }

/-- A new entry: it joins the tail; a full table first evicts its oldest CLEARED_UNACKED entry, and
with none to evict the entry is not entered and TABLE_OVERFLOW is set (R164, R167, R169). -/
def Alt.add (a : Alt) (e : AlarmEntry) : Alt × List Notice :=
  if a.table.length < Config.alarmCapacity then
    ({ a with table := a.table ++ [e] }, [.alarm e .raised])
  else
    match a.table.find? (fun x => decide (x.state = .clearedUnacked)) with
    | some old =>
      ({ a with
          table := a.table.eraseP (fun x => decide (x.state = .clearedUnacked)) ++ [e]
          overflow := false },
        [.alarm old .evicted, .alarm e .raised])
    | none =>
      ({ a with overflow := true },
        [.alarm { e with occurrences := 0 } .notEntered])

/-- A change on an active entry (R164): raised or escalated to a higher severity, refreshed at the
same severity, or lowered. Changes no owner hands are log 17. -/
def Alt.changeActive (now : U32) (ch : AlarmChange) (e : AlarmEntry) (a : Alt) :
    Alt × List Notice :=
  match ch.value with
  | some v =>
    if e.severity.rank < ch.severity.rank then
      let e' := { e with severity := ch.severity, state := .activeUnacked, value := v, lastChange := now }
      (a.put e', [.alarm e' .escalated])
    else if ch.severity = e.severity then
      (if e.value = v then a else a.put { e with value := v, lastChange := now }, [])
    else
      let e' := { e with severity := ch.severity, lastChange := now }
      (a.put e', [.alarm e' .deescalated])
  | none =>
    if ch.severity.rank < e.severity.rank then
      let e' := { e with severity := ch.severity, lastChange := now }
      (a.put e', [.alarm e' .deescalated])
    else (a, [])

/-- ALT takes a raise, an escalation or a de-escalation (R164, R167, R169). -/
def Alt.change (now : U32) (code : AlarmCode) (source : Source) (ch : AlarmChange) (a : Alt) :
    Alt × List Notice :=
  match a.entry code source with
  | none => a.add ⟨code, source, ch.severity, .activeUnacked, now, now, 1, ch.value.getD 0⟩
  | some e =>
    if e.state = .clearedUnacked then
      let e' := { e with
        severity := ch.severity, state := .activeUnacked
        occurrences := min (e.occurrences + 1) 65535
        value := ch.value.getD e.value, lastChange := now }
      (a.put e', [.alarm e' .raised])
    else a.changeActive now ch e

/-- ALT takes a clear (R165, R169). -/
def Alt.clear (now : U32) (code : AlarmCode) (source : Source) (a : Alt) : Alt × List Notice :=
  match a.entry code source with
  | none => (a, [])
  | some e =>
    match e.state with
    | .activeUnacked =>
      let e' := { e with state := .clearedUnacked, lastChange := now }
      (a.put e', [.alarm e' .cleared])
    | .activeAcked => (a.remove code source, [.alarm e .removed])
    | .clearedUnacked => (a, [])

/-- An acknowledgement of one entry (R166). -/
def Alt.ack (now : U32) (e : AlarmEntry) (a : Alt) : Alt :=
  match e.state with
  | .activeUnacked => a.put { e with state := .activeAcked, lastChange := now }
  | .clearedUnacked => a.remove e.code e.source
  | .activeAcked => a

/-- ALT takes an owner's change, evaluates ALARM_OUT and hands SVP its notices. -/
def State.alarmChange (s : State) (code : AlarmCode) (source : Source) (ch : AlarmChange) : State :=
  let r := s.alt.change s.svp.plantTime code source ch
  { s with alt := r.1.evaluate }.notify r.2

/-- ALT takes an owner's clear, evaluates ALARM_OUT and hands SVP its notices. -/
def State.alarmClear (s : State) (code : AlarmCode) (source : Source) : State :=
  let r := s.alt.clear s.svp.plantTime code source
  { s with alt := r.1.evaluate }.notify r.2

/-- A source is one the code names (R163). -/
def codeNames (code : AlarmCode) (source : Source) : Bool :=
  match code, source with
  | .silicaSi, .point _ => true
  | .silicaFloorUnreachable, .floor => true
  | .silicaStale, .floor => true
  | .flashWatch, .well _ => true
  | .calciteRisk, .well _ => true
  | .pumpFouling, .well _ => true
  | .hxFouling, .exchanger => true
  | .hxIsolated, .exchanger => true
  | .floorBreach, .exchanger => true
  | .wellTrip, .well _ => true
  | .wellLockout, .well _ => true
  | .turbTrip, .turbine => true
  | .steamShortfall, .turbine => true
  | .tankHigh, .balance => true
  | .brineOver, .balance => true
  | .stationLost, .station a => decide (1 ≤ a ∧ a ≤ 63)
  | .storeFault, .store => true
  | _, _ => false

/-! ## The counter bank (R171) -/

def wellCauseNo : WellCause → Fin 8
  | .linkLost => 1 | .driveFault => 2 | .overcurrent => 3 | .flash => 4 | .dryRun => 5
  | .startFail => 6 | .operator => 7

def turbCauseNo : TurbCause → Fin 10
  | .external => 1 | .overspeed => 2 | .lowInlet => 3 | .linkLost => 4 | .valveMismatch => 5
  | .runupFail => 6 | .syncFail => 7 | .operator => 8 | .adopt => 9

def outcomeNo : Outcome → Fin 7
  | .good => 1 | .noReply => 2 | .badCheck => 3 | .wrongAddr => 4 | .badForm => 5

/-- A counter incremented, wrapping at 32 bits. -/
def Counters.bump (b : Counters) : Counter → Counters
  | .wellStarts c => { b with well := b.well.modify c fun r => r.modify 0 (· + 1) }
  | .wellTrips c k => { b with well := b.well.modify c fun r => r.modify (wellCauseNo k) (· + 1) }
  | .turbStarts => { b with turbine := b.turbine.modify 0 (· + 1) }
  | .turbTrips k => { b with turbine := b.turbine.modify (turbCauseNo k) (· + 1) }
  | .heatLimitedMin => { b with exchanger := b.exchanger.modify 0 (· + 1) }
  | .isolations => { b with exchanger := b.exchanger.modify 1 (· + 1) }
  | .floorBreaches => { b with exchanger := b.exchanger.modify 2 (· + 1) }
  | .exchanges e => { b with entry := b.entry.modify e fun r => r.modify 0 (· + 1) }
  | .outcomes e o => { b with entry := b.entry.modify e fun r => r.modify (outcomeNo o) (· + 1) }
  | .deferredPolls e => { b with entry := b.entry.modify e fun r => r.modify 6 (· + 1) }
  | .scanOverruns => { b with device := b.device.modify 0 (· + 1) }

/-- An owner's counters in reply order. -/
def Counters.of (b : Counters) : CounterOwner → List U32
  | .well c => (b.well.get c).rows
  | .turbine => b.turbine.rows
  | .exchanger => b.exchanger.rows
  | .entry e => (b.entry.get e).rows
  | .device => b.device.rows

/-- An owner's counters set to 0 (R172). -/
def Counters.zero (b : Counters) : CounterOwner → Counters
  | .well c => { b with well := b.well.set c (Bank.fill 8 0) }
  | .turbine => { b with turbine := Bank.fill 10 0 }
  | .exchanger => { b with exchanger := Bank.fill 3 0 }
  | .entry e => { b with entry := b.entry.set e (Bank.fill 7 0) }
  | .device => { b with device := Bank.fill 1 0 }

/-! ## Claims and locks (R152, R160, R176) -/

/-- The slot that holds a claim on a target. -/
def State.claimant (s : State) (t : Target) : Option SlotNo :=
  slotNos.find? fun k => decide (t ∈ (s.sqr.get k).claims)

/-- A slot holds a claim on the target and the command does not come from that slot (R160). -/
def State.claimedAgainst (s : State) (caller : Caller) (t : Target) : Bool :=
  match s.claimant t with
  | none => false
  | some k => decide (caller ≠ .slot k)

/-- The target whose claim locks a group (R152). -/
def groupTarget : Group → Option Target
  | .well c => some (.well c) | .turbine => some .turbine | .exchanger => some .exchanger
  | .balance => some .balance | .scaling => none | .field => none

/-- The number of a group's host lock. -/
def groupNo : Group → Fin 21
  | .well c => Fin.castLE (by omega) c
  | .turbine => 16 | .exchanger => 17 | .scaling => 18 | .balance => 19 | .field => 20

/-- A group's lock state (R175, R176). -/
def State.lockState (s : State) (g : Group) : LockState where
  host := s.ssl.hostLocks.get (groupNo g)
  claim := (groupTarget g).bind s.claimant

/-- A group is locked while either lock stands (R176). -/
def State.groupLocked (s : State) (g : Group) : Bool :=
  (s.lockState g).host || (s.lockState g).claim.isSome

/-! ## Requests and replies (R184, R185) -/

/-- The reply is formed: the port flags are read, the event flags cleared, and the request is in
progress until its reply has been sent. A STORE_BUSY that stands was set at a time since this reply too; a
STORE_FAULT shows again only while it stands or when it is raised anew (R180, R185). -/
def State.answer (s : State) (kind : Byte) (st : Status) (c : Content) : State :=
  { s with svp := { s.svp with
      reply := some ⟨kind, st, s.portFlags, c⟩
      noticesLost := false
      linkOverrun := false
      storeBusySeen := s.storeBusy
      storeFaultSeen := false
      rx := [] } }

/-- A good frame that completes while a request is in progress is discarded (R184). -/
def State.overrun (s : State) : State :=
  { s with svp := { s.svp with linkOverrun := true, rx := [] } }

/-- A present selection is cancelled (R188). -/
def State.deselect (s : State) : State := { s with svp := { s.svp with selection := none } }

/-- A request other than an OPERATE is taken: it cancels a present selection, its owner takes it, and
the reply is formed. While a request is in progress its frame is discarded. -/
def State.serve (s : State) (kind : Byte) (owner : State → Answer) : State :=
  if s.svp.reply.isSome then s.overrun
  else
    let r := owner s.deselect
    r.1.answer kind r.2.1 r.2.2

/-- The reply of an owner that changes nothing. -/
def State.says (s : State) (st : Status) (c : Content := .none) : Answer := (s, st, c)

/-- An OPERATE is taken by the selection record (R189): an argument out of range is BAD_VALUE and
makes the record absent; a record with the same object and argument is used up and the object handed to
its owner; any other record is used up for nothing. -/
def State.operate (s : State) (obj : SelObject) (arg : Nat) (inRange : Bool)
    (owner : State → State × Status) : State :=
  if s.svp.reply.isSome then s.overrun
  else if !inRange then s.deselect.answer 0x04 .badValue .none
  else if s.svp.selection = some (obj, arg) then
    let r := owner s.deselect
    r.1.answer 0x04 r.2 .none
  else s.deselect.answer 0x04 .notSelected .none

end Sys2Proof.Machine
end

