-- ==== Sys2Proof/Machine/Alarms.lean ====
section
/-! DEFINITION. The Alarm Table and Counter Bank's requests and events (chapter 10). -/

namespace Sys2Proof.Machine

/-- ALARM_CHANGE (R164). -/
def execAlarmChange (code : AlarmCode) (source : Source) (ch : AlarmChange) (s : State) : Result :=
  .next ((s.took (.alarmChange code source ch)).alarmChange code source ch)

/-- ALARM_CLEAR (R165). -/
def execAlarmClear (code : AlarmCode) (source : Source) (s : State) : Result :=
  .next ((s.took (.alarmClear code source)).alarmClear code source)

/-- COUNTER_INCREMENT: the counters of one event, incremented together (R171). -/
def execCounterIncrement (cs : List Counter) (s : State) : Result :=
  .next (let t := s.took (.counterIncrement cs)
    { t with alt := { t.alt with counters := cs.foldl Counters.bump t.alt.counters } })

/-- ACK of an existing code and source (R166). -/
def State.ackEntry (code : AlarmCode) (source : Source) (s : State) : Answer :=
  match s.alt.entry code source with
  | none => s.says .notFound
  | some e => ({ s with alt := (s.alt.ack s.svp.plantTime e).evaluate }, .ok, .none)

/-- ACK's answer: a code or a source that does not exist, or that the code does not name, is BAD_VALUE
(R166). -/
def State.ack (code : Option AlarmCode) (source : Option Source) (s : State) : Answer :=
  match code, source with
  | some c, some x => if codeNames c x then s.ackEntry c x else s.says .badValue
  | _, _ => s.says .badValue

/-- ACK (R166). -/
def execAck (code : Option AlarmCode) (source : Option Source) (s : State) : Result :=
  .next (s.serve 0x60 (State.ack code source))

/-- The number of entries in a state. -/
def Alt.countIn (a : Alt) (st : AlarmState) : Nat := a.table.countP fun e => decide (e.state = st)

/-- Every entry acknowledged as one event (R166): ACTIVE_UNACKED ones become ACTIVE_ACKED, CLEARED_UNACKED
ones are removed, and a removal clears TABLE_OVERFLOW (R167). -/
def Alt.ackAll (now : U32) (a : Alt) : Alt :=
  { a with
    table := (a.table.filter fun e => decide (e.state ≠ .clearedUnacked)).map fun e =>
      if e.state = .activeUnacked then { e with state := .activeAcked, lastChange := now } else e
    overflow := a.overflow && decide (a.countIn .clearedUnacked = 0) }

/-- ACK_ALL (R166). -/
def execAckAll (s : State) : Result :=
  .next (s.serve 0x61 fun s =>
    ({ s with alt := (s.alt.ackAll s.svp.plantTime).evaluate }, .ok,
      .acked (s.alt.countIn .activeUnacked) (s.alt.countIn .clearedUnacked)))

/-- READ_ALARMS's answer (R170). -/
def State.readAlarms (first count : Nat) (s : State) : Answer :=
  if 1 ≤ count ∧ count ≤ 8 ∧ first ≤ 63 then
    s.says .ok (.alarms s.alt.table.length s.alt.overflow s.alt.alarmOut s.alt.retention
      ((s.alt.table.drop first).take count))
  else s.says .badValue

/-- READ_ALARMS (R170). -/
def execReadAlarms (first count : Nat) (s : State) : Result :=
  .next (s.serve 0x62 (State.readAlarms first count))

/-- READ_COUNTERS' answer (R172). -/
def State.readCounters (o : Option CounterOwner) (s : State) : Answer :=
  match o with
  | none => s.says .badValue
  | some o => s.says .ok (.counters (s.alt.counters.of o) s.alt.retention)

/-- READ_COUNTERS (R172). -/
def execReadCounters (o : Option CounterOwner) (s : State) : Result :=
  .next (s.serve 0x63 (State.readCounters o))

/-- READ_AND_CLEAR's answer (R172). -/
def State.readAndClear (o : Option CounterOwner) (s : State) : Answer :=
  match o with
  | none => s.says .badValue
  | some o =>
    ({ s with alt := { s.alt with counters := s.alt.counters.zero o } }, .ok,
      .counters (s.alt.counters.of o) s.alt.retention)

/-- READ_AND_CLEAR (R172). -/
def execReadAndClear (o : Option CounterOwner) (s : State) : Result :=
  .next (s.serve 0x64 (State.readAndClear o))

end Sys2Proof.Machine
end

