-- ==== Sys2Proof/Machine/Qtb.lean ====
section
/-! DEFINITION. The Quantity Table (chapter 2): samples and erasures, quantity states, deliveries, and the
updates handed to the takers. -/

namespace Sys2Proof.Machine

/-! ## One quantity -/

/-- Y after a good sample (R22). -/
def smoothed (w x : Int) (r : Qty) : Int :=
  match r.state with
  | .unprimed => 16 * x
  | .stale => 16 * x
  | .priming => r.y + ((16 * x - r.y) * w).tdiv 16
  | .valid => r.y + ((16 * x - r.y) * w).tdiv 16

/-- The state after a good sample (R24). -/
def primedState (r : Qty) : QState :=
  match r.state with
  | .unprimed => .priming
  | .stale => .priming
  | .priming => if 3 ≤ r.prime then .valid else .priming
  | .valid => .valid

/-- The prime count after a good sample (R24). -/
def primedCount (r : Qty) : Nat :=
  match r.state with
  | .unprimed => 1
  | .stale => 1
  | .priming => if 3 ≤ r.prime then 4 else r.prime + 1
  | .valid => 4

/-- A good sample `x` with the weight `w` at plant time `now` (R22, R24). -/
def Qty.sample (now : U32) (w x : Int) (r : Qty) : Qty :=
  { r with
    state := primedState r, y := smoothed w x r, prime := primedCount r, run := 0
    lastGood := some now }

/-- The state after an erasure that brought the run to `run` (R25). -/
def erasedState (limit : Int) (run : Nat) (r : Qty) : QState :=
  match r.state with
  | .unprimed => .unprimed
  | .stale => .stale
  | .priming => if reaches run limit then .stale else .priming
  | .valid => if reaches run limit then .stale else .valid

/-- An erasure under an erasure limit (R25). -/
def Qty.erase (limit : Int) (r : Qty) : Qty :=
  { r with
    state := erasedState limit (run15 r.run) r
    prime := if erasedState limit (run15 r.run) r = .valid then 4 else 0
    run := run15 r.run }

/-- The quantity made STALE by a LOST station or a lowered limit (R18, R26). -/
def Qty.makeStale (r : Qty) : Qty :=
  match r.state with
  | .priming => { r with state := .stale, prime := 0 }
  | .valid => { r with state := .stale, prime := 0 }
  | .unprimed => r
  | .stale => r

/-- Y after a change of the plausible range (R18). -/
def Qty.clampRange (lo hi : Int) (r : Qty) : Qty :=
  if r.state = .unprimed then r
  else if reportedOf r.y < lo then { r with y := 16 * lo }
  else if hi < reportedOf r.y then { r with y := 16 * hi }
  else r

/-- A reading is a good sample: its quality is GOOD and it lies in the plausible range (R19). -/
def State.isGood (s : State) (q : QtyNo) : Reading → Bool
  | .value v .good => decide (s.qtySet q .rangeLow ≤ v ∧ v ≤ s.qtySet q .rangeHigh)
  | .value _ .suspect => false
  | .value _ .fault => false
  | .erasure => false

/-- The value a reading carries. -/
def readingValue : Reading → Int
  | .value v _ => v | .erasure => 0

/-- The reading of a quantity taken as a sample or an erasure (R19). -/
def State.takeReading (s : State) (q : QtyNo) (x : Reading) (r : Qty) : Qty :=
  if s.isGood q x then r.sample s.svp.plantTime (s.qtySet q .weight) (readingValue x)
  else r.erase (s.qtySet q .eraseLimit)

/-! ## Updates (R27) -/

/-- A move from one state to another that an update lists: into or out of VALID, or into STALE. -/
def listedMove (old new : QState) : Bool :=
  decide (old ≠ new) && (decide (old = .valid) || decide (new = .valid) || decide (new = .stale))

end Sys2Proof.Machine

namespace Sys2Proof

/-- What an update lists of the quantities a taker takes up; it shows the whole station. -/
def Update.only (takes : QtyNo → Bool) (u : Update) : Update :=
  { u with
    values := u.values.filter fun x => takes x.1
    changes := u.changes.filter fun x => takes x.1 }

/-- The update that lists nothing. -/
def Update.empty : Update := ⟨[], [], [], []⟩

/-- The sample number an analyser's GOOD reply carries (R21). -/
def Delivery.analyserNo (d : Delivery) : Option Byte :=
  if d.kind = .analyser then d.sampleNo else none

/-- An update with both lists empty is not handed. -/
def Update.isEmpty (u : Update) : Bool := u.values.isEmpty && u.changes.isEmpty

end Sys2Proof

namespace Sys2Proof.Machine

/-- The offset of a channel's quantity (R16). -/
def wellOffset (q : QtyNo) : Option Nat := if q.val < 96 then some (q.val % 6) else none

/-- The quantities each block takes up (section 2.1). SCM takes every quantity of a well, since an update
that lists any of them is an evaluation of its inhibitor feed (R42). -/
def scmTakes (q : QtyNo) : Bool :=
  (wellOffset q).isSome
    || decide (q ∈ [qSepBrineT, qReinjT, qMixT, qHxOutT, qHxBrineFlow, qHxDp, qSilica])
def hxcTakes (q : QtyNo) : Bool :=
  decide (q ∈ [qHxInT, qHxOutT, qHxBrineFlow, qNetSupplyT, qNetReturnT, qNetFlow, qOutdoorT])
def wccTakes (q : QtyNo) : Bool :=
  match wellOffset q with
  | some k => decide (k = 0 ∨ k = 2)
  | none => false
def tbcTakes (q : QtyNo) : Bool := decide (96 ≤ q.val ∧ q.val ≤ 100)
def bbuTakes (q : QtyNo) : Bool := decide (q = qTankLevel)

/-- The events by which an update reaches its takers, one for each that takes up a listed quantity
(R27, log 21). -/
def updateEvents (u : Update) : List Instr :=
  let part := fun (takes : QtyNo → Bool) (mk : Update → Instr) =>
    if (u.only takes).isEmpty then [] else [mk (u.only takes)]
  part scmTakes .scmUpdate ++ part hxcTakes .hxcUpdate ++ part wccTakes .wccUpdate
    ++ part tbcTakes .tbcUpdate ++ part bbuTakes .bbuTankUpdate ++ part (fun _ => true) .sqrQtyUpdate

/-- A quantity as an update shows it: its state and reported value (R27). -/
def State.shownOf (s : State) (q : QtyNo) : QtyNo × QState × Int := (q, (s.qtb.get q).state, s.reported q)

/-- QTB hands on an update of a station, which shows the station's quantities as they stand (R27) and as they
stood in `old`, before the event (log 42). -/
def State.handUpdate (s old : State) (station : List QtyNo) (u : Update) : State :=
  s.hand (updateEvents { u with shown := station.map s.shownOf, before := station.map old.shownOf })

/-! ## Deliveries (R19 to R21) -/

/-- A quantity record written, and what the update then lists of it. -/
def recordQty (acc : State × Update) (q : QtyNo) (r : Qty) (isSample : Bool) : State × Update :=
  let old := (acc.1.qtb.get q).state
  ({ acc.1 with qtb := acc.1.qtb.set q r },
   { acc.2 with
     values := acc.2.values ++ (if isSample && decide (r.state = .valid) then [(q, reportedOf r.y)] else [])
     changes := acc.2.changes ++ (if listedMove old r.state then [(q, old, r.state)] else []) })

/-- One reading of a delivery taken. -/
def takeOne (acc : State × Update) (x : QtyNo × Reading) : State × Update :=
  recordQty acc x.1 (acc.1.takeReading x.1 x.2 (acc.1.qtb.get x.1)) (acc.1.isGood x.1 x.2)

/-- A GOOD analyser reply repeats the recorded sample number (R21). -/
def State.repeats (s : State) (d : Delivery) : Bool :=
  match d.analyserNo with
  | some n => decide ((s.qtb.get qSilica).sampleNo = some n)
  | none => false

/-- The reply's sample number becomes the recorded one (R21). -/
def State.noteSample (s : State) (d : Delivery) : State :=
  match d.analyserNo with
  | some n => { s with qtb := s.qtb.modify qSilica fun r => { r with sampleNo := some n } }
  | none => s

/-- The state and the update after a delivery taken whole (R19, R21). -/
def State.takeDelivery (s : State) (d : Delivery) : State × Update :=
  if s.repeats d then (s, .empty)
  else d.readings.foldl takeOne (s.noteSample d, .empty)

/-- QTB takes a delivery (R19 to R25, R27). -/
def State.deliver (s : State) (d : Delivery) : State :=
  let r := s.takeDelivery d
  r.1.handUpdate s (stationQtys d.kind d.channel) r.2

/-- QTB_DELIVERY (R19). -/
def execQtbDelivery (d : Delivery) (s : State) : Result := .next ((s.took (.qtbDelivery d)).deliver d)

/-! ## A station declared LOST (R26) -/

/-- Every PRIMING or VALID quantity of a list made STALE, with what the update lists. -/
def State.staleAll (s : State) (l : List QtyNo) : State × Update :=
  l.foldl (fun acc q => recordQty acc q (acc.1.qtb.get q).makeStale false) (s, .empty)

/-- QTB makes the station's quantities STALE and hands one update (R26). -/
def State.stationLost (s : State) (kind : Kind) (channel : WellNo) : State :=
  let r := s.staleAll (stationQtys kind channel)
  r.1.handUpdate s (stationQtys kind channel) r.2

/-- QTB_STATION_LOST (R26). -/
def execQtbStationLost (kind : Kind) (channel : WellNo) (s : State) : Result :=
  .next ((s.took (.qtbStationLost kind channel)).stationLost kind channel)

/-! ## A setting of a quantity taken (R18) -/

/-- The quantities of the station that feeds a quantity (R16). -/
def feederQtys (q : QtyNo) : List QtyNo :=
  if q.val < 96 then stationQtys .well (Fin.ofNat 16 (q.val / 6))
  else if q.val < 101 then stationQtys .turbine 0
  else if q ∈ stationQtys .brine 0 then stationQtys .brine 0
  else if q = qSilica then stationQtys .analyser 0
  else if q = qOutdoorT then stationQtys .weather 0
  else stationQtys .exchanger 0

/-- QTB takes an accepted setting of a quantity (R18). -/
def State.qtySettingTaken (s : State) (q : QtyNo) (i : QtyItem) : State :=
  match i with
  | .rangeLow => { s with qtb := s.qtb.modify q (Qty.clampRange (s.qtySet q .rangeLow) (s.qtySet q .rangeHigh)) }
  | .rangeHigh => { s with qtb := s.qtb.modify q (Qty.clampRange (s.qtySet q .rangeLow) (s.qtySet q .rangeHigh)) }
  | .weight => s
  | .eraseLimit =>
    if reaches (s.qtb.get q).run (s.qtySet q .eraseLimit) then
      let r := s.staleAll [q]
      r.1.handUpdate s (feederQtys q) r.2
    else s

/-! ## READ_QTY (R28) -/

/-- READ_QTY's answer (R28). -/
def State.readQty (first count : Nat) (s : State) : Answer :=
  if 1 ≤ count ∧ count ≤ 24 ∧ first ≤ 114 ∧ first + count ≤ 115 then
    s.says .ok (.qtys (((List.finRange 115).drop first |>.take count).map s.viewOf))
  else s.says .badValue

/-- READ_QTY (R28). -/
def execReadQty (first count : Nat) (s : State) : Result :=
  .next (s.serve 0x10 (State.readQty first count))

end Sys2Proof.Machine
end

