-- ==== Sys2Proof/Machine/Tip.lean ====
section
/-! DEFINITION. The Table Interpolator's requests (R4, R6, R12). -/

namespace Sys2Proof.Machine

/-- The record of a table. -/
def Tip.table (t : Tip) : TableName → Table
  | .silica => t.silica | .psat => t.psat | .curve => t.curve

/-- The record of one table replaced. -/
def Tip.withTable (t : Tip) (n : TableName) (x : Table) : Tip :=
  match n with
  | .silica => { t with silica := x }
  | .psat => { t with psat := x }
  | .curve => { t with curve := x }

/-- The entries of a table in force. -/
def State.tbl (s : State) (n : TableName) : Bank Int 17 := (s.tip.table n).entries

/-- LOAD_TABLE's checks in order (R4). -/
def State.loadTable (name : Option TableName) (entries : List Int) (s : State) : Answer :=
  match name with
  | none => s.says .badValue
  | some n =>
    if h : entries.length = 17 then
      if s.storeBusy then s.says .busy
      else if s.ssl.locked && decide (n ≠ .curve) then s.says .refusedProtected
      else match offendingIndex n entries with
        | some k => s.says .badTable (.badIndex k)
        | none => ({ s with tip := s.tip.withTable n ⟨⟨entries, h⟩, .loaded⟩ }, .ok, .none)
    else s.says .badValue

/-- LOAD_TABLE (R4). -/
def execLoadTable (name : Option TableName) (entries : List Int) (s : State) : Result :=
  .next (s.serve 0x18 (State.loadTable name entries))

/-- READ_TABLE's answer (R6). -/
def State.readTable (name : Option TableName) (s : State) : Answer :=
  match name with
  | none => s.says .badValue
  | some n => s.says .ok (.table (s.tip.table n).entries (s.tip.table n).origin)

/-- READ_TABLE (R6). -/
def execReadTable (name : Option TableName) (s : State) : Result :=
  .next (s.serve 0x19 (State.readTable name))

/-- EVAL_TABLE FORWARD's answer (R12). -/
def State.evalForward (name : Option TableName) (u : Int) (s : State) : Answer :=
  match name with
  | none => s.says .badValue
  | some n =>
    if -3000 ≤ u ∧ u ≤ 3000 then
      s.says .ok (.forward (forward n (s.tbl n) u).1 (forward n (s.tbl n) u).2)
    else s.says .badValue

/-- EVAL_TABLE FORWARD (R12). -/
def execEvalTableForward (name : Option TableName) (u : Int) (s : State) : Result :=
  .next (s.serve 0x1A (State.evalForward name u))

/-- EVAL_TABLE INVERSE's answer (R12). -/
def State.evalInverse (name : Option TableName) (c m : Int) (s : State) : Answer :=
  if name = some .silica ∧ 0 ≤ c ∧ c ≤ 2000 ∧ 0 ≤ m ∧ m ≤ 500 then
    let r := inverse (s.tbl .silica) c m
    s.says .ok (.inverse r.1 r.2.1 r.2.2)
  else s.says .badValue

/-- EVAL_TABLE INVERSE (R12). -/
def execEvalTableInverse (name : Option TableName) (c m : Int) (s : State) : Result :=
  .next (s.serve 0x1A (State.evalInverse name c m))

end Sys2Proof.Machine
end

