-- ==== Sys2Proof/Machine/Exchanger.lean ====
section
/-! DEFINITION. The Heat Exchange Controller (chapter 4): supply target, control step, floor check,
isolation, breach and heat figures. -/

namespace Sys2Proof.Machine

/-! ## Issuing and mode changes (R60, R66) -/

/-- The bypass demand issued: it replaces the record's, and a SET is placed when it differs and the
station table holds an EXCHANGER station (R60). -/
def State.issueBypass (s : State) (b : Int) : State :=
  let t := { s with hxc := { s.hxc with bypass := b } }
  if b ≠ s.hxc.bypass ∧ (s.entryOfKind .exchanger).isSome then t.hand [.setPlaced (.exchanger b)]
  else t

/-- A change of mode with its notice and its event to SQR; an isolation is also the exchanger's trip
(R66, R157). -/
def State.setMode (s : State) (new : HxMode) : State :=
  if s.hxc.mode = new then s
  else
    ({ s with hxc := { s.hxc with mode := new } }.notify
      [.state .exchanger (.exchanger s.hxc.mode) (.exchanger new) none]).hand
      ((if new = HxMode.isolated then [Instr.sqrTargetTripStop .exchanger .trip (.cause none)] else [])
        ++ [Instr.sqrStateChange .exchanger (.exchanger s.hxc.mode, .exchanger new) none])

/-! ## The supply target (R55 to R57) -/

/-- The base of the target (R55). -/
def State.targetBase (s : State) : Int :=
  match s.hxc.source with
  | .fallback => s.hxSet .fallbackSupply
  | .curve => s.hxc.curveBase.getD 0
  | .held => s.hxc.curveBase.getD 0

/-- The target computed anew (R55). -/
def State.retarget (s : State) : State :=
  { s with hxc := { s.hxc with
      target := clampTo (s.hxSet .supplyMin) (s.hxSet .supplyMax) (s.targetBase + s.hxc.offset) } }

/-- The target as an update reaches it (R55, R56). -/
def targetUpdate (u : Update) (s : State) : State :=
  match u.newValue qOutdoorT with
  | some v =>
    let f := forward .curve (s.tbl .curve) v
    { s with hxc := { s.hxc with curveBase := some f.1, curveFlag := f.2, source := .curve } }.retarget
  | none =>
    if u.outOfValid qOutdoorT ∧ s.hxc.source = .curve then
      { s with hxc := { s.hxc with source := .held } }
    else s

/-! ## Isolation (R62, R63) -/

/-- A cause stands in the set. -/
def Causes.has (x : Causes) : IsoCause → Bool
  | .sp0Alarm => x.sp0Alarm | .silicaStale => x.silicaStale
  | .outletStale => x.outletStale | .host => x.host

/-- The set with a cause added or removed. -/
def Causes.put (x : Causes) (v : Bool) : IsoCause → Causes
  | .sp0Alarm => { x with sp0Alarm := v }
  | .silicaStale => { x with silicaStale := v }
  | .outletStale => { x with outletStale := v }
  | .host => { x with host := v }

/-- A cause other than HOST stands. -/
def Causes.automatic (x : Causes) : Bool := x.sp0Alarm || x.silicaStale || x.outletStale

/-- The value HX_ISOLATED carries (R63). -/
def causeNo : IsoCause → Int
  | .sp0Alarm => 1 | .silicaStale => 2 | .outletStale => 3 | .host => 4

/-- The breach run set to 0 and FLOOR_BREACH cleared when it is raised (R63, R65). -/
def State.endBreach (s : State) : State :=
  { s with hxc := { s.hxc with breachRun := 0, breach := false } }.hand
    (if s.hxc.breach then [.alarmClear .floorBreach .exchanger] else [])

/-- A cause added in a mode other than ISOLATED (R63). -/
def State.isolate (s : State) (k : IsoCause) : State :=
  (((s.issueBypass 1000).endBreach).hand
    [.alarmChange .hxIsolated .exchanger (.raise .alarm (causeNo k)),
     .counterIncrement [.isolations]]).setMode .isolated

/-- A cause is added to the set (R62, R63). -/
def State.addCause (s : State) (k : IsoCause) : State :=
  if s.hxc.causes.has k then s
  else
    let t := { s with hxc := { s.hxc with causes := s.hxc.causes.put true k } }
    if s.hxc.mode = .isolated then t else t.isolate k

/-- A cause is removed from the set; the mode is left as it is (R62). -/
def State.dropCause (s : State) (k : IsoCause) : State :=
  { s with hxc := { s.hxc with causes := s.hxc.causes.put false k } }

/-- HXC_SP0_CHANGE (R62). -/
def execHxcSp0Change (old new : PointState) (s : State) : Result :=
  .next (let t := s.took (.hxcSp0Change old new)
    if new = .alarm then t.addCause .sp0Alarm
    else if old = .alarm then t.dropCause .sp0Alarm else t)

/-- HXC_SILICA_STALE (R62). -/
def execHxcSilicaStale (raised : Bool) (s : State) : Result :=
  .next (let t := s.took (.hxcSilicaStale raised)
    if raised then t.addCause .silicaStale else t.dropCause .silicaStale)

/-- HXC_LINK_LOST: it adds nothing beyond the update of the station's quantities (R62). -/
def execHxcLinkLost (s : State) : Result := .next (s.took .hxcLinkLost)

/-- OUTLET_STALE as an update moves it (R62). -/
def outletUpdate (u : Update) (s : State) : State :=
  if u.intoStale qHxOutT then s.addCause .outletStale
  else if u.intoValid qHxOutT then s.dropCause .outletStale
  else s

/-! ## The control step (R58 to R61) -/

/-- The modes in which control steps are taken. -/
def heats (m : HxMode) : Bool := decide (m = .heating ∨ m = .heatLimited)

/-- Δ, the change of bypass demand asked by the error (R58). -/
def State.delta (s : State) (supply : Int) : Int :=
  clampTo (-(s.hxSet .maxStep)) (s.hxSet .maxStep)
    (-(((s.hxc.target - supply) * s.hxSet .kp).tdiv 100))

/-- The floor check: the mode after it and the Δ used (R59); with HX_OUT_T not VALID the mode is kept and
the bypass may not close (R61). -/
def State.floorCheck (s : State) (outlet : Option Int) (d : Int) : HxMode × Int :=
  match outlet with
  | none => (s.hxc.mode, max d 0)
  | some v =>
    let level := s.scm.floor.inUse + s.hxSet .deadband
    if v < level then (.heatLimited, max d (s.hxSet .floorStep))
    else if s.hxc.mode = .heatLimited ∧ v < level + s.hxSet .hyst then (.heatLimited, max d 0)
    else (.heating, d)

/-- The bypass demand after a step of Δ (R59). -/
def State.stepped (s : State) (d : Int) : Int :=
  clampTo (s.hxSet .bypassMin) 1000 (s.hxc.bypass + d)

/-- A control step at a supply value and the outlet value it is paired with (R58 to R61). -/
def State.controlStep (s : State) (supply : Int) (outlet : Option Int) : State :=
  let r := s.floorCheck outlet (s.delta supply)
  (s.issueBypass (s.stepped r.2)).setMode r.1

/-- The control step as an update reaches it (R58). -/
def controlUpdate (u : Update) (s : State) : State :=
  match u.newValue qNetSupplyT with
  | some v => if heats s.hxc.mode then s.controlStep v (u.valid s qHxOutT) else s
  | none => s

/-! ## Floor breach (R67) -/

/-- The breach evaluated at an outlet value (R67). -/
def State.evalBreach (s : State) (v : Int) : State :=
  let floor := s.scm.floor.inUse
  if v < floor then
    let run := run15 s.hxc.breachRun
    if reaches run (s.hxSet .breachPersist) ∧ s.hxc.breach = false then
      { s with hxc := { s.hxc with breachRun := run, breach := true } }.hand
        [.alarmChange .floorBreach .exchanger (.raise .alarm v), .counterIncrement [.floorBreaches]]
    else { s with hxc := { s.hxc with breachRun := run } }
  else if v = floor then { s with hxc := { s.hxc with breachRun := 0 } }
  else s.endBreach

/-- The breach as an update reaches it (R67). -/
def breachUpdate (u : Update) (s : State) : State :=
  match u.newValue qHxOutT with
  | some v => if heats s.hxc.mode then s.evalBreach v else s
  | none => s

/-! ## Heat figures (R68, R69) -/

/-- Flow times specific heat times a temperature difference, a negative one taken as 0, in kW (R68). -/
def heatOf (flow cp dt : Int) : Int := flow * cp * max dt 0 / 36000

/-- Qmax at an update (R68). -/
def qmaxUpdate (u : Update) (s : State) : State :=
  if u.outOfValid qHxBrineFlow || u.outOfValid qHxInT then
    { s with hxc := { s.hxc with qmax := none } }
  else if u.listsValue qHxBrineFlow || u.listsValue qHxInT then
    match u.valid s qHxBrineFlow, u.valid s qHxInT with
    | some flow, some t =>
      { s with hxc := { s.hxc with
          qmax := some (heatOf flow (s.hxSet .cpBrine)
            (t - (s.scm.floor.inUse + s.hxSet .deadband))) } }
    | _, _ => s
  else s

/-- The heat delivered at an update (R69). -/
def heatUpdate (u : Update) (s : State) : State :=
  if u.outOfValid qNetFlow || u.outOfValid qNetSupplyT || u.outOfValid qNetReturnT then
    { s with hxc := { s.hxc with heat := none } }
  else if u.listsValue qNetFlow || u.listsValue qNetSupplyT || u.listsValue qNetReturnT then
    match u.valid s qNetFlow, u.valid s qNetSupplyT, u.valid s qNetReturnT with
    | some flow, some t, some r =>
      { s with hxc := { s.hxc with heat := some (heatOf flow (s.hxSet .cpWater) (t - r)) } }
    | _, _, _ => s
  else s

/-! ## HXC_UPDATE -/

/-- HXC takes an update: isolation causes before the control step (R61), then target, step, breach and
heat figures. -/
def State.hxcUpdate (s : State) (u : Update) : State :=
  heatUpdate u (qmaxUpdate u (breachUpdate u (controlUpdate u (targetUpdate u (outletUpdate u s)))))

/-- HXC_UPDATE (R58). -/
def execHxcUpdate (u : Update) (s : State) : Result := .next ((s.took (.hxcUpdate u)).hxcUpdate u)

/-! ## Commands (R57, R64, R65) -/

/-- A command that a claim refuses (R65, R160). -/
def State.unclaimed (s : State) (caller : Caller) (t : Target) (owner : State → Answer) : Answer :=
  if s.claimedAgainst caller t then s.says .refusedClaimed else owner s

/-- HX_CMD ON (R65). -/
def State.hxOn (caller : Caller) (s : State) : Answer :=
  s.unclaimed caller .exchanger fun s =>
    if s.hxc.mode = .off ∧ s.hxc.causes.automatic = false ∧ s.hxc.causes.host = false then
      ({ s with hxc := { s.hxc with breachRun := 0 } }.setMode .heating, .ok, .none)
    else s.says .refusedState

/-- HX_CMD OFF (R65): no claim refuses it; SQR is handed it with its origin (R157). -/
def State.hxOff (caller : Caller) (s : State) : Answer :=
  let t := ((s.dropCause .host).issueBypass 1000).endBreach
  let t := t.hand (if s.hxc.mode = .isolated then [.alarmClear .hxIsolated .exchanger] else [])
  ((t.setMode .off).hand [.sqrTargetTripStop .exchanger .stop (.command caller)], .ok, .none)

/-- HX_CMD ISOLATE (R65): no claim refuses it. -/
def State.hxIsolate (s : State) : Answer := (s.addCause .host, .ok, .none)

/-- HX_CMD RESUME (R64). -/
def State.hxResume (caller : Caller) (s : State) : Answer :=
  s.unclaimed caller .exchanger fun s =>
    if s.hxc.mode = .isolated ∧ s.hxc.causes.automatic = false then
      (((s.dropCause .host).hand [.alarmClear .hxIsolated .exchanger]).setMode .heating, .ok, .none)
    else s.says .refusedState

/-- The status of a demand that was or was not clamped. -/
def clampStatus (asked stored : Int) : Status := if asked = stored then .ok else .clamped

/-- HX_CMD OFFSET (R57). -/
def State.hxOffset (caller : Caller) (v : Int) (s : State) : Answer :=
  s.unclaimed caller .exchanger fun s =>
    let o := clampTo (-200) 200 v
    ({ s with hxc := { s.hxc with offset := o } }.retarget, clampStatus v o, .none)

def execHxCmdOn (s : State) : Result := .next (s.serve 0x28 (State.hxOn .host))
def execHxCmdOff (s : State) : Result := .next (s.serve 0x28 (State.hxOff .host))
def execHxCmdIsolate (s : State) : Result := .next (s.serve 0x28 State.hxIsolate)
def execHxCmdResume (s : State) : Result := .next (s.serve 0x28 (State.hxResume .host))
def execHxCmdOffset (v : Int) (s : State) : Result := .next (s.serve 0x28 (State.hxOffset .host v))

/-- READ_EXCHANGER (R71). -/
def execReadExchanger (s : State) : Result :=
  .next (s.serve 0x29 fun s => s.says .ok (.exchanger s.hxc s.scm.floor.inUse s.scm.floor.state
    (s.viewOf qHxOutT) (s.viewOf qNetSupplyT)))

/-! ## The second timer (R70) -/

/-- A whole minute in HEAT_LIMITED: the limited seconds return to 0 and HEAT_LIMITED_MIN is
incremented. -/
def State.limitedMinute (s : State) : State :=
  { s with hxc := { s.hxc with limitedSeconds := 0 } }.hand [.counterIncrement [.heatLimitedMin]]

/-- HXC_SECOND_TIMER (R70). -/
def execHxcSecondTimer (s : State) : Result :=
  .next (if s.hxc.mode = .heatLimited then
    if 60 ≤ s.hxc.limitedSeconds + 1 then s.limitedMinute
    else { s with hxc := { s.hxc with limitedSeconds := s.hxc.limitedSeconds + 1 } }
  else s)

/-- HEAT_LIMITED_MIN (R70): the second that makes the limited seconds 60 (log 4). -/
def execHeatLimitedMin (s : State) : Result :=
  .next (if s.hxc.mode = .heatLimited ∧ s.hxc.limitedSeconds = 59 then s.limitedMinute else s)

end Sys2Proof.Machine
end

