-- ==== Sys2Proof/Machine/Wells.lean ====
section
/-! DEFINITION. The Well Channel Controller (chapter 5): commands, ramps, trip evaluation, lockout and
adoption. -/

namespace Sys2Proof.Machine

/-! ## Records and what WCC hands on (R85, R95) -/

/-- A channel record replaced. -/
def State.setWell (s : State) (c : WellNo) (w : Well) : State := { s with wcc := s.wcc.set c w }

/-- The code of a cause (R89). -/
def wellCauseCode : WellCause → Nat
  | .linkLost => 1 | .driveFault => 2 | .overcurrent => 3 | .flash => 4 | .dryRun => 5
  | .startFail => 6 | .operator => 7

/-- A trip of a well: its change of state is one into TRIPPED or LOCKED_OUT (R157). -/
def isWellTrip (new : WellState) : Bool := decide (new = .tripped ∨ new = .lockedOut)

/-- The events of a change of a channel's state: one to each of BBU, TBC, SCM and SQR, in the order of R95, a
trip with its cause; a trip reaches SQR as the target's trip too (R157). -/
def wellEvents (c : WellNo) (old new : WellState) (cause : Option WellCause) : List Instr :=
  [Instr.bbuWellState c (old, new) cause, .tbcWellState c (old, new) cause,
      .scmWellState c (old, new) cause]
    ++ (if isWellTrip new then
      [Instr.sqrTargetTripStop (.well c) .trip (.cause (cause.map .well))] else [])
    ++ [Instr.sqrStateChange (.well c) (.well old, .well new) (cause.map .well)]

/-- A change of a channel's state with its notice and its events (R95); the record itself is already
written. -/
def State.wellChanged (s : State) (c : WellNo) (old new : WellState) (cause : Option WellCause) :
    State :=
  if old = new then s
  else (s.notify [.state (.well c) (.well old) (.well new) (cause.map wellCauseCode)]).hand
    (wellEvents c old new cause)

/-- The demand issued (R85): a SET for the bound station, and the new demand handed to BBU and TBC. -/
def State.issueDemand (s : State) (c : WellNo) (d : Int) : State :=
  (s.setWell c { s.wcc.get c with demand := d }).hand
    ((if (s.entryOfWell c).isSome then [Instr.setPlaced (.well c d)] else [])
      ++ [.bbuWellDemand c, .tbcWellDemand c])

/-- A TRIP placed for the bound station (R89, R98). -/
def State.placeWellTrip (s : State) (c : WellNo) : State :=
  s.hand (if (s.entryOfWell c).isSome then [.tripPlaced (.well c)] else [])

/-- The three trip runs set to 0 (R87). -/
def Well.noRuns (w : Well) : Well := { w with ocRun := 0, flashRun := 0, dryRun := 0 }

/-! ## Trips (R89, R90, R92) -/

/-- A time appended to a trip history, which keeps the seven most recent (R76). -/
def pushTime (l : List U32) (t : U32) : List U32 :=
  (l ++ [t]).drop ((l ++ [t]).length - Config.historyCapacity)

/-- The history entries within the lockout window (R92). -/
def withinWindow (now : U32) (window : Int) (l : List U32) : Nat :=
  (l.filter fun t => decide (((now - t).toNat : Int) ≤ window * 60)).length

/-- The count of a channel's trips within the window, the new one included. -/
def State.lockoutTrips (s : State) (c : WellNo) : Nat :=
  withinWindow s.svp.plantTime (s.wellSet c .lockoutWindow)
    (pushTime (s.wcc.get c).history s.svp.plantTime)

/-- The state a trip leads to (R92). -/
def State.tripState (s : State) (c : WellNo) : WellState :=
  if s.wellSet c .lockoutCount ≤ (s.lockoutTrips c : Int) then .lockedOut else .tripped

/-- The channel record after a trip (R89). -/
def State.trippedWell (s : State) (c : WellNo) (k : WellCause) : Well :=
  let w := s.wcc.get c
  { w.noRuns with
    state := s.tripState c
    history := pushTime w.history s.svp.plantTime
    demand := 0
    ramp := false
    startLeft := none
    lastCause := some k
    cooldown := seconds (s.wellSet c .cooldown) }

/-- A trip (R89): lockout alarm, SET of 0, TRIP, counter, WELL_TRIP, and the change of state. -/
def State.tripWell (s : State) (c : WellNo) (k : WellCause) : State :=
  let t := (s.setWell c (s.trippedWell c k)).hand
    (if s.tripState c = .lockedOut then
      [.alarmChange .wellLockout (.well c) (.raise .alarm (s.lockoutTrips c : Int))] else [])
  let t := ((t.issueDemand c 0).placeWellTrip c).hand
    [.counterIncrement [.wellTrips c k],
     .alarmChange .wellTrip (.well c) (.raise .trip (wellCauseCode k : Int))]
  t.wellChanged c (s.wcc.get c).state (s.tripState c) (some k)

/-- The states in which a lost link and the operator trip a well (R90). -/
def tripsNow (st : WellState) : Bool :=
  decide (st = .starting ∨ st = .running ∨ st = .stopping)

/-- WCC_LINK_LOST (R90). -/
def execWccLinkLost (c : WellNo) (s : State) : Result :=
  .next (let t := s.took (.wccLinkLost c)
    if tripsNow (t.wcc.get c).state then t.tripWell c .linkLost else t)

/-- START_TIMER_EXPIRY (R81). -/
def execStartTimerExpiry (c : WellNo) (s : State) : Result :=
  .next (if (s.wcc.get c).state = .starting ∧ (s.wcc.get c).startLeft.isSome then
    s.tripWell c .startFail else s)

/-! ## Status events: adoption and the reply's trip (R86, R88, R98) -/

/-- DRIVE_FAULT holds (R88). -/
def driveFault (w : Well) : Bool :=
  decide (w.fault = some true) || (decide (w.run = some false) && decide (w.state = .running))

/-- The highest cause that holds at a status event, none when none holds (R88, R90). -/
def State.replyCause (s : State) (c : WellNo) : Option WellCause :=
  let w := s.wcc.get c
  let persist := s.wellSet c .tripPersist
  let production := decide (s.role c = .production)
  if driveFault w then some .driveFault
  else if reaches w.ocRun persist then some .overcurrent
  else if production && reaches w.flashRun persist then some .flash
  else if production && decide (w.state = .running) && reaches w.dryRun persist then some .dryRun
  else none

/-- The reply's trip decided (R88). -/
def State.decideReply (s : State) (c : WellNo) : State :=
  let w := s.wcc.get c
  if (w.state = .starting ∨ w.state = .running) ∧ s.role c ≠ .unused then
    match s.replyCause c with
    | some k => s.tripWell c k
    | none => s
  else s

/-- The demand an adopted channel takes (R98). -/
def State.adoptedDemand (s : State) (e : WellStatus) : Int :=
  if e.flowQuality = .good then
    clampTo (s.wellSet e.channel .minFlow) (s.wellSet e.channel .maxFlow) e.flow
  else s.wellSet e.channel .minFlow

/-- A running channel adopted as RUNNING (R98). -/
def State.adoptRunning (s : State) (e : WellStatus) : State :=
  let c := e.channel
  let w := s.wcc.get c
  ((s.setWell c { w.noRuns with state := .running, ramp := true }).issueDemand c
    (s.adoptedDemand e)).wellChanged c w.state .running none

/-- Adoption at the first status event after power-on (R98). -/
def State.adoptWell (s : State) (e : WellStatus) : State :=
  let w := s.wcc.get e.channel
  if w.adopting then
    let t := s.setWell e.channel { w with adopting := false }
    if w.state = .off ∧ s.role e.channel ≠ .unused ∧ e.run = true then t.adoptRunning e
    else if w.state = .lockedOut ∧ e.run = true then t.placeWellTrip e.channel
    else t
  else s

/-- WCC takes a station status (R86, R88, R98). -/
def State.wellStatus (s : State) (e : WellStatus) : State :=
  ((s.setWell e.channel { s.wcc.get e.channel with run := some e.run, fault := some e.fault }).adoptWell
    e).decideReply e.channel

/-- WCC_STATUS_EVENT (R88). -/
def execWccStatusEvent (e : WellStatus) (s : State) : Result :=
  .next ((s.took (.wccStatusEvent e)).wellStatus e)

/-! ## Updates, margins and targets (R81, R87, R83, R133) -/

/-- The states in which trip runs count (R87). -/
def countsRuns (st : WellState) : Bool := decide (st = .starting ∨ st = .running)

/-- A run counted: incremented when the finding holds, otherwise set to 0 (R87). -/
def countRun (finding : Bool) (n : Nat) : Nat := if finding then run15 n else 0

/-- The overcurrent run at an update (R87). -/
def overcurrentUpdate (u : Update) (s : State) (c : WellNo) : State :=
  let w := s.wcc.get c
  match u.newValue (qCurrent c) with
  | some v =>
    if countsRuns w.state then
      s.setWell c { w with ocRun := countRun (decide (s.wellLim c 0 < v)) w.ocRun }
    else s
  | none => s

/-- The dry run at an update (R87). -/
def dryUpdate (u : Update) (s : State) (c : WellNo) : State :=
  let w := s.wcc.get c
  if (u.listsValue (qFlow c) || u.listsValue (qCurrent c)) && decide (w.state = .running)
      && decide (s.role c = .production) then
    match u.valid s (qFlow c), u.valid s (qCurrent c) with
    | some flow, some cur =>
      s.setWell c { w with
        dryRun := countRun (decide (flow < s.wellLim c 2 ∧ cur < s.wellSet c .dryCurrent)) w.dryRun }
    | _, _ => s
  else s

/-- The start threshold met at an update: the channel becomes RUNNING (R81). -/
def startUpdate (u : Update) (s : State) (c : WellNo) : State :=
  let w := s.wcc.get c
  match u.newValue (qFlow c) with
  | some v =>
    if w.state = .starting ∧ s.wellSet c .startThreshold ≤ v then
      (s.setWell c { w with state := .running, startLeft := none, dryRun := 0 }).wellChanged c
        .starting .running none
    else s
  | none => s

/-- One channel at an update: the runs first, then the start threshold (log 13). -/
def wccWellUpdate (u : Update) (s : State) (c : WellNo) : State :=
  startUpdate u (dryUpdate u (overcurrentUpdate u s c) c) c

/-- WCC_UPDATE (R81, R87). -/
def execWccUpdate (u : Update) (s : State) : Result :=
  .next (wells.foldl (wccWellUpdate u) (s.took (.wccUpdate u)))

/-- A margin SCM hands: stored, and the flash run counted (R87). -/
def State.takeMargin (s : State) (c : WellNo) (m : Option Int) : State :=
  let w := s.wcc.get c
  let run := match m with
    | some v =>
      if countsRuns w.state ∧ s.role c = .production then
        countRun (decide (v < s.wellLim c 1)) w.flashRun
      else w.flashRun
    | none => w.flashRun
  s.setWell c { w with margin := m, flashRun := run }

/-- WCC_FLASH_MARGIN (R87). -/
def execWccFlashMargin (c : WellNo) (m : Option Int) (s : State) : Result :=
  .next ((s.took (.wccFlashMargin c m)).takeMargin c m)

/-- WCC_FLASH_HOLD (R41, R76). -/
def execWccFlashHold (c : WellNo) (held : Bool) (s : State) : Result :=
  .next (let t := s.took (.wccFlashHold c held)
    t.setWell c { t.wcc.get c with flashHold := held })

/-- WCC_TARGET (R133). -/
def execWccTarget (c : WellNo) (target : Option Int) (s : State) : Result :=
  .next (let t := s.took (.wccTarget c target)
    t.setWell c { t.wcc.get c with target := target })

/-! ## Ramps (R82, R83) -/

/-- A demand moved toward a ramp target by at most the step. -/
def toward (step target d : Int) : Int := if d < target then min (d + step) target else max (d - step) target

/-- The demand after a ramp expiry (R83). -/
def State.ramped (s : State) (c : WellNo) : Int :=
  let w := s.wcc.get c
  match w.state with
  | .starting => toward (s.wellSet c .rampStep) (s.wellSet c .minFlow) w.demand
  | .stopping => toward (s.wellSet c .rampStep) 0 w.demand
  | .running =>
    match w.target with
    | none => w.demand
    | some t =>
      if w.flashHold = true ∧ w.demand < t then w.demand
      else if s.role c = .production ∧ s.bbu.fastDown = true ∧ t < w.demand then
        toward (s.wellSet c .tripRampStep) t w.demand
      else toward (s.wellSet c .rampStep) t w.demand
  | .off => w.demand
  | .tripped => w.demand
  | .lockedOut => w.demand

/-- A STOPPING channel whose demand has come to 0 becomes OFF (R82). -/
def State.endStop (s : State) (c : WellNo) : State :=
  let w := s.wcc.get c
  if w.state = .stopping ∧ w.demand = 0 then
    (s.setWell c { w.noRuns with state := .off, ramp := false }).wellChanged c .stopping .off none
  else s

/-- A ramp expiry (R82, R83): a demand that moves is issued. -/
def State.rampExpiry (s : State) (c : WellNo) : State :=
  (if s.ramped c = (s.wcc.get c).demand then s else s.issueDemand c (s.ramped c)).endStop c

/-- RAMP_TIMER_EXPIRY (R83). -/
def execRampTimerExpiry (c : WellNo) (s : State) : Result :=
  .next (if (s.wcc.get c).ramp then s.rampExpiry c else s)

/-- WCC_SECOND_TIMER: every running cooldown is decremented (R91); a running start timer's seconds left
go down with it (log 3). -/
def execWccSecondTimer (s : State) : Result :=
  .next { s with wcc := s.wcc.mapIdx fun _ w =>
    { w with cooldown := w.cooldown - 1, startLeft := w.startLeft.map (· - 1) } }

/-! ## Commands (R79 to R84, R91, R93, R97) -/

/-- A WELL station is bound to the channel and is not LOST (R79). -/
def State.wellStationReady (s : State) (c : WellNo) : Bool :=
  match s.entryOfWell c with
  | some e => decide (s.linkStatus e ≠ .lost)
  | none => false

/-- The channel record after an accepted START (R80). -/
def State.startedWell (s : State) (c : WellNo) : Well :=
  { (s.wcc.get c).noRuns with
    state := .starting, ramp := true
    startLeft := some (seconds (s.wellSet c .startTimeout)) }

/-- WELL_CMD START of a channel (R79, R80). -/
def State.wellStart (caller : Caller) (c : WellNo) (s : State) : Answer :=
  s.unclaimed caller (.well c) fun s =>
    if s.ssl.storeFault then s.says .refusedStore
    else if (s.wcc.get c).state = .off ∧ s.role c ≠ .unused ∧ s.wellStationReady c = true then
      (((s.setWell c (s.startedWell c)).hand [.counterIncrement [.wellStarts c]]).wellChanged c
        .off .starting none, .ok, .none)
    else s.says .refusedState

/-- WELL_CMD STOP of a channel (R79, R82): no claim refuses it; SQR is handed it with its origin
(R95). -/
def State.wellStop (caller : Caller) (c : WellNo) (s : State) : Answer :=
  let w := s.wcc.get c
  if w.state = .starting ∨ w.state = .running then
    (((s.setWell c { w.noRuns with state := .stopping, startLeft := none }).wellChanged c w.state
      .stopping none).hand [.sqrTargetTripStop (.well c) .stop (.command caller)], .ok, .none)
  else s.says .refusedState

/-- WELL_CMD RESET_TRIP of a channel (R79, R91). -/
def State.wellResetTrip (caller : Caller) (c : WellNo) (s : State) : Answer :=
  s.unclaimed caller (.well c) fun s =>
    let w := s.wcc.get c
    if w.state = .tripped then
      if w.cooldown = 0 then
        (((s.setWell c { w.noRuns with state := .off }).hand [.alarmClear .wellTrip (.well c)]).wellChanged
          c .tripped .off none, .ok, .none)
      else s.says .refusedState (.seconds w.cooldown)
    else s.says .refusedState (.seconds 0)

/-- WELL_CMD WEIGHT of a channel (R84). -/
def State.wellWeight (caller : Caller) (c : WellNo) (v : Int) (s : State) : Answer :=
  s.unclaimed caller (.well c) fun s =>
    let w := clampTo 1 100 v
    ((s.setWell c { s.wcc.get c with weight := w }).hand
      (if w = (s.wcc.get c).weight then [] else [.bbuWellWeight c]), clampStatus v w, .none)

/-- A command to a channel whose number the host gives (R79). -/
def onWell (k : Nat) (f : WellNo → State → Answer) (s : State) : Answer :=
  match indexArg 16 k with
  | none => s.says .badValue
  | some c => f c s

def execWellCmdStart (c : Nat) (s : State) : Result :=
  .next (s.serve 0x30 (onWell c (State.wellStart .host)))
def execWellCmdStop (c : Nat) (s : State) : Result :=
  .next (s.serve 0x30 (onWell c (State.wellStop .host)))
def execWellCmdResetTrip (c : Nat) (s : State) : Result :=
  .next (s.serve 0x30 (onWell c (State.wellResetTrip .host)))
def execWellCmdWeight (c : Nat) (w : Int) (s : State) : Result :=
  .next (s.serve 0x30 (onWell c fun c => State.wellWeight .host c w))

/-- READ_WELL (R97). -/
def execReadWell (c : Nat) (s : State) : Result :=
  .next (s.serve 0x31 (onWell c fun c s => s.says .ok (.well (s.wcc.get c) (s.role c))))

/-- WELL_TRIP at its OPERATE (R93). -/
def State.operateTrip (c : WellNo) (s : State) : State × Status :=
  if tripsNow (s.wcc.get c).state then (s.tripWell c .operator, .ok) else (s, .refusedState)

/-- WELL_UNLOCK at its OPERATE (R93). -/
def State.operateUnlock (c : WellNo) (s : State) : State × Status :=
  if (s.claimant (.well c)).isSome then (s, .refusedClaimed)
  else if (s.wcc.get c).state = .lockedOut then
    (((s.setWell c { (s.wcc.get c).noRuns with state := .off, history := [], cooldown := 0 }).hand
      [.alarmClear .wellLockout (.well c), .alarmClear .wellTrip (.well c)]).wellChanged c
      .lockedOut .off none, .ok)
  else (s, .refusedState)

/-- An OPERATE of a channel: an argument out of range reaches no owner. -/
def operateWell (k : Nat) (f : WellNo → State → State × Status) (s : State) : State × Status :=
  match indexArg 16 k with
  | none => (s, .badValue)
  | some c => f c s

/-- OPERATE of WELL_TRIP (R93, R189). -/
def execOperateWellTrip (c : Nat) (s : State) : Result :=
  .next (s.operate .wellTrip c (decide (c < 16)) (operateWell c State.operateTrip))

/-- OPERATE of WELL_UNLOCK (R93, R189). -/
def execOperateWellUnlock (c : Nat) (s : State) : Result :=
  .next (s.operate .wellUnlock c (decide (c < 16)) (operateWell c State.operateUnlock))

end Sys2Proof.Machine
end

