-- ==== Sys2Proof/Machine/Turbine.lean ====
section
/-! DEFINITION. The Turbine Controller (chapter 6): the turbine order, starting, loading, ceiling and steam
demand, trips, reset and adoption. -/

namespace Sys2Proof.Machine

/-! ## The turbine order (R102) -/

/-- The control field of each state. -/
def controlOf : TurbState → Control
  | .runup => .speed
  | .syncWait => .sync
  | .offline => .valve
  | .warming => .valve
  | .loaded => .valve
  | .unloading => .valve
  | .tripped => .valve

/-- The order sent: in RUNUP and SYNC_WAIT it carries 0 in the admission field. -/
def Tbc.order (t : Tbc) : TurbOrder where
  control := controlOf t.state
  speed := t.speed
  load := t.load
  admission := if t.state = .runup ∨ t.state = .syncWait then 0 else t.admission
  breakerOpen := t.breakerOpen

/-- The admission demand of a load setpoint in LOADED and UNLOADING. -/
def State.admissionFor (s : State) (load : Int) : Int :=
  min (s.turbSet .admNoload
    + (1000 - s.turbSet .admNoload) * load / s.turbSet .ratedLoad) 1000

/-! ## Steam available, ceiling, steam demand (R109, R110) -/

/-- The states in which load is carried. -/
def carries (st : TurbState) : Bool := decide (st = .loaded ∨ st = .unloading)

/-- The sum of the sent demands of the production wells in RUNNING. -/
def State.runningDemand (s : State) : Int :=
  (wells.map fun c =>
    if s.role c = .production ∧ (s.wcc.get c).state = .running then (s.wcc.get c).demand else 0).sum

/-- Steam available (R109). -/
def State.steamAvailable (s : State) : Int :=
  s.runningDemand * s.balSet .steamFraction / 1000

/-- The load ceiling of a record whose steam available is up to date, with the STEAM_FLOW value while it is
VALID (R109, R111). -/
def State.ceilingOf (s : State) (flow : Option Int) (t : Tbc) : Int :=
  if t.shortfall then
    match flow with
    | some v => v * s.turbSet .steamRate
    | none => t.ceiling
  else t.steamAvail * s.turbSet .steamRate

/-- A load setpoint in LOADED or UNLOADING, with the admission demand that goes with it. -/
def State.withLoad (s : State) (load : Int) (t : Tbc) : Tbc :=
  if load = t.load then t else { t with load := load, admission := s.admissionFor load }

/-- The load setpoint under a new ceiling: pulled down at once, and during the adoption hold set to the
load target (R109, R117). -/
def State.underCeiling (s : State) (t : Tbc) : Tbc :=
  if !carries t.state then t
  else if t.state = .loaded ∧ 0 < t.hold then s.withLoad (min t.loadDemand t.ceiling) t
  else s.withLoad (min t.load t.ceiling) t

/-- Steam available and ceiling recomputed (R109). -/
def State.recompute (s : State) (flow : Option Int) (t : Tbc) : Tbc :=
  let t := { t with steamAvail := s.steamAvailable }
  s.underCeiling { t with ceiling := s.ceilingOf flow t }

/-- The steam demand of a record (R110). -/
def State.steamDemand (s : State) (t : Tbc) : Int :=
  match t.state with
  | .warming => s.turbSet .warmSteam
  | .runup => s.turbSet .warmSteam
  | .syncWait => s.turbSet .warmSteam
  | .loaded => ceilDiv t.loadDemand (s.turbSet .steamRate)
  | .unloading => ceilDiv t.load (s.turbSet .steamRate)
  | .offline => 0
  | .tripped => 0

/-! ## Changing the record (R102, R110, R118) -/

/-- The SET of an order: placed when the order has changed or a rule sends it, no adoption hold runs, and
the station table holds a TURBINE station (R102, R117). -/
def State.orderEvents (s : State) (force : Bool) (t : Tbc) : List Instr :=
  if (force || decide (t.order ≠ s.tbc.order)) && decide (t.hold = 0)
      && (s.entryOfKind .turbine).isSome then [.setPlaced (.turbine t.order)]
  else []

/-- The code of a cause (R112). -/
def turbCauseCode : TurbCause → Nat
  | .external => 1 | .overspeed => 2 | .lowInlet => 3 | .linkLost => 4 | .valveMismatch => 5
  | .runupFail => 6 | .syncFail => 7 | .operator => 8 | .adopt => 9

/-- The events of a change of TBC's state: BBU and SQR, a trip with its cause; a trip is also the target's
trip (R118, R157). -/
def turbEvents (old new : TurbState) (cause : Option TurbCause) : List Instr :=
  if old = new then []
  else [Instr.bbuTurbineState (old, new) cause]
    ++ (if new = .tripped then
      [Instr.sqrTargetTripStop .turbine .trip (.cause (cause.map .turbine))] else [])
    ++ [Instr.sqrStateChange .turbine (.turbine old, .turbine new) (cause.map .turbine)]

/-- The notice of a change of TBC's state (R118). -/
def turbNotice (old new : TurbState) (cause : Option TurbCause) : List Notice :=
  if old = new then [] else [.state .turbine (.turbine old) (.turbine new) (cause.map turbCauseCode)]

/-- The steam demand handed to BBU: at each change of it, and at every trip (R110, R114). -/
def State.demandEvents (s : State) (new : TurbState) (d : Int) : List Instr :=
  if d = s.tbc.steam ∧ ¬(s.tbc.state ≠ .tripped ∧ new = .tripped) then [] else [.bbuSteamDemand d]

/-- A new turbine record: the order is sent when it has changed or `force` says so, then the events
`mid`, then the steam demand, reckoned from the settings in force (log 37), then the events `late`, then the
change of state. -/
def State.commit (s : State) (force : Bool) (mid late : List Instr) (cause : Option TurbCause)
    (t : Tbc) : State :=
  let d := s.steamDemand t
  ({ s with tbc := { t with steam := d } }.notify (turbNotice s.tbc.state t.state cause)).hand
    (s.orderEvents force t ++ mid ++ s.demandEvents t.state d ++ late
      ++ turbEvents s.tbc.state t.state cause)

/-- What every change of state does to a record: the inlet run and the mismatch clock return to 0, an
adoption hold ends, and out of LOADED and UNLOADING the shortfall ends (R111, R112, R113, R117). -/
def State.enter (s : State) (st : TurbState) (t : Tbc) : Tbc :=
  let t := { t with state := st, inletRun := 0, mismatch := none, hold := 0 }
  if carries st then t
  else
    let t := { t with shortRun := 0, steamAvail := if t.shortfall then s.steamAvailable else t.steamAvail }
    { t with shortfall := false
             ceiling := if t.shortfall then t.steamAvail * s.turbSet .steamRate else t.ceiling }

/-- The clear of STEAM_SHORTFALL when a state out of LOADED and UNLOADING is entered (R111). -/
def State.shortfallEnd (s : State) : List Instr :=
  if s.tbc.shortfall then [.alarmClear .steamShortfall .turbine] else []

/-- The record with the order of OFFLINE (R102); the settle clock returns to 0 with the stage timer (log 36). -/
def State.offlineRecord (s : State) : Tbc :=
  { s.enter .offline s.tbc with
    stageLeft := none, settle := 0, load := 0, speed := 0, admission := 0, breakerOpen := false }

/-! ## Trips (R112 to R114) -/

/-- The record after a trip (R114). -/
def State.trippedRecord (s : State) (k : TurbCause) : Tbc :=
  { s.enter .tripped s.tbc with
    stageLeft := none, settle := 0, tripOut := true
    load := 0, speed := 0, admission := 0, breakerOpen := true
    lastCause := some k }

/-- A trip (R114). -/
def State.tripTurbine (s : State) (k : TurbCause) : State :=
  s.commit true
    (if (s.entryOfKind .turbine).isSome then [.tripPlaced .turbine] else [])
    ([Instr.counterIncrement [.turbTrips k]] ++ s.shortfallEnd
      ++ [Instr.alarmChange .turbTrip .turbine (.raise .trip (turbCauseCode k : Int))])
    (some k) (s.trippedRecord k)

/-- The states in which EXTERNAL, LINK_LOST and OPERATOR trip the turbine (R112). -/
def turbRuns (st : TurbState) : Bool := decide (st ≠ .offline ∧ st ≠ .tripped)

/-- TRIP_IN_ASSERTED (R112): recorded in every state; the running states trip. -/
def execTripInAsserted (s : State) : Result :=
  .next (if s.tbc.tripIn then s
    else
      let t := { s with tbc := { s.tbc with tripIn := true } }
      if turbRuns t.tbc.state then t.tripTurbine .external else t)

/-- TRIP_IN_CLEARED (R112). -/
def execTripInCleared (s : State) : Result := .next { s with tbc := { s.tbc with tripIn := false } }

/-- TBC_LINK_LOST (R112). -/
def execTbcLinkLost (s : State) : Result :=
  .next (let t := s.took .tbcLinkLost
    if turbRuns t.tbc.state then t.tripTurbine .linkLost else t)

/-! ## Entries of the starting states (R104 to R106) -/

/-- The admission demand reported in RUNUP and SYNC_WAIT: ADM_POS while it is VALID (log 15). -/
def State.reportedAdmission (s : State) : Int := (s.validNow qAdmPos).getD s.tbc.admission

/-- Entry to RUNUP (R105). -/
def State.runupRecord (s : State) : Tbc :=
  { s.enter .runup s.tbc with
    stageLeft := some (seconds (s.turbSet .runupTimeout)), settle := 0
    speed := (s.validNow qTurbSpeed).getD 0
    admission := s.reportedAdmission }

/-- Entry to SYNC_WAIT (R106). -/
def State.syncRecord (s : State) : Tbc :=
  { s.enter .syncWait s.tbc with
    stageLeft := some (seconds (s.turbSet .syncTimeout))
    speed := s.turbSet .ratedSpeed, load := 0
    admission := s.reportedAdmission }

/-- Entry to LOADED at the breaker's closing (R106). -/
def State.loadedRecord (s : State) : Tbc :=
  { s.enter .loaded s.tbc with
    stageLeft := none, speed := s.turbSet .ratedSpeed, load := 0, admission := s.admissionFor 0 }

/-- STAGE_TIMER_EXPIRY (R104). -/
def execStageTimerExpiry (s : State) : Result :=
  .next (if s.tbc.state = .warming ∧ s.tbc.stageLeft.isSome then
    s.commit true [] [] none s.runupRecord else s)

/-- SYNC_WAIT is entered. -/
def State.enterSync (s : State) : State := s.commit true [] s.shortfallEnd none s.syncRecord

/-- SETTLE_COMPLETE (R105): the settle clock reaches SETTLE_TIME, which it does only with the speed
setpoint at RATED_SPEED and the speed in band (log 4). -/
def execSettleComplete (s : State) : Result :=
  .next (if s.tbc.state = .runup ∧ s.tbc.inBand = true ∧ s.tbc.speed = s.turbSet .ratedSpeed then
    s.enterSync else s)

/-- RUNUP_TIMEOUT (R105). -/
def execRunupTimeout (s : State) : Result :=
  .next (if s.tbc.state = .runup ∧ s.tbc.stageLeft.isSome then s.tripTurbine .runupFail else s)

/-- SYNC_TIMEOUT (R106). -/
def execSyncTimeout (s : State) : Result :=
  .next (if s.tbc.state = .syncWait ∧ s.tbc.stageLeft.isSome then s.tripTurbine .syncFail else s)

/-- VALVE_MISMATCH (R113): the running mismatch clock reaches MISMATCH_TIME (log 4). -/
def execValveMismatch (s : State) : Result :=
  .next (if s.tbc.mismatch.isSome ∧ (s.tbc.state = .warming ∨ carries s.tbc.state = true) then
    s.tripTurbine .valveMismatch else s)

/-- The adoption hold ends: TBC sends the whole order of LOADED (R117). -/
def State.endHold (s : State) : State := s.commit true [] [] none { s.tbc with hold := 0 }

/-- ADOPT_HOLD_END (R117). -/
def execAdoptHoldEnd (s : State) : Result :=
  .next (if s.tbc.state = .loaded ∧ 0 < s.tbc.hold then s.endHold else s)

/-! ## Status events: breaker changes and adoption (R103, R106, R108, R116) -/

/-- BREAKER as it acts in each state (R106, R108). -/
def State.breakerActs (s : State) (breaker : Bool) : State :=
  match s.tbc.state, breaker with
  | .syncWait, true => s.commit true [] [] none s.loadedRecord
  | .loaded, false => s.enterSync
  | .unloading, false => s.commit true [] s.shortfallEnd none s.offlineRecord
  | _, _ => s

/-- The record of a turbine adopted as LOADED (R116, R117). -/
def State.adoptedRecord (s : State) (e : TurbStatus) : Tbc :=
  let d := if e.loadQuality = .good then clampTo 0 (s.turbSet .ratedLoad) e.load else 0
  let load := clampTo 0 s.tbc.ceiling d
  { s.enter .loaded s.tbc with
    loadDemand := d, load := load, speed := s.turbSet .ratedSpeed
    admission := s.admissionFor load, breakerOpen := false
    hold := seconds (s.turbSet .adoptHold) }

/-- A turbine on the grid adopted as LOADED; TRIP_IN asserted trips it at the same event (R112, R116). -/
def State.adoptLoaded (s : State) (e : TurbStatus) : State :=
  let t := s.commit true [] [] none (s.adoptedRecord e)
  if t.tbc.tripIn then t.tripTurbine .external else t

/-- Adoption decided in OFFLINE (R116). -/
def State.adoptTurbine (s : State) (e : TurbStatus) : State :=
  if e.breaker then s.adoptLoaded e
  else if e.speedQuality = .good ∧ s.turbSet .resetSpeed < e.speed then s.tripTurbine .adopt
  else s

/-- TBC takes a station status (R103, R106, R108, R116). -/
def State.turbStatus (s : State) (e : TurbStatus) : State :=
  let t := { s with tbc := { s.tbc with breaker := some e.breaker, adopting := false } }
  if s.tbc.adopting = true ∧ s.tbc.state = .offline then t.adoptTurbine e
  else t.breakerActs e.breaker

/-- TBC_STATUS_EVENT (R103). -/
def execTbcStatusEvent (e : TurbStatus) (s : State) : Result :=
  .next ((s.took (.tbcStatusEvent e)).turbStatus e)

/-! ## TBC_UPDATE (R105, R108, R109, R111 to R113) -/

/-- The states in which LOW_INLET trips and the inlet run counts (R112). -/
def countsInlet (st : TurbState) : Bool :=
  decide (st = .runup ∨ st = .syncWait ∨ st = .loaded ∨ st = .unloading)

/-- The inlet run at an update (R112). -/
def inletUpdate (u : Update) (s : State) : State :=
  match u.newValue qInletP with
  | some v =>
    if countsInlet s.tbc.state then
      { s with tbc := { s.tbc with inletRun := countRun (decide (v < s.limit 1)) s.tbc.inletRun } }
    else s
  | none => s

/-- An update finds OVERSPEED (R112). -/
def overspeeds (u : Update) (s : State) : Bool :=
  match u.newValue qTurbSpeed with
  | some v => decide (s.limit 0 < v ∧ s.tbc.state ≠ .tripped)
  | none => false

/-- An update finds LOW_INLET, the inlet run already counted (R112). -/
def lowInlet (u : Update) (s : State) : Bool :=
  u.listsValue qInletP && countsInlet s.tbc.state
    && reaches s.tbc.inletRun (s.turbSet .inletPersist)

/-- The trip tests of an update, the higher cause first (R112). -/
def tripUpdate (u : Update) (s : State) : State :=
  let s := inletUpdate u s
  if overspeeds u s then s.tripTurbine .overspeed
  else if lowInlet u s then s.tripTurbine .lowInlet
  else s

/-- The in-band flag at an update (R105). -/
def bandUpdate (u : Update) (s : State) : State :=
  match u.newValue qTurbSpeed with
  | some v =>
    let rated := s.turbSet .ratedSpeed
    let band := s.turbSet .speedBand
    { s with tbc := { s.tbc with inBand := decide (rated - band ≤ v ∧ v ≤ rated + band) } }
  | none =>
    if u.outOfValid qTurbSpeed then { s with tbc := { s.tbc with inBand := false } } else s

/-- The admission demand follows ADM_POS in RUNUP and SYNC_WAIT (R102). -/
def followUpdate (u : Update) (s : State) : State :=
  match u.newValue qAdmPos with
  | some v =>
    if s.tbc.state = .runup ∨ s.tbc.state = .syncWait then
      { s with tbc := { s.tbc with admission := v } }
    else s
  | none => s

/-- The mismatch test at an update (R113). -/
def mismatchUpdate (u : Update) (s : State) : State :=
  match u.newValue qAdmPos with
  | some v =>
    if (s.tbc.state = .warming ∨ carries s.tbc.state = true) ∧ s.tbc.hold = 0 then
      { s with tbc := { s.tbc with
          mismatch := if s.limit 2 < |v - s.tbc.admission| then some (s.tbc.mismatch.getD 0) else none } }
    else s
  | none =>
    if u.outOfValid qAdmPos then { s with tbc := { s.tbc with mismatch := none } } else s

/-- A STEAM_FLOW value is short (R111). -/
def State.isShort (s : State) (v : Int) : Bool :=
  decide (v * 1000 < s.tbc.steamAvail * (1000 - s.turbSet .shortfallMargin))

/-- The shortfall test at a new STEAM_FLOW value (R109, R111); while STEAM_SHORTFALL stays raised steam
available is found anew with the ceiling (log 37). -/
def State.testShortfall (s : State) (v : Int) : State :=
  if s.isShort v then
    let run := run15 s.tbc.shortRun
    let t := { s.tbc with shortRun := run }
    if s.tbc.shortfall then s.commit false [] [] none (s.recompute (some v) t)
    else if reaches run (s.turbSet .shortfallPersist) then
      s.commit false [] [.alarmChange .steamShortfall .turbine (.raise .alarm v)] none
        (s.recompute (some v) { t with shortfall := true })
    else { s with tbc := t }
  else
    let t := { s.tbc with shortRun := 0 }
    if s.tbc.shortfall then
      s.commit false [] [.alarmClear .steamShortfall .turbine] none
        (s.recompute (some v) { t with shortfall := false })
    else { s with tbc := t }

/-- STEAM_FLOW as an update reaches it (R111). -/
def shortfallUpdate (u : Update) (s : State) : State :=
  match u.newValue qSteamFlow with
  | some v => if carries s.tbc.state then s.testShortfall v else s
  | none => s

/-- GEN_LOAD is VALID and at or below MIN_LOAD (R108). -/
def State.lowLoad (s : State) (g : Option Int) : Bool :=
  match g with
  | some v => decide (v ≤ s.turbSet .minLoad)
  | none => false

/-- The breaker order of an UNLOADING turbine becomes OPEN at low load or a setpoint of 0, GEN_LOAD being
`g` while VALID (R108). -/
def State.breakerTest (s : State) (g : Option Int) : State :=
  if s.tbc.state = .unloading ∧ s.tbc.breakerOpen = false
      ∧ (s.tbc.load = 0 ∨ s.lowLoad g = true) then
    s.commit true [] [] none { s.tbc with breakerOpen := true }
  else s

/-- GEN_LOAD as an update reaches it (R108). -/
def genLoadUpdate (u : Update) (s : State) : State :=
  match u.newValue qGenLoad with
  | some v => s.breakerTest (some v)
  | none => s

/-- TBC takes an update: trips, band, admission and mismatch, shortfall, breaker test. -/
def State.tbcUpdate (s : State) (u : Update) : State :=
  genLoadUpdate u (shortfallUpdate u (mismatchUpdate u (followUpdate u (bandUpdate u
    (tripUpdate u s)))))

/-- TBC_UPDATE (R112). -/
def execTbcUpdate (u : Update) (s : State) : Result := .next ((s.took (.tbcUpdate u)).tbcUpdate u)

/-! ## Ceiling recomputed (R109) -/

/-- TBC recomputes steam available and the ceiling (R109). -/
def State.recomputeCeiling (s : State) : State :=
  s.commit false [] [] none (s.recompute (s.validNow qSteamFlow) s.tbc)

/-- TBC_WELL_DEMAND: a production well's demand change (R109). -/
def execTbcWellDemand (c : WellNo) (s : State) : Result :=
  .next (let t := s.took (.tbcWellDemand c)
    if t.role c = .production then t.recomputeCeiling else t)

/-- RUNNING is entered or left. -/
def movesRunning (move : WellState × WellState) : Bool :=
  decide (move.1 = .running) != decide (move.2 = .running)

/-- TBC_WELL_STATE: a production well's change into or out of RUNNING recomputes the ceiling (R109), and no
other change concerns TBC (log 18). -/
def execTbcWellState (c : WellNo) (move : WellState × WellState) (cause : Option WellCause)
    (s : State) : Result :=
  .next (let t := s.took (.tbcWellState c move cause)
    if t.role c = .production ∧ movesRunning move = true then t.recomputeCeiling else t)

/-! ## The second timer (R105 to R108, R113, R117) -/

/-- The speed setpoint after a second in RUNUP (R105). -/
def State.rampedSpeed (s : State) : Int :=
  if s.tbc.speed < s.turbSet .ratedSpeed then
    min (s.tbc.speed + s.turbSet .runupRate) (s.turbSet .ratedSpeed)
  else s.turbSet .ratedSpeed

/-- RUNUP's first step: the speed setpoint rises, and a change is sent. -/
def State.speedStep (s : State) : State :=
  s.commit false [] [] none { s.tbc with speed := s.rampedSpeed }

/-- RUNUP's second step: the settle clock, and SYNC_WAIT when it reaches SETTLE_TIME. -/
def State.settleStep (s : State) : State :=
  let n := if s.tbc.speed = s.turbSet .ratedSpeed ∧ s.tbc.inBand = true then s.tbc.settle + 1 else 0
  let t := { s with tbc := { s.tbc with settle := n } }
  if reaches n (s.turbSet .settleTime) then t.enterSync else t

/-- A running stage timer decremented; at 0 the turbine trips with the cause. -/
def State.stageStep (s : State) (k : TurbCause) : State :=
  match s.tbc.stageLeft with
  | none => s
  | some n =>
    let t := { s with tbc := { s.tbc with stageLeft := some (n - 1) } }
    if n ≤ 1 then t.tripTurbine k else t

/-- A second in RUNUP (R105). -/
def State.runupSecond (s : State) : State :=
  let t := s.speedStep.settleStep
  if t.tbc.state = .runup then t.stageStep .runupFail else t

/-- The running mismatch clock incremented; whether the turbine has tripped on it (R113). -/
def State.mismatchStep (s : State) : State × Bool :=
  match s.tbc.mismatch with
  | none => (s, false)
  | some n =>
    let t := { s with tbc := { s.tbc with mismatch := some (n + 1) } }
    if reaches (n + 1) (s.turbSet .mismatchTime) then (t.tripTurbine .valveMismatch, true)
    else (t, false)

/-- The load ramp of LOADED (R107). -/
def State.loadStep (s : State) : State :=
  s.commit false [] [] none
    (s.withLoad (toward (s.turbSet .loadRate) (min s.tbc.loadDemand s.tbc.ceiling) s.tbc.load) s.tbc)

/-- A second of the adoption hold (R117). -/
def State.holdStep (s : State) : State :=
  if s.tbc.hold ≤ 1 then s.endHold else { s with tbc := { s.tbc with hold := s.tbc.hold - 1 } }

/-- The fall of UNLOADING and its breaker test (R108). -/
def State.unloadStep (s : State) : State :=
  (s.commit false [] [] none
    (s.withLoad (max (s.tbc.load - s.turbSet .unloadRate) 0) s.tbc)).breakerTest
    (s.validNow qGenLoad)

/-- A second in LOADED or UNLOADING (R107). -/
def State.loadSecond (s : State) : State :=
  let r := s.mismatchStep
  if r.2 then r.1
  else if r.1.tbc.state = .unloading then r.1.unloadStep
  else if 0 < r.1.tbc.hold then r.1.holdStep
  else r.1.loadStep

/-- A second in WARMING: the mismatch clock (R113); the warm timer's seconds left go down with it
(log 3). -/
def State.warmSecond (s : State) : State :=
  let r := s.mismatchStep
  if r.2 then r.1
  else { r.1 with tbc := { r.1.tbc with stageLeft := r.1.tbc.stageLeft.map (· - 1) } }

/-- TBC_SECOND_TIMER (R105 to R108, R113, R117). -/
def execTbcSecondTimer (s : State) : Result :=
  .next (match s.tbc.state with
    | .runup => s.runupSecond
    | .syncWait => s.stageStep .syncFail
    | .loaded => s.loadSecond
    | .unloading => s.loadSecond
    | .warming => s.warmSecond
    | .offline => s
    | .tripped => s)

/-! ## Commands (R104, R107, R108, R115, R119) -/

/-- A TURBINE station stands in the station table and is not LOST (R104). -/
def State.turbStationReady (s : State) : Bool :=
  match s.entryOfKind .turbine with
  | some e => decide (s.linkStatus e ≠ .lost)
  | none => false

/-- The record after an accepted START (R104). -/
def State.warmingRecord (s : State) : Tbc :=
  { s.enter .warming s.tbc with
    stageLeft := some (seconds (s.turbSet .warmTime * 60)), settle := 0
    admission := s.turbSet .warmPos }

/-- TURB_CMD START (R104). -/
def State.turbStart (caller : Caller) (s : State) : Answer :=
  s.unclaimed caller .turbine fun s =>
    if s.ssl.storeFault then s.says .refusedStore
    else if s.tbc.state = .offline ∧ s.tbc.tripIn = false ∧ s.turbStationReady = true then
      (s.commit true [] [.counterIncrement [.turbStarts]] none s.warmingRecord, .ok, .none)
    else s.says .refusedState

/-- An accepted STOP handed to SQR with its origin (R118). -/
def State.turbStopped (s : State) (caller : Caller) : Answer :=
  (s.hand [.sqrTargetTripStop .turbine .stop (.command caller)], .ok, .none)

/-- TURB_CMD STOP (R108): no claim refuses it. In LOADED the order is sent only when the STOP ends an
adoption hold (R117). -/
def State.turbStop (caller : Caller) (s : State) : Answer :=
  match s.tbc.state with
  | .warming => (s.commit true [] s.shortfallEnd none s.offlineRecord).turbStopped caller
  | .runup => (s.commit true [] s.shortfallEnd none s.offlineRecord).turbStopped caller
  | .syncWait => (s.commit true [] s.shortfallEnd none s.offlineRecord).turbStopped caller
  | .loaded =>
    (s.commit (decide (0 < s.tbc.hold)) [] [] none (s.enter .unloading s.tbc)).turbStopped caller
  | .unloading => s.turbStopped caller
  | .offline => s.says .refusedState
  | .tripped => s.says .refusedState

/-- TURB_CMD LOAD (R107). -/
def State.turbLoad (caller : Caller) (v : Int) (s : State) : Answer :=
  s.unclaimed caller .turbine fun s =>
    let d := clampTo 0 (s.turbSet .ratedLoad) v
    (s.commit false [] [] none { s.tbc with loadDemand := d }, clampStatus v d, .none)

def execTurbCmdStart (s : State) : Result := .next (s.serve 0x38 (State.turbStart .host))
def execTurbCmdStop (s : State) : Result := .next (s.serve 0x38 (State.turbStop .host))

/-- TURB_CMD LOAD; one that carries no value is BAD_VALUE (R104). -/
def execTurbCmdLoad (v : Option Int) (s : State) : Result :=
  .next (s.serve 0x38 fun s => match v with
    | none => s.says .badValue
    | some v => s.turbLoad .host v)

/-- READ_TURBINE (R119). -/
def execReadTurbine (s : State) : Result :=
  .next (s.serve 0x39 fun s => s.says .ok
    (.turbine s.tbc ((stationQtys .turbine 0).map s.viewOf)))

/-- TURBINE_TRIP at its OPERATE (R115). -/
def State.operateTurbTrip (s : State) : State × Status :=
  if turbRuns s.tbc.state then (s.tripTurbine .operator, .ok) else (s, .refusedState)

/-- The TURBINE station is ONLINE. -/
def State.turbOnline (s : State) : Bool :=
  match s.entryOfKind .turbine with
  | some e => decide (s.linkStatus e = .online)
  | none => false

/-- The record after a reset (R115). -/
def State.resetRecord (s : State) : Tbc :=
  { s.enter .offline s.tbc with
    tripOut := false, breakerOpen := false, load := 0, speed := 0, admission := 0 }

/-- The speed is VALID and below RESET_SPEED as TBC meets it: an update not yet taken counts for nothing (R115,
log 42). -/
def State.slowEnough (s : State) : Bool :=
  match s.validFor tbcUpdateOf qTurbSpeed with
  | some v => decide (v < s.turbSet .resetSpeed)
  | none => false

/-- TURBINE_RESET at its OPERATE (R115). -/
def State.operateTurbReset (s : State) : State × Status :=
  if (s.claimant .turbine).isSome then (s, .refusedClaimed)
  else if s.tbc.state = .tripped ∧ s.tbc.tripIn = false ∧ s.slowEnough = true
      ∧ s.turbOnline = true then
    (s.commit true [] [.alarmClear .turbTrip .turbine] none s.resetRecord, .ok)
  else (s, .refusedState)

/-- OPERATE of TURBINE_TRIP (R115, R189). -/
def execOperateTurbineTrip (arg : Nat) (s : State) : Result :=
  .next (s.operate .turbineTrip arg (decide (arg = 0)) State.operateTurbTrip)

/-- OPERATE of TURBINE_RESET (R115, R189). -/
def execOperateTurbineReset (arg : Nat) (s : State) : Result :=
  .next (s.operate .turbineReset arg (decide (arg = 0)) State.operateTurbReset)

/-! ## Settings taken (R101, R109, R110) -/

/-- TBC takes a change of RATED_LOAD: a load demand above it is clamped to it. -/
def State.ratedLoadTaken (s : State) : State :=
  s.commit false [] [] none
    { s.tbc with loadDemand := min s.tbc.loadDemand (s.turbSet .ratedLoad) }

/-- TBC takes a change of STEAM_RATE or STEAM_FRACTION (R109). -/
def State.steamRateTaken (s : State) : State := s.recomputeCeiling

/-- TBC takes a change of WARM_STEAM: the steam demand is reckoned anew. -/
def State.warmSteamTaken (s : State) : State := s.commit false [] [] none s.tbc

end Sys2Proof.Machine
end

