-- ==== Sys2Proof/Machine/Balance.lean ====
section
/-! DEFINITION. The Brine Balance Unit (chapter 7): requirement, ceiling, tank hold, allocation and
reinjection split. -/

namespace Sys2Proof.Machine

/-! ## The share procedure (R131) -/

/-- An ACTIVE well of an allocation: its weight, MIN_FLOW and upper bound. -/
structure Member where
  well : WellNo
  weight : Int
  minFlow : Int
  upper : Int
  deriving DecidableEq, Repr

/-- What a well has been given in the passes and the headroom it has left. -/
structure Gift where
  well : WellNo
  given : Int
  room : Int
  deriving DecidableEq, Repr

/-- A member's headroom before the passes. -/
def Member.room (m : Member) : Int := m.upper - m.minFlow

/-- A member's share of `r` at a sum of weights `w`. -/
def Member.share (r w : Int) (m : Member) : Int := r * m.weight / w

def weightSum (l : List Member) : Int := (l.map Member.weight).sum
def minSum (l : List Member) : Int := (l.map Member.minFlow).sum

/-- The remainder given out 1 t/h at a time, once round the wells with headroom left: what is left of it
and the gifts. -/
def oneRound : Nat → List Gift → Nat × List Gift
  | 0, l => (0, l)
  | n + 1, [] => (n + 1, [])
  | n + 1, g :: l =>
    if 0 < g.room then
      let r := oneRound n l
      (r.1, { g with given := g.given + 1, room := g.room - 1 } :: r.2)
    else
      let r := oneRound (n + 1) l
      (r.1, g :: r.2)

/-- The remainder given out in rounds until it is 0 or no well has headroom left; each round gives at
least 1 while one has, so `fuel` rounds suffice for a remainder of `fuel`. -/
def rounds : (fuel : Nat) → Nat → List Gift → List Gift
  | 0, _, l => l
  | fuel + 1, n, l =>
    let r := oneRound n l
    rounds fuel r.1 r.2

/-- The end of the passes: every member is given its share, and the remainder is given out. -/
def lastPass (r : Int) (l : List Member) : List Gift :=
  let w := weightSum l
  let gifts := l.map fun m => (⟨m.well, m.share r w, m.room - m.share r w⟩ : Gift)
  let left := (r - (gifts.map Gift.given).sum).toNat
  rounds left left gifts

/-- The passes over the members left (R131, step 4); each removes a member or ends, so as many passes as
members suffice. -/
def passes : (fuel : Nat) → Int → List Member → List Gift
  | 0, _, _ => []
  | _ + 1, _, [] => []
  | fuel + 1, r, l =>
    let w := weightSum l
    let full := l.filter fun m => decide (m.room < m.share r w)
    if full.isEmpty then lastPass r l
    else
      full.map (fun m => ⟨m.well, m.room, 0⟩)
        ++ passes fuel (r - (full.map Member.room).sum)
          (l.filter fun m => decide (m.share r w ≤ m.room))

/-- What the passes gave a well. -/
def givenTo (l : List Gift) (c : WellNo) : Int :=
  match l.find? (fun g => decide (g.well = c)) with
  | some g => g.given
  | none => 0

/-- The targets of the ACTIVE wells for an amount to share and the fixed flow (R131, steps 2 to 5). -/
def activeTargets (amount fixed : Int) (l : List Member) : List (WellNo × Int) :=
  let r := amount - fixed - minSum l
  if r < 0 then l.map fun m => (m.well, m.minFlow)
  else
    let gifts := passes l.length r l
    l.map fun m => (m.well, m.minFlow + givenTo gifts m.well)

/-! ## The wells as an allocation reads them (R130, R133) -/

/-- The flash cap of a well keeps it below its MIN_FLOW. -/
def State.capBelowMin (s : State) (c : WellNo) : Bool :=
  match s.bbu.caps.get c with
  | some v => decide (v < s.wellSet c .minFlow)
  | none => false

/-- The class of a well with a role (R130, R133). -/
def State.classOf (s : State) (c : WellNo) : WellClass :=
  match (s.wcc.get c).state with
  | .starting => .starting
  | .running => if s.role c = .production ∧ s.capBelowMin c = true then .heldLow else .active
  | .off => .out
  | .stopping => .out
  | .tripped => .out
  | .lockedOut => .out

/-- The upper bound of an ACTIVE well (R130, R133). -/
def State.upperOf (s : State) (c : WellNo) : Int :=
  match s.role c, s.bbu.caps.get c with
  | .production, some v => min (s.wellSet c .maxFlow) v
  | _, _ => s.wellSet c .maxFlow

/-- The wells of a role and class, in ascending channel order. -/
def State.wellsOf (s : State) (r : Role) (k : WellClass) : List WellNo :=
  wells.filter fun c => decide (s.role c = r ∧ s.classOf c = k)

/-- The ACTIVE wells of a role. -/
def State.members (s : State) (r : Role) : List Member :=
  (s.wellsOf r .active).map fun c =>
    ⟨c, (s.wcc.get c).weight, s.wellSet c .minFlow, s.upperOf c⟩

/-- The sum of MIN_FLOW over the STARTING wells of a role. -/
def State.startingFlow (s : State) (r : Role) : Int :=
  ((s.wellsOf r .starting).map fun c => s.wellSet c .minFlow).sum

/-- The sum of the sent demands of the HELD_LOW wells. -/
def State.heldFlow (s : State) : Int :=
  ((s.wellsOf .production .heldLow).map fun c => (s.wcc.get c).demand).sum

/-- The total production demand: the sent demands of the production wells, whatever their state. -/
def State.totalDemand (s : State) : Int :=
  (wells.map fun c => if s.role c = .production then (s.wcc.get c).demand else 0).sum

/-- Σmin: the sum of MIN_FLOW over the production wells in STARTING or RUNNING. -/
def State.sumMin (s : State) : Int :=
  (wells.map fun c =>
    if s.role c = .production ∧ countsRuns (s.wcc.get c).state = true then s.wellSet c .minFlow
    else 0).sum

/-- The brine of a production flow, rounded up (R132, R133). -/
def State.brineOf (s : State) (flow : Int) : Int :=
  ceilDiv (flow * (1000 - s.balSet .steamFraction)) 1000

/-! ## Allocation (R131 to R133) -/

/-- The targets an allocation computes, and the figures it keeps. -/
structure Plan where
  production : List (WellNo × Int)
  reinjection : List (WellNo × Int)
  flow : Int
  request : Int
  minBrine : Int
  deriving DecidableEq, Repr

/-- The targets of a role's STARTING wells: their MIN_FLOW. -/
def State.startingTargets (s : State) (r : Role) : List (WellNo × Int) :=
  (s.wellsOf r .starting).map fun c => (c, s.wellSet c .minFlow)

/-- The sum of a list of targets. -/
def targetSum (l : List (WellNo × Int)) : Int := (l.map Prod.snd).sum

/-- The targets of a role for an amount to share (R131). -/
def State.roleTargets (s : State) (r : Role) (amount fixed : Int) : List (WellNo × Int) :=
  activeTargets amount fixed (s.members r) ++ s.startingTargets r

/-- An allocation from the records as they stand (R131 to R133). -/
def State.plan (s : State) : Plan :=
  let fixed := s.startingFlow .production + s.heldFlow
  let production := s.roleTargets .production s.bbu.ceiling fixed
  let flow := targetSum production + s.heldFlow
  let request := s.brineOf flow
  { production := production
    reinjection := s.roleTargets .reinjection request (s.startingFlow .reinjection)
    flow := flow
    request := request
    minBrine := s.brineOf (fixed + minSum (s.members .production)) }

/-- What the plan hands a well: a target for a participant. -/
def Plan.targetOf (p : Plan) (c : WellNo) : Option Int :=
  match p.production.lookup c with
  | some t => some t
  | none => p.reinjection.lookup c

/-- The class and target of a well in an allocation (R134). -/
def State.rowOf (s : State) (p : Plan) (c : WellNo) : AllocRow :=
  ⟨if s.role c = .unused then none else some (s.classOf c), p.targetOf c⟩

/-- The targets handed to WCC in ascending channel order: every participant its target, every HELD_LOW
well an absent one (R133). -/
def State.targetEvents (s : State) (p : Plan) : List Instr :=
  wells.flatMap fun c =>
    match p.targetOf c with
    | some t => [.wccTarget c (some t)]
    | none =>
      if s.role c = .production ∧ s.classOf c = .heldLow then [.wccTarget c none] else []

/-- The balance record with the figures of an allocation. -/
def State.planned (s : State) (p : Plan) : State :=
  { s with bbu := { s.bbu with
      production := p.flow, request := p.request, rows := Bank.ofFn fun c => s.rowOf p c } }

/-- BRINE_OVER as an allocation moves it (R132). -/
def State.brineEvents (s : State) (p : Plan) : List Instr :=
  if s.bbu.capacity < p.minBrine then
    [.alarmChange .brineOver .balance (.raise .alarm p.minBrine)]
  else if s.bbu.brineOver then [.alarmClear .brineOver .balance]
  else []

/-- An allocation: BRINE_OVER, the record's figures, and the targets handed (R129 to R133). -/
def State.allocate (s : State) : State :=
  let p := s.plan
  let t := s.planned p
  { t with bbu := { t.bbu with brineOver := decide (s.bbu.capacity < p.minBrine) } }.hand
    (s.brineEvents p ++ s.targetEvents p)

/-! ## Requirement and ceiling (R124 to R126) -/

/-- T_req by the mode (R124). -/
def State.requirement (s : State) : Int :=
  match s.bbu.mode with
  | .power =>
    if s.bbu.afterTrip then s.balSet .heatBaseFlow
    else max (s.balSet .heatBaseFlow) (ceilDiv (s.bbu.steam * 1000) (s.balSet .steamFraction))
  | .heat => s.balSet .heatBaseFlow
  | .fixed => s.bbu.fixedTarget

/-- R: the MAX_FLOW of the reinjection wells in RUNNING (R126). -/
def State.reinjectionCapacity (s : State) : Int :=
  (wells.map fun c =>
    if s.role c = .reinjection ∧ (s.wcc.get c).state = .running then s.wellSet c .maxFlow else 0).sum

/-- The balance record with R, the brine limit and C computed (R126). -/
def State.withCeiling (s : State) : Bbu :=
  let r := s.reinjectionCapacity
  let limit := r * 1000 / (1000 - s.balSet .steamFraction)
  let c := min s.bbu.tReq limit
  { s.bbu with
    capacity := r, brineLimit := limit
    ceiling := match s.bbu.holdCeiling with | some h => min c h | none => c }

/-- The ceiling computed anew, and the allocation that follows (R126, R129). -/
def State.ceilingAnew (s : State) : State := { s with bbu := s.withCeiling }.allocate

/-- FAST_DOWN tested for clearing (R125). -/
def State.testFastDown (s : State) : State :=
  if s.totalDemand ≤ s.bbu.tReq then { s with bbu := { s.bbu with fastDown := false } } else s

/-- T_req reckoned anew; a change of it tests FAST_DOWN (R124, R125). -/
def State.reckon (s : State) : State :=
  let t := { s with bbu := { s.bbu with tReq := s.requirement } }
  if s.requirement = s.bbu.tReq then t else t.testFastDown

/-- T_req reckoned anew, and the ceiling when T_req has changed (R124). -/
def State.reckonCeiling (s : State) : State :=
  if s.requirement = s.bbu.tReq then s else s.reckon.ceilingAnew

/-- BBU_STEAM_DEMAND (R124). -/
def execBbuSteamDemand (d : Int) (s : State) : Result :=
  .next (let t := s.took (.bbuSteamDemand d)
    { t with bbu := { t.bbu with steam := d } }.reckonCeiling)

/-- TBC's change of state (R124, R125). -/
def State.turbineChanged (s : State) (new : TurbState) : State :=
  if new = .tripped ∧ s.bbu.mode = .power then
    { s with bbu := { s.bbu with afterTrip := true, fastDown := true } }.reckonCeiling
  else if new = .loaded then { s with bbu := { s.bbu with afterTrip := false } }.reckonCeiling
  else s

/-- BBU_TURBINE_STATE (R124). -/
def execBbuTurbineState (move : TurbState × TurbState) (cause : Option TurbCause) (s : State) :
    Result :=
  .next ((s.took (.bbuTurbineState move cause)).turbineChanged move.2)

/-- BBU_WELL_STATE: a well's state change, or a role change, which carries the same state twice (R126,
R129). -/
def execBbuWellState (c : WellNo) (move : WellState × WellState) (cause : Option WellCause)
    (s : State) : Result :=
  .next (let t := s.took (.bbuWellState c move cause)
    if move.1 = move.2 ∨ t.role c = .reinjection then t.ceilingAnew
    else if t.role c = .production then t.allocate
    else t)

/-- BBU_WELL_DEMAND (R125). -/
def execBbuWellDemand (c : WellNo) (s : State) : Result :=
  .next (let t := s.took (.bbuWellDemand c)
    if t.role c = .production then t.testFastDown else t)

/-- BBU_WELL_WEIGHT (R129). -/
def execBbuWellWeight (c : WellNo) (s : State) : Result :=
  .next (let t := s.took (.bbuWellWeight c)
    if t.role c = .unused then t else t.allocate)

/-- BBU_FLASH_HOLD: the flash cap set or removed, and a production well's allocation (R129, R130). -/
def execBbuFlashHold (c : WellNo) (held : Bool) (s : State) : Result :=
  .next (let t := s.took (.bbuFlashHold c held)
    let cap := if held then some (t.wcc.get c).demand else none
    let t := { t with bbu := { t.bbu with caps := t.bbu.caps.set c cap } }
    if t.role c = .production then t.allocate else t)

/-! ## The tank hold (R127, R128) -/

/-- A new hold state with its ceiling and timer, the notice and event of a change, the alarm changes, and
the ceiling computed anew (R126, R134). -/
def State.setHold (s : State) (new : HoldState) (ceiling : Option Int) (alarms : List Instr) : State :=
  let old := s.bbu.hold
  let t := { s with bbu := { s.bbu with
    hold := new, holdCeiling := ceiling, holdTimer := decide (new = HoldState.hold) } }
  let t := if old = new then t
    else (t.notify [.state .balance (.hold old) (.hold new) none]).hand
      [.sqrStateChange .balance (.hold old, .hold new) none]
  (t.hand alarms).ceilingAnew

/-- TANK_HIGH set or cleared in the record. -/
def State.setTankHigh (s : State) (v : Bool) : State := { s with bbu := { s.bbu with tankHigh := v } }

/-- TANK_HIGH raised, when it is not raised. -/
def State.tankHighRaise (s : State) (level : Int) : List Instr :=
  if s.bbu.tankHigh then [] else [.alarmChange .tankHigh .balance (.raise .alarm level)]

/-- TANK_HIGH cleared, when it is raised. -/
def State.tankHighClear (s : State) : List Instr :=
  if s.bbu.tankHigh then [.alarmClear .tankHigh .balance] else []

/-- The hold ceiling of an entry to HOLD at a high level, no higher than a ceiling kept (R127, R128). -/
def State.enterCeiling (s : State) (kept : Option Int) : Int :=
  let h := s.totalDemand - s.balSet .holdStep
  max (match kept with | some k => min h k | none => h) s.sumMin

/-- A new TANK_LEVEL value (R127, R128). -/
def State.takeLevel (s : State) (v : Int) : State :=
  let high := decide (s.balSet .tankXoff ≤ v)
  let low := decide (v ≤ s.balSet .tankXon)
  match s.bbu.hold with
  | .normal =>
    if high then
      (s.setTankHigh true).setHold .hold (some (s.enterCeiling none)) (s.tankHighRaise v)
    else s
  | .hold =>
    if low then (s.setTankHigh false).setHold .normal none s.tankHighClear else s
  | .frozen =>
    if high then
      (s.setTankHigh true).setHold .hold (some (s.enterCeiling s.bbu.holdCeiling)) (s.tankHighRaise v)
    else if low then (s.setTankHigh false).setHold .normal none s.tankHighClear
    else s.setHold .hold s.bbu.holdCeiling []

/-- TANK_LEVEL moves into STALE: the hold is frozen (R128). -/
def State.freezeHold (s : State) : State :=
  if s.bbu.hold = .frozen then s
  else
    s.setHold .frozen (some (match s.bbu.holdCeiling with
      | some h => min s.totalDemand h
      | none => s.totalDemand)) []

/-- The TANK_XOFF in force becomes the one BBU compares with: a change acts at a TANK_LEVEL value (R122). -/
def State.noteXoff (s : State) : State := { s with bbu := { s.bbu with tankXoff := s.balSet .tankXoff } }

/-- BBU takes an update (R127, R128). -/
def State.bbuUpdate (s : State) (u : Update) : State :=
  match u.newValue qTankLevel with
  | some v => s.noteXoff.takeLevel v
  | none => if u.intoStale qTankLevel then s.freezeHold else s

/-- BBU_TANK_UPDATE (R127). -/
def execBbuTankUpdate (u : Update) (s : State) : Result :=
  .next ((s.took (.bbuTankUpdate u)).bbuUpdate u)

/-- The hold ceiling lowered by HOLD_STEP, stopping at Σmin; one at or below Σmin is kept (R127). -/
def State.lowered (s : State) (h : Int) : Int :=
  if h ≤ s.sumMin then h else max (h - s.balSet .holdStep) s.sumMin

/-- The hold timer expires in HOLD (R127): BBU finds TANK_LEVEL as it stood before an update it has not yet taken
(log 42), and compares it with the TANK_XOFF of the last TANK_LEVEL value (R122, log 38). -/
def State.holdExpiry (s : State) : State :=
  match s.validFor bbuUpdateOf qTankLevel, s.bbu.holdCeiling with
  | some v, some h =>
    if s.bbu.tankXoff ≤ v ∧ s.lowered h ≠ h then
      { s with bbu := { s.bbu with holdCeiling := some (s.lowered h) } }.ceilingAnew
    else s
  | _, _ => s

/-- HOLD_TIMER_EXPIRY (R127): the timer starts again in every case. -/
def execHoldTimerExpiry (s : State) : Result :=
  .next (if s.bbu.hold = .hold ∧ s.bbu.holdTimer = true then s.holdExpiry else s)

/-! ## Commands (R123, R134) -/

/-- BAL_CMD MODE of a mode (R123). -/
def State.balMode (caller : Caller) (m : BalMode) (s : State) : Answer :=
  s.unclaimed caller .balance fun s =>
    let t := { s with bbu := { s.bbu with mode := m, afterTrip := false } }
    let t := if m = s.bbu.mode then t
      else (t.notify [.state .balance (.balance s.bbu.mode) (.balance m) none]).hand
        [.sqrStateChange .balance (.balance s.bbu.mode, .balance m) none]
    (t.reckon.ceilingAnew, .ok, .none)

/-- The sum of MAX_FLOW of the production wells (R123). -/
def State.productionMax (s : State) : Int :=
  (wells.map fun c => if s.role c = .production then s.wellSet c .maxFlow else 0).sum

/-- BAL_CMD FIXED_TARGET (R123). -/
def State.balFixed (caller : Caller) (v : Int) (s : State) : Answer :=
  s.unclaimed caller .balance fun s =>
    let f := clampTo 0 s.productionMax v
    ({ s with bbu := { s.bbu with fixedTarget := f } }.reckon.ceilingAnew, clampStatus v f, .none)

/-- BAL_CMD MODE; one that names no mode is BAD_VALUE (R123). -/
def execBalCmdMode (m : Option BalMode) (s : State) : Result :=
  .next (s.serve 0x40 fun s => match m with
    | none => s.says .badValue
    | some m => s.balMode .host m)

def execBalCmdFixedTarget (v : Int) (s : State) : Result :=
  .next (s.serve 0x40 (State.balFixed .host v))

/-- The rows of READ_BALANCE: each production and reinjection well (R134). -/
def State.balanceRows (s : State) : List (WellNo × AllocRow) :=
  (wells.filter fun c => decide (s.role c ≠ .unused)).map fun c => (c, s.bbu.rows.get c)

/-- READ_BALANCE (R134). -/
def execReadBalance (s : State) : Result :=
  .next (s.serve 0x41 fun s => s.says .ok (.balance s.bbu s.balanceRows))

/-! ## Settings taken (R122, R126, R129) -/

/-- BBU takes a change of STEAM_FRACTION or HEAT_BASE_FLOW: requirement, brine limit, ceiling and
allocation (R122). -/
def State.requirementTaken (s : State) : State := s.reckon.ceilingAnew

/-- BBU takes a change of a well's MIN_FLOW (R129). -/
def State.minFlowTaken (s : State) (c : WellNo) : State :=
  if s.role c = .production then s.allocate else s

/-- BBU takes a change of a well's MAX_FLOW (R126, R129). -/
def State.maxFlowTaken (s : State) (c : WellNo) : State :=
  match s.role c with
  | .production => s.allocate
  | .reinjection => s.ceilingAnew
  | .unused => s

end Sys2Proof.Machine
end

