-- ==== Sys2Proof/Machine/Frames.lean ====
section
/-! DEFINITION. Bytes on the two links: the CRC-16, the supervisory frame, its receiver and the layouts
of R193, and the field frame of R146. -/

namespace Sys2Proof.Machine

/-! ## Bytes, most significant first (R146, R193) -/

def be8 (v : Int) : List Byte := [BitVec.ofInt 8 v]
def be16 (v : Int) : List Byte := [BitVec.ofInt 8 (v / 256), BitVec.ofInt 8 v]
def be32 (v : Int) : List Byte :=
  [BitVec.ofInt 8 (v / 16777216), BitVec.ofInt 8 (v / 65536), BitVec.ofInt 8 (v / 256),
   BitVec.ofInt 8 v]

/-- Two bytes as an unsigned number. -/
def u16 (a b : Byte) : Nat := 256 * a.toNat + b.toNat

/-- Four bytes as a signed number (two's complement). -/
def s32 (a b c d : Byte) : Int := (a ++ b ++ c ++ d : BitVec 32).toInt

/-! ## The CRC-16 of both links (R146, R183) -/

/-- One bit of the division by x¹⁶ + x¹² + x⁵ + 1. -/
def crcBit (c : BitVec 16) : BitVec 16 :=
  if c.msb then (c <<< 1) ^^^ 0x1021#16 else c <<< 1

/-- One byte, most significant bit first. -/
def crcByte (c : BitVec 16) (b : Byte) : BitVec 16 :=
  let c := c ^^^ (b ++ 0#8)
  crcBit (crcBit (crcBit (crcBit (crcBit (crcBit (crcBit (crcBit c)))))))

/-- The CRC-16 with the initial value 0xFFFF. -/
def crc16 (l : List Byte) : BitVec 16 := l.foldl crcByte 0xFFFF#16

/-- The two CRC bytes of a list of bytes. -/
def crcBytes (l : List Byte) : List Byte := be16 ((crc16 l).toNat : Int)

/-! ## The supervisory frame and its receiver (R183, R193) -/

/-- A supervisory frame. -/
def supFrame (kind : Byte) (body : List Byte) : List Byte :=
  let inner := be16 body.length ++ [kind] ++ body
  0xC3#8 :: inner ++ crcBytes inner

/-- What the receiver has made of the bytes that came: it holds a partial frame (none: it hunts), or
a good frame has completed. -/
inductive Received | partial_ (bytes : List Byte) | good (kind : Byte) (body : List Byte)
  deriving DecidableEq, Repr

/-- The receiver over the bytes since it last hunted (R183); `fuel` is at least their number. -/
def receive : (fuel : Nat) → List Byte → Received
  | 0, _ => .partial_ []
  | _ + 1, [] => .partial_ []
  | fuel + 1, b :: rest =>
    if b ≠ 0xC3#8 then receive fuel rest
    else match rest with
      | hi :: lo :: more =>
        if 240 < u16 hi lo then receive fuel rest
        else if more.length < u16 hi lo + 3 then .partial_ (b :: rest)
        else if crcBytes (rest.take (u16 hi lo + 3)) = (rest.drop (u16 hi lo + 3)).take 2 then
          .good (more.getD 0 0) ((more.drop 1).take (u16 hi lo))
        else receive fuel (more.drop (u16 hi lo + 3))
      | _ => .partial_ (b :: rest)

/-- The receiver over a list of bytes, hunting at first. -/
def receiver (l : List Byte) : Received := receive l.length l

/-! ## Request kinds (R186) -/

/-- The kinds of the catalogue that the host may send. -/
def catalogue : List Byte :=
  [0x01, 0x02, 0x03, 0x04, 0x10, 0x18, 0x19, 0x1A, 0x20, 0x21, 0x22, 0x28, 0x29, 0x30, 0x31, 0x38,
   0x39, 0x40, 0x41, 0x48, 0x50, 0x51, 0x52, 0x53, 0x54, 0x55, 0x60, 0x61, 0x62, 0x63, 0x64, 0x70,
   0x71, 0x72, 0x73, 0x74, 0x75, 0x76]

/-! ## Layouts (R193) -/

/-- The status byte. -/
def statusCode : Status → Nat
  | .ok => 0 | .clamped => 1 | .busy => 2 | .badKind => 3 | .badValue => 4 | .badTable => 5
  | .refusedState => 6 | .refusedLocked => 7 | .refusedClaimed => 8 | .refusedProtected => 9
  | .refusedStore => 10 | .notSelected => 11 | .notFound => 12

/-- The two-byte reply header. -/
def replyHeader (r : Reply) : List Byte := [BitVec.ofNat 8 (statusCode r.status), r.flags.toByte]

/-- The number of an alarm code (R163). -/
def codeNo : AlarmCode → Nat
  | .silicaSi => 1 | .silicaFloorUnreachable => 2 | .silicaStale => 3 | .flashWatch => 4
  | .calciteRisk => 5 | .pumpFouling => 6 | .hxFouling => 7 | .hxIsolated => 8 | .floorBreach => 9
  | .wellTrip => 10 | .wellLockout => 11 | .turbTrip => 12 | .steamShortfall => 13 | .tankHigh => 14
  | .brineOver => 15 | .stationLost => 16 | .storeFault => 17

/-- The byte of an alarm source. -/
def sourceNo : Source → Nat
  | .point p => p.val | .floor => 4 | .well c => 16 + c.val | .exchanger => 32 | .turbine => 33
  | .balance => 34 | .store => 35 | .station a => 64 + a

def severityNo : Severity → Nat
  | .watch => 0 | .alarm => 1 | .trip => 2

def alarmStateNo : AlarmState → Nat
  | .activeUnacked => 0 | .activeAcked => 1 | .clearedUnacked => 2

def markNo : Mark → Nat
  | .raised => 0 | .escalated => 1 | .deescalated => 2 | .cleared => 3 | .removed => 4
  | .evicted => 5 | .notEntered => 6

/-- The 18 bytes of an alarm entry, with the byte at offset 3 given. -/
def alarmBytes (e : AlarmEntry) (third : Nat) : List Byte :=
  [BitVec.ofNat 8 (codeNo e.code), BitVec.ofNat 8 (sourceNo e.source),
   BitVec.ofNat 8 (severityNo e.severity), BitVec.ofNat 8 third]
  ++ be32 (e.firstRaise.toNat : Int) ++ be32 (e.lastChange.toNat : Int)
  ++ be16 (e.occurrences : Int) ++ be32 e.value

/-- An alarm entry as READ_ALARMS gives it. -/
def entryBytes (e : AlarmEntry) : List Byte := alarmBytes e (alarmStateNo e.state)

/-- The body of a NOTICE_ALARM. -/
def noticeAlarmBody (e : AlarmEntry) (m : Mark) : List Byte := alarmBytes e (markNo m)

def retentionNo : Retention → Nat
  | .cleared => 0 | .kept => 1 | .lost => 2

def pointStateNo : PointState → Nat
  | .clear => 0 | .watch => 1 | .alarm => 2

/-- The 23 bytes of a trend record. -/
def trendBytes (t : Trend) : List Byte :=
  be32 (t.seq.toNat : Int) ++ be32 (t.interval.toNat : Int)
  ++ [BitVec.ofNat 8 t.point.val, BitVec.ofNat 8 (pointStateNo t.state),
      BitVec.ofNat 8 t.staleSeen.toNat]
  ++ be16 t.min ++ be16 t.max ++ be16 t.mean ++ be32 (t.count : Int) ++ be16 t.floorInUse

/-- The body of a reply, for the two contents R193 lays out and for an empty content; the others have
no layout in the manual (log 27). -/
def replyBody (r : Reply) : Option (List Byte) :=
  match r.content with
  | .none => some (replyHeader r)
  | .alarms n ovf out ret l =>
    some (replyHeader r ++ be8 (n : Int) ++ be8 (ovf.toNat : Int) ++ be8 (out.toNat : Int)
      ++ be8 (retentionNo ret : Int) ++ l.flatMap entryBytes)
  | .trend newest kept old l =>
    some (replyHeader r ++ be32 (newest.toNat : Int) ++ be16 (kept : Int) ++ be8 (old.toNat : Int)
      ++ be8 (l.length : Int) ++ l.flatMap trendBytes)
  | _ => none

/-- The frame of a reply whose body has a layout (R184, R193). -/
def replyFrame (r : Reply) : Option (List Byte) := (replyBody r).map (supFrame r.kind)

/-- The kind byte of a notice (R186). -/
def noticeKind : Notice → Byte
  | .alarm _ _ => 0xE1 | .state _ _ _ _ => 0xE2 | .seq _ _ _ _ _ => 0xE3

/-- The body of a notice, which has no reply header (R187); R193 lays out that of a NOTICE_ALARM alone
(log 27). -/
def noticeBody : Notice → Option (List Byte)
  | .alarm e m => some (noticeAlarmBody e m)
  | .state _ _ _ _ => none
  | .seq _ _ _ _ _ => none

/-- The frame of a notice whose body has a layout (R187, R193). -/
def noticeFrame (n : Notice) : Option (List Byte) := (noticeBody n).map (supFrame (noticeKind n))

/-! ## The field frame (R146) -/

/-- A field frame. -/
def fieldFrame (address : Nat) (kind : Byte) (body : List Byte) : List Byte :=
  let inner := be8 (address : Int) ++ [kind] ++ be8 (body.length : Int) ++ body
  inner ++ crcBytes inner

/-- The kind byte of the frame an exchange sends. -/
def exchangeKind : Exchange → Byte
  | .poll => 0x11 | .set => 0x12 | .trip => 0x13

/-- The kind byte of the answer due to an exchange. -/
def answerKind : Exchange → Byte
  | .poll => 0x91 | .set => 0x92 | .trip => 0x93

def controlNo : Control → Int
  | .valve => 0 | .speed => 1 | .sync => 2

/-- The body of a SET. -/
def setBody : SetOrder → List Byte
  | .well _ flow => be16 flow
  | .exchanger bypass => be16 bypass
  | .turbine o =>
    be8 (controlNo o.control) ++ be16 o.speed ++ be32 o.load ++ be16 o.admission
    ++ be8 (o.breakerOpen.toNat : Int)

/-- The number of value entries of a POLL_REPLY of a kind. -/
def entryCount (k : Kind) : Nat := (stationQtys k 0).length

/-- The length of the extra byte of a POLL_REPLY of a kind. -/
def extraLength : Kind → Nat
  | .well => 1 | .turbine => 1 | .analyser => 1 | _ => 0

/-- The body length of the answer due to an exchange with a station of a kind. -/
def answerLength (x : Exchange) (k : Kind) : Nat :=
  match x with
  | .poll => 5 * entryCount k + extraLength k
  | .set => 0
  | .trip => 0

/-- A quality code, none for a code other than 0, 1 and 2. -/
def qualityOf (b : Byte) : Option Quality :=
  if b = 0 then some .good else if b = 1 then some .suspect else if b = 2 then some .fault else none

/-- The first `n` value entries of a POLL_REPLY body, none when a quality code is not one. -/
def valueEntries : (n : Nat) → List Byte → Option (List (Int × Quality))
  | 0, _ => some []
  | n + 1, a :: b :: c :: d :: q :: rest =>
    match qualityOf q, valueEntries n rest with
    | some q, some l => some ((s32 a b c d, q) :: l)
    | _, _ => none
  | _ + 1, _ => none

/-- The first complete frame of the bytes received: address, kind, body and CRC bytes. -/
structure FieldReply where
  address : Byte
  kind : Byte
  body : List Byte
  crcMatches : Bool
  deriving DecidableEq, Repr

/-- The first complete frame of the bytes received, none while none is complete (R142). -/
def completeFrame : List Byte → Option FieldReply
  | a :: k :: n :: rest =>
    if rest.length < n.toNat + 2 then none
    else some ⟨a, k, rest.take n.toNat,
      decide (crcBytes (a :: k :: n :: rest.take n.toNat) = (rest.drop n.toNat).take 2)⟩
  | _ => none

/-- The outcome of a complete frame (R142), with the value entries of a POLL_REPLY. -/
def judge (x : Exchange) (st : Station) (f : FieldReply) : Outcome × List (Int × Quality) :=
  if !f.crcMatches then (.badCheck, [])
  else if f.address.toNat ≠ st.address then (.wrongAddr, [])
  else if f.kind ≠ answerKind x then (.badForm, [])
  else if f.body.length ≠ answerLength x st.kind then (.badForm, [])
  else match x with
    | .poll =>
      match valueEntries (entryCount st.kind) f.body with
      | some l => (.good, l)
      | none => (.badForm, [])
    | .set => (.good, [])
    | .trip => (.good, [])

end Sys2Proof.Machine
end

