-- ==== Sys2Proof/Machine/FieldLink.lean ====
section
/-! DEFINITION. The Field Link Controller (chapter 8): queues, arbiter, exchanges and their outcomes, the
slot timer and retirement. -/

namespace Sys2Proof.Machine

/-! ## Station records -/

/-- The record of an entry changed. -/
def State.setStation (s : State) (e : EntryNo) (f : StationRec → StationRec) : State :=
  { s with flc := { s.flc with stations := s.flc.stations.modify e f } }

/-- The station an entry stands for: the old one while its retirement waits (R137). -/
def State.stationOf (s : State) (e : EntryNo) : Station :=
  match s.flc.retiring.lookup e with
  | some old => old
  | none => s.station e

/-- The owner of a station's kind is told LINK_LOST (R136). -/
def linkLostEvents (st : Station) : List Instr :=
  match st.kind with
  | .well => [.wccLinkLost st.channel]
  | .turbine => [.tbcLinkLost]
  | .exchanger => [.hxcLinkLost]
  | .none => []
  | .brine => []
  | .analyser => []
  | .weather => []

/-- A delivery of erasures for a station's quantities (R20). -/
def erasures (st : Station) : Delivery :=
  ⟨st.kind, st.channel, (stationQtys st.kind st.channel).map fun q => (q, .erasure), none⟩

/-! ## The queues (R140, R141) -/

/-- The SET queue with a demand placed for an entry: it joins the tail, or replaces the pending
demand. -/
def placeSet (e : EntryNo) (o : SetOrder) : List SetEntry → List SetEntry
  | [] => [⟨e, o, false, false⟩]
  | x :: l => if x.entry = e then { x with order := o, replaced := x.inFlight } :: l else x :: placeSet e o l

/-- A SET placed for an entry: the demand also becomes the station's last demand (R140). -/
def State.placeSetAt (s : State) (e : EntryNo) (o : SetOrder) : State :=
  let t := s.setStation e fun r => { r with lastDemand := some o }
  { t with flc := { t.flc with setQ := placeSet e o t.flc.setQ } }

/-- The TRIP queue with a TRIP placed for an entry: it joins the tail with a count of 0, or the entry's
count becomes 0. -/
def placeTrip (e : EntryNo) : List TripEntry → List TripEntry
  | [] => [⟨e, 0⟩]
  | x :: l => if x.entry = e then { x with sends := 0 } :: l else x :: placeTrip e l

/-- A SET is eligible when its station is not LOST (R139). -/
def State.setEligible (s : State) (x : SetEntry) : Bool := decide (s.linkStatus x.entry ≠ .lost)

/-- A TRIP is eligible when its station is not LOST and its count is below 4 (R141). -/
def State.tripEligible (s : State) (x : TripEntry) : Bool :=
  decide (s.linkStatus x.entry ≠ .lost ∧ x.sends < 4)

/-! ## The arbiter (R139, R142) -/

/-- An exchange starts: the frame goes out, addressed to the station's ADDRESS. -/
def State.startExchange (s : State) (x : Exchange) (e : EntryNo) (body : List Byte) : State :=
  let f : Flight :=
    { exchange := x, entry := e, station := s.station e, timeout := s.entrySet e .replyTimeout
      frame := fieldFrame (s.station e).address (exchangeKind x) body }
  { s with flc := { s.flc with flight := some f } }

/-- A TRIP exchange starts: its count is incremented (R141). -/
def State.startTrip (s : State) (e : EntryNo) : State :=
  let t := { s with flc := { s.flc with
    tripQ := s.flc.tripQ.map fun (x : TripEntry) => if x.entry = e then { x with sends := x.sends + 1 } else x } }
  t.startExchange .trip e []

/-- A SET exchange starts: the entry is marked in flight, the exchanges started are incremented and the
burst count becomes 0 (R139, R140). -/
def State.startSet (s : State) (x : SetEntry) : State :=
  let t := { s with flc := { s.flc with
    setQ := s.flc.setQ.map fun (y : SetEntry) =>
      if y.entry = x.entry then { y with inFlight := true, replaced := false } else y
    started := s.flc.started + 1, burst := 0 } }
  t.startExchange .set x.entry (setBody x.order)

/-- A poll of the list starts: it leaves the list, and both counts are incremented (R139). -/
def State.startPoll (s : State) (e : EntryNo) (rest : List EntryNo) : State :=
  let t := { s with flc := { s.flc with
    pollList := rest, started := s.flc.started + 1, burst := s.flc.burst + 1 } }
  t.startExchange .poll e []

/-- The oldest eligible TRIP. -/
def State.nextTrip (s : State) : Option TripEntry := s.flc.tripQ.find? s.tripEligible

/-- The oldest eligible SET. -/
def State.nextSet (s : State) : Option SetEntry := s.flc.setQ.find? s.setEligible

/-- Lines 3 to 5 of the arbiter's table, within the budget. -/
def State.choosePoll (s : State) : State :=
  match s.flc.pollList with
  | e :: rest => s.startPoll e rest
  | [] =>
    match s.nextSet with
    | some x => s.startSet x
    | none => s

/-- Lines 2 to 5 of the arbiter's table (R139). -/
def State.chooseWithin (s : State) : State :=
  if (s.flc.started : Int) < s.fieldSet .slotBudget then
    match s.nextSet with
    | some x =>
      if s.fieldSet .pollBurst ≤ (s.flc.burst : Int) then s.startSet x else s.choosePoll
    | none => s.choosePoll
  else s

/-- The arbiter chooses when the line is free (R139). -/
def State.arbitrate (s : State) : State :=
  if s.flc.flight.isSome then s
  else match s.nextTrip with
    | some x => s.startTrip x.entry
    | none => s.chooseWithin

/-- SET_PLACED (R140): a SET placed for a station not in the table is discarded. -/
def execSetPlaced (o : SetOrder) (s : State) : Result :=
  .next (let t := s.took (.setPlaced o)
    match t.entryOfOrder o with
    | some e => (t.placeSetAt e o).arbitrate
    | none => t)

/-- TRIP_PLACED (R141): a TRIP placed for a station not in the table is discarded. -/
def execTripPlaced (st : TripStation) (s : State) : Result :=
  .next (let t := s.took (.tripPlaced st)
    match t.entryOfTrip st with
    | some e => { t with flc := { t.flc with tripQ := placeTrip e t.flc.tripQ } }.arbitrate
    | none => t)

/-! ## Retirement (R137) -/

/-- An old station retired (R137). -/
def State.retire (s : State) (e : EntryNo) (old : Station) : State :=
  let lost := decide (s.linkStatus e = .lost)
  let t := s.setStation e fun _ => newStation
  { t with flc := { t.flc with
      setQ := t.flc.setQ.filter fun x => decide (x.entry ≠ e)
      tripQ := t.flc.tripQ.filter fun x => decide (x.entry ≠ e)
      pollList := t.flc.pollList.filter fun x => decide (x ≠ e) } }.hand
    ([Instr.qtbStationLost old.kind old.channel] ++ linkLostEvents old
      ++ (if lost then [Instr.alarmClear .stationLost (.station old.address)] else []))

/-- An exchange with the entry is in flight. -/
def State.inFlightWith (s : State) (e : EntryNo) : Bool :=
  match s.flc.flight with
  | some f => decide (f.entry = e)
  | none => false

/-- A retirement comes: it waits for the outcome of an exchange in flight with the entry, and is taken at once
otherwise (R137). -/
def State.retireStation (s : State) (e : EntryNo) (old : Station) : State :=
  if s.inFlightWith e then { s with flc := { s.flc with retiring := s.flc.retiring ++ [(e, old)] } }
  else s.retire e old

/-- STATION_RETIRE (R137). -/
def execStationRetire (e : EntryNo) (old : Station) (s : State) : Result :=
  .next ((s.took (.stationRetire e old)).retireStation e old)

/-- Old stations retired one after another, in the order of the changes that brought the retirements (R137). -/
def State.retireAll (s : State) (l : List (EntryNo × Station)) : State :=
  l.foldl (fun s x => s.retire x.1 x.2) s

/-- The retirements that waited for the exchange with the entry are taken (R137). -/
def State.retireWaiting (s : State) (e : EntryNo) : State :=
  { s with flc := { s.flc with
      retiring := s.flc.retiring.filter fun x => decide (x.1 ≠ e) } }.retireAll
    (s.flc.retiring.filter fun x => decide (x.1 = e))

/-! ## Outcomes (R142 to R144) -/

/-- The value an outcome's STATION_LOST carries (R143). -/
def outcomeCode : Outcome → Int
  | .noReply => 1 | .badCheck => 2 | .wrongAddr => 3 | .badForm => 4 | .good => 0

/-- The delivery of a GOOD poll (R144). -/
def pollDelivery (st : Station) (l : List (Int × Quality)) (extra : Byte) : Delivery :=
  ⟨st.kind, st.channel,
    ((stationQtys st.kind st.channel).zip l).map fun x => (x.1, .value x.2.1 x.2.2),
    if st.kind = .analyser then some extra else none⟩

/-- A value entry of a reply. -/
def entryOf (l : List (Int × Quality)) (k : Nat) : Int × Quality := l.getD k (0, .fault)

/-- The status event of a GOOD poll (R86, R103, R144). -/
def statusEvents (st : Station) (l : List (Int × Quality)) (extra : Byte) : List Instr :=
  match st.kind with
  | .well =>
    [.wccStatusEvent ⟨st.channel, extra.getLsbD 0, extra.getLsbD 1, (entryOf l 0).1, (entryOf l 0).2⟩]
  | .turbine =>
    [.tbcStatusEvent ⟨extra.getLsbD 0, (entryOf l 0).1, (entryOf l 0).2, (entryOf l 3).1,
      (entryOf l 3).2⟩]
  | .none => []
  | .exchanger => []
  | .brine => []
  | .analyser => []
  | .weather => []

/-- A pending SET after a GOOD SET exchange: it leaves the queue unless it was replaced meanwhile
(R140). -/
def settleSet (e : EntryNo) (l : List SetEntry) : List SetEntry :=
  (l.filter fun x => decide (x.entry ≠ e) || x.replaced).map fun x =>
    if x.entry = e then { x with inFlight := false, replaced := false } else x

/-- A pending SET after a failed SET exchange (R140). -/
def unsettleSet (e : EntryNo) (l : List SetEntry) : List SetEntry :=
  l.map fun x => if x.entry = e then { x with inFlight := false, replaced := false } else x

/-- The queues after a GOOD outcome: a held TRIP of the station is re-armed, then the exchange's own entry
is settled (R140, R141). -/
def State.goodQueues (s : State) (f : Flight) : State :=
  let rearmed := s.flc.tripQ.map fun x =>
    if x.entry = f.entry ∧ s.tripEligible x = false then { x with sends := 0 } else x
  let t := { s with flc := { s.flc with tripQ := rearmed } }
  match f.exchange with
  | .poll => t
  | .set => { t with flc := { t.flc with setQ := settleSet f.entry t.flc.setQ } }
  | .trip =>
    { t with flc := { t.flc with tripQ := t.flc.tripQ.filter fun x => decide (x.entry ≠ f.entry) } }

/-- A GOOD outcome with the value entries and extra byte of a poll (R144). -/
def State.exchangeGood (s : State) (f : Flight) (l : List (Int × Quality)) (extra : Byte) : State :=
  let lost := decide (s.linkStatus f.entry = .lost)
  ((s.goodQueues f).setStation f.entry fun r => { r with failRun := 0, status := .online }).hand
    ((if lost then [Instr.alarmClear .stationLost (.station f.station.address)] else [])
      ++ (if f.exchange = .poll then
        [Instr.qtbDelivery (pollDelivery f.station l extra)] ++ statusEvents f.station l extra
      else []))

/-- The station declared LOST (R143). -/
def State.declareLost (s : State) (f : Flight) (o : Outcome) : State :=
  (s.setStation f.entry fun r => { r with status := .lost }).hand
    ([Instr.qtbStationLost f.station.kind f.station.channel,
      Instr.alarmChange .stationLost (.station f.station.address) (.raise .alarm (outcomeCode o))]
      ++ linkLostEvents f.station)

/-- An outcome other than GOOD (R143). -/
def State.exchangeFailed (s : State) (f : Flight) (o : Outcome) : State :=
  let t := s.setStation f.entry fun r => { r with failRun := run15 r.failRun }
  let t := match f.exchange with
    | .poll => t.hand [.qtbDelivery (erasures f.station)]
    | .set => { t with flc := { t.flc with setQ := unsettleSet f.entry t.flc.setQ } }
    | .trip => t
  if reaches (t.flc.stations.get f.entry).failRun (s.entrySet f.entry .failLimit)
      ∧ s.linkStatus f.entry ≠ .lost then t.declareLost f o
  else t

/-- An exchange ends in an outcome: it is counted, taken, a waiting retirement follows, and the arbiter
chooses again (R137, R139, R142 to R144). -/
def State.endExchange (s : State) (f : Flight) (o : Outcome) (l : List (Int × Quality))
    (extra : Byte) : State :=
  let t := { s with flc := { s.flc with flight := none } }.hand
    [.counterIncrement [.exchanges f.entry, .outcomes f.entry o]]
  let t := if o = .good then t.exchangeGood f l extra else t.exchangeFailed f o
  (t.retireWaiting f.entry).arbitrate

/-- FIELD_REPLY_RECEIVED (R142): the first complete frame ends the wait; bytes with no exchange in flight
or no complete frame change nothing. -/
def execFieldReplyReceived (bytes : List Byte) (s : State) : Result :=
  .next (match s.flc.flight, completeFrame bytes with
    | some f, some r =>
      let j := judge f.exchange f.station r
      s.endExchange f j.1 j.2 (r.body.getD (5 * entryCount f.station.kind) 0)
    | _, _ => s)

/-- REPLY_TIMEOUT (R142). -/
def execReplyTimeout (s : State) : Result :=
  .next (match s.flc.flight with
    | some f => s.endExchange f .noReply [] 0
    | none => s)

/-! ## The slot timer (R138) -/

/-- The entry is due at a scan position. -/
def State.dueAt (s : State) (pos : Nat) (e : EntryNo) : Bool :=
  decide ((s.station e).kind ≠ .none) && (s.entrySet e .pollMask).toNat.testBit pos

/-- The poll list of a scan position, in ascending address order (R138). -/
def State.pollsFor (s : State) (pos : Nat) : List EntryNo :=
  (entryNos.filter (s.dueAt pos)).insertionSort fun a b =>
    (s.station a).address ≤ (s.station b).address

/-- A skipped poll: an erasure delivery, then two events at ALT (R138, R171). -/
def State.skipEvents (s : State) (e : EntryNo) : List Instr :=
  [.qtbDelivery (erasures (s.stationOf e)), .counterIncrement [.deferredPolls e],
   .counterIncrement [.scanOverruns]]

/-- The next slot: position advanced, counts 0, new poll list (R138). -/
def State.nextSlot (s : State) : State :=
  let pos := (s.flc.position + 1) % (s.fieldSet .patternLength).toNat
  { s with flc := { s.flc with
      position := pos, started := 0, burst := 0, pollList := s.pollsFor pos } }

/-- SLOT_EXPIRY (R138, R139). -/
def execSlotExpiry (s : State) : Result :=
  .next ((s.hand (s.flc.pollList.flatMap s.skipEvents)).nextSlot).arbitrate

/-! ## READ_FIELD (R145) -/

/-- An entry as READ_FIELD gives it (the model's mark of a replaced demand with it: log 27). -/
def State.entryView (s : State) (e : EntryNo) : Content :=
  .fieldEntry (s.station e).kind (s.entrySet e .address) (s.entrySet e .channel)
    (s.entrySet e .pollMask) (s.entrySet e .replyTimeout) (s.entrySet e .failLimit)
    (s.flc.stations.get e) (s.flc.setQ.find? fun x => decide (x.entry = e))
    (s.flc.tripQ.find? fun x => decide (x.entry = e))

/-- The link overview READ_FIELD ALL gives. -/
def State.fieldOverview (s : State) : Content :=
  .fieldAll s.flc.position s.flc.started s.flc.burst s.flc.pollList.length s.flc.setQ.length
    s.flc.tripQ (entryNos.map fun e => ((s.station e).kind, s.entrySet e .address, s.linkStatus e))

/-- READ_FIELD's answer (R145). -/
def State.readField (a : FieldArg) (s : State) : Answer :=
  match a with
  | .all => s.says .ok s.fieldOverview
  | .entry k =>
    match indexArg 24 k with
    | some e => s.says .ok (s.entryView e)
    | none => s.says .badValue

/-- READ_FIELD (R145). -/
def execReadField (a : FieldArg) (s : State) : Result := .next (s.serve 0x48 (State.readField a))

end Sys2Proof.Machine
end

