-- ==== Sys2Proof/Machine/Scaling.lean ====
section
/-! DEFINITION. The Scaling Monitor (chapter 3): scaling points, the brine floor, calcite and fouling watch,
the trend log. -/

namespace Sys2Proof.Machine

/-! ## Scaling points (R30 to R34) -/

/-- The temperature quantity of a point (section 3.1). -/
def pointQty (p : PointNo) : QtyNo :=
  if p = 0 then qHxOutT else if p = 1 then qReinjT else if p = 2 then qSepBrineT else qMixT

/-- The saturation index of a concentration at a solubility (R31). -/
def siOf (c sol : Int) : Int := min ((c * 1000 + sol / 2) / sol) 9999

/-- The runs after a computation of `si` (R32). -/
def Point.withRuns (l3 watch hyst si : Int) (p : Point) : Point :=
  { p with
    alarmRun := if l3 < si then run15 p.alarmRun else 0
    watchRun := if watch < si then run15 p.watchRun else 0
    fallRun := if (p.state = .alarm ∧ si ≤ l3 - hyst) ∨ (p.state = .watch ∧ si ≤ watch - hyst)
      then run15 p.fallRun else 0 }

/-- The state decided from the runs (R33). -/
def Point.decided (persist : Int) (p : Point) : PointState :=
  if (p.state = .clear ∨ p.state = .watch) ∧ reaches p.alarmRun persist then .alarm
  else if p.state = .clear ∧ reaches p.watchRun persist then .watch
  else if p.state = .alarm ∧ reaches p.fallRun persist then .watch
  else if p.state = .watch ∧ reaches p.fallRun persist then .clear
  else p.state

/-- The alarm change of a point's change of state, carrying the SI (R33). -/
def pointAlarm (p : PointNo) (si : Int) (old new : PointState) : List Instr :=
  match old, new with
  | .clear, .alarm => [.alarmChange .silicaSi (.point p) (.raise .alarm si)]
  | .watch, .alarm => [.alarmChange .silicaSi (.point p) (.escalate .alarm si)]
  | .clear, .watch => [.alarmChange .silicaSi (.point p) (.raise .watch si)]
  | .alarm, .watch => [.alarmChange .silicaSi (.point p) (.deescalate .watch)]
  | .watch, .clear => [.alarmClear .silicaSi (.point p)]
  | _, _ => []

/-- A change of SP0's state handed to HXC (R33). -/
def sp0Event (p : PointNo) (old new : PointState) : List Instr :=
  if p = 0 ∧ old ≠ new then [.hxcSp0Change old new] else []

/-- An SI added to the interval figures (R47). -/
def Interval.add (si : Int) (f : Interval) : Interval :=
  { f with
    min := if f.count = 0 then si else Min.min f.min si
    max := if f.count = 0 then si else Max.max f.max si
    sum := f.sum + si
    count := f.count + 1 }

/-- A point record after a computation at temperature `temp` and concentration `c`, without its change
of state. -/
def State.pointComputed (s : State) (p : PointNo) (c temp : Int) : Point :=
  let r := s.scm.points.get p
  let f := forward .silica (s.tbl .silica) temp
  let si := siOf c f.1
  { r.withRuns (s.limit 3) (s.scaleSet .siWatch) (s.scaleSet .siHyst) si with
    si := some si
    temp := some temp
    solubility := some f.1
    clamp := f.2
    figures := r.figures.add si }

/-- A point's computation (R31 to R33). -/
def State.computePoint (s : State) (p : PointNo) (c temp : Int) : State :=
  let r := s.pointComputed p c temp
  let new := r.decided (s.scaleSet .siPersist)
  let r' := { r with state := new, fallRun := if new = r.state then r.fallRun else 0 }
  { s with scm := { s.scm with points := s.scm.points.set p r' } }.hand
    (pointAlarm p (r.si.getD 0) r.state new ++ sp0Event p r.state new)

/-- A point as an update reaches it (R31). -/
def pointUpdate (u : Update) (s : State) (p : PointNo) : State :=
  if u.listsValue (pointQty p) || u.listsValue qSilica then
    match u.valid s (pointQty p), u.valid s qSilica with
    | some temp, some c => s.computePoint p c temp
    | _, _ => s
  else s

/-- STALE_SEEN set by an update that lists SILICA or the point's temperature into STALE (R47). -/
def staleSeenUpdate (u : Update) (s : State) : State :=
  { s with scm := { s.scm with
      points := s.scm.points.mapIdx fun p r =>
        if u.intoStale (pointQty p) || u.intoStale qSilica then
          { r with figures := { r.figures with staleSeen := true } }
        else r } }

/-! ## The brine floor (R35 to R39) -/

/-- SILICA_STALE cleared and handed to HXC, when it stands (R36). -/
def staleClearEvents (f : Floor) : List Instr :=
  if f.silicaStale then [.alarmClear .silicaStale .floor, .hxcSilicaStale false] else []

/-- SILICA_FLOOR_UNREACHABLE raised or cleared by the new flag; it stands while the flag recorded is
UNREACHABLE (R36). -/
def unreachableEvents (old new : FloorFlag) (target : Int) : List Instr :=
  if new = .unreachable then
    [.alarmChange .silicaFloorUnreachable .floor (.raise .alarm target)]
  else if old = .unreachable then [.alarmClear .silicaFloorUnreachable .floor]
  else []

/-- The floor record after a new SILICA value `c` (R36). -/
def State.freshFloor (s : State) (c : Int) : Floor :=
  let r := inverse (s.tbl .silica) c (s.limit 4)
  { state := .fresh, last := some r.2.1, target := some r.1, flag := r.2.2, inUse := r.2.1
    clock := none, silicaStale := false }

/-- The floor as an update with a new SILICA value reaches it (R36). -/
def floorUpdate (u : Update) (s : State) : State :=
  match u.newValue qSilica with
  | none => s
  | some c =>
    let f := s.freshFloor c
    { s with scm := { s.scm with floor := f } }.hand
      (staleClearEvents s.scm.floor
        ++ unreachableEvents s.scm.floor.flag f.flag (f.target.getD 0))

/-- The floor record when SILICA moves into STALE (R37). -/
def Floor.held (offset : Int) (f : Floor) : Floor :=
  match f.state with
  | .fresh => { f with state := .staleHeld, inUse := f.last.getD f.inUse + offset, clock := some 0 }
  | .staleHeld => f
  | .none => { f with clock := some (f.clock.getD 0) }

/-- The floor as an update that lists SILICA into STALE reaches it (R37). -/
def holdUpdate (u : Update) (s : State) : State :=
  if u.intoStale qSilica then
    { s with scm := { s.scm with floor := s.scm.floor.held (s.scaleSet .staleOffset) } }
  else s

/-- The seconds at which the stale clock raises SILICA_STALE (R38). -/
def State.staleLimit (s : State) : Nat := seconds (s.limit 6 * 60)

/-- SILICA_STALE raised, carrying the clock in whole minutes, and handed to HXC (R38). -/
def State.raiseStale (s : State) (clock : Nat) : State :=
  { s with scm := { s.scm with floor := { s.scm.floor with silicaStale := true } } }.hand
    [.alarmChange .silicaStale .floor (.raise .alarm ((clock / 60 : Nat) : Int)),
     .hxcSilicaStale true]

/-- SILICA_STALE raised when the running clock has reached L6 minutes and it does not stand (R38). -/
def State.testStale (s : State) : State :=
  match s.scm.floor.clock with
  | none => s
  | some n =>
    if !s.scm.floor.silicaStale && decide (s.staleLimit ≤ n) then s.raiseStale n else s

/-- The stale clock set. -/
def State.setClock (s : State) (n : Nat) : State :=
  { s with scm := { s.scm with floor := { s.scm.floor with clock := some n } } }

/-- STALE_CLOCK_SECOND (R38): the running clock advances, saturating, and L6 is read. -/
def execStaleClockSecond (s : State) : Result :=
  .next (match s.scm.floor.clock with
    | none => s
    | some n => (s.setClock (min (n + 1) 4294967295)).testStale)

/-- STALE_CLOCK_EXPIRY (R38): the time has come at which the running clock reaches L6 minutes
(log 4). -/
def execStaleClockExpiry (s : State) : Result :=
  .next (match s.scm.floor.clock with
    | none => s
    | some n =>
      if s.scm.floor.silicaStale then s else (s.setClock (max n s.staleLimit)).testStale)

/-! ## Calcite watch (R40 to R43) -/

/-- A calcite record replaced. -/
def State.setCalcite (s : State) (c : WellNo) (r : Calcite) : State :=
  { s with scm := { s.scm with calcite := s.scm.calcite.set c r } }

/-- The severity CALCITE_RISK has at a hold (R42). -/
def calciteSeverity (hold : Bool) : Severity := if hold then .alarm else .watch

/-- The calcite state that goes with a hold while CALCITE_RISK is raised. -/
def calciteState (hold : Bool) : WatchState := if hold then .alarm else .watch

/-- FLASH_HOLD after a computed margin (R41). -/
def holdAfter (watch m : Int) (hold : Bool) : Bool :=
  if hold then decide (m < watch + 50) else decide (m < watch)

/-- The value an escalation of CALCITE_RISK carries: INHIB_FEED, −1 when it is STALE, and otherwise a
free value (R42, log 14). -/
def State.feedValue (u : Update) (s : State) (c : WellNo) : Int :=
  match u.valid s (qInhibFeed c) with
  | some v => v
  | none =>
    if u.stateOf s (qInhibFeed c) = .stale then -1 else Config.calciteEscalationValue s.free

/-- CALCITE_RISK moves its severity with FLASH_HOLD while it is raised (R42). -/
def moveCalcite (u : Update) (s : State) (c : WellNo) (hold : Bool) : State :=
  let r := s.scm.calcite.get c
  if r.state = .none then s
  else if hold then
    ((s.setCalcite c { r with state := .alarm }).hand
      [.alarmChange .calciteRisk (.well c) (.escalate .alarm (s.feedValue u c))]).useFree
  else
    (s.setCalcite c { r with state := .watch }).hand
      [.alarmChange .calciteRisk (.well c) (.deescalate .watch)]

/-- A computed margin acts on FLASH_HOLD (R41). -/
def holdUpdateWell (u : Update) (s : State) (c : WellNo) (m : Int) : State :=
  let r := s.scm.calcite.get c
  let hold := holdAfter (s.scaleSet .flashWatch) m r.hold
  if hold = r.hold then s
  else
    let t := (s.setCalcite c { r with hold := hold }).hand
      ((if hold then [Instr.alarmChange .flashWatch (.well c) (.raise .watch m)]
        else [Instr.alarmClear .flashWatch (.well c)])
        ++ [.bbuFlashHold c hold, .wccFlashHold c hold])
    moveCalcite u t c hold

/-- The flash margin of a production well at an update (R40). -/
def marginUpdate (u : Update) (s : State) (c : WellNo) : State :=
  let r := s.scm.calcite.get c
  if u.outOfValid (qIntakeP c) || u.outOfValid (qWhTemp c) then
    let t := s.setCalcite c { r with margin := none, clamp := .none }
    if r.margin.isSome then t.hand [.wccFlashMargin c none] else t
  else if u.listsValue (qIntakeP c) || u.listsValue (qWhTemp c) then
    match u.valid s (qIntakeP c), u.valid s (qWhTemp c) with
    | some p, some temp =>
      let f := forward .psat (s.tbl .psat) temp
      let t := (s.setCalcite c { r with margin := some (p - f.1), clamp := f.2 }).hand
        [.wccFlashMargin c (some (p - f.1))]
      holdUpdateWell u t c (p - f.1)
    | _, _ => s
  else s

/-- An update lists any quantity of a well (R42). -/
def listsWell (u : Update) (c : WellNo) : Bool := (stationQtys .well c).any u.lists

/-- The feed is short: STALE, or VALID and below INHIB_MIN; none while UNPRIMED or PRIMING (R42). -/
def feedShort (u : Update) (s : State) (c : WellNo) : Option (Bool × Int) :=
  match u.valid s (qInhibFeed c) with
  | some v => some (decide (v < s.wellSet c .inhibMin), v)
  | none => if u.stateOf s (qInhibFeed c) = .stale then some (true, -1) else none

/-- A short evaluation, carrying `v`; with CALCITE_RISK already raised it changes nothing (R42, log 29). -/
def feedIsShort (s : State) (c : WellNo) (v : Int) : State :=
  let r := s.scm.calcite.get c
  let run := run15 r.feedRun
  if r.state ≠ .none then s
  else if reaches run (s.scaleSet .calcitePersist) then
    (s.setCalcite c { r with feedRun := run, state := calciteState r.hold }).hand
      [.alarmChange .calciteRisk (.well c) (.raise (calciteSeverity r.hold) v)]
  else s.setCalcite c { r with feedRun := run }

/-- The feed run set to 0 and CALCITE_RISK cleared when it is raised (R42). -/
def feedIsGood (s : State) (c : WellNo) : State :=
  let r := s.scm.calcite.get c
  (s.setCalcite c { r with feedRun := 0, state := .none }).hand
    (if r.state = .none then [] else [.alarmClear .calciteRisk (.well c)])

/-- The inhibitor feed evaluated at an update (R42). CALCITE_RISK is raised at a short evaluation alone, so a
lowered CALCITE_PERSIST that a standing feed run already meets acts at the next short one (log 35). -/
def feedUpdate (u : Update) (s : State) (c : WellNo) : State :=
  if listsWell u c && (s.scm.calcite.get c).running then
    match feedShort u s c with
    | some (true, v) => feedIsShort s c v
    | some (false, _) => feedIsGood s c
    | none => s
  else s

/-- SCM_WELL_STATE (R42): the channel as WCC reports it; on leaving RUNNING the feed run and
CALCITE_RISK are cleared. -/
def State.scmWellState (s : State) (c : WellNo) (old new : WellState) : State :=
  let s := s.setCalcite c { s.scm.calcite.get c with running := decide (new = .running) }
  if old = .running ∧ new ≠ .running then feedIsGood s c else s

def execScmWellState (c : WellNo) (move : WellState × WellState) (cause : Option WellCause)
    (s : State) : Result :=
  .next ((s.took (.scmWellState c move cause)).scmWellState c move.1 move.2)

/-- A channel's records reset at a role other than PRODUCTION (R43). -/
def State.resetWellWatch (s : State) (c : WellNo) : State :=
  let r := s.scm.calcite.get c
  let f := s.scm.fouling.get c
  { s with scm := { s.scm with
      calcite := s.scm.calcite.set c
        { r with margin := none, clamp := .none, hold := false, feedRun := 0, state := .none }
      fouling := s.scm.fouling.set c { f with rise := none, state := .none } } }.hand
    ((if r.margin.isSome then [Instr.wccFlashMargin c none] else [])
      ++ (if r.hold then
        [Instr.bbuFlashHold c false, .wccFlashHold c false, .alarmClear .flashWatch (.well c)] else [])
      ++ (if r.state = WatchState.none then [] else [Instr.alarmClear .calciteRisk (.well c)])
      ++ (if f.state = WatchState.none then [] else [Instr.alarmClear .pumpFouling (.well c)]))

/-- SCM_ROLE_CHANGE (R43). -/
def execScmRoleChange (c : WellNo) (role : Role) (s : State) : Result :=
  .next (let t := s.took (.scmRoleChange c role)
    if role = .production then t else t.resetWellWatch c)

/-! ## Fouling (R44 to R46) -/

/-- A flow is in band (R44). -/
def inBand (band rated flow : Int) : Bool := decide (|flow - rated| * 1000 ≤ band * rated)

/-- The rise of a pressure drop over a baseline (R45). -/
def riseOf (dp baseline : Int) : Int := (dp * 1000 + baseline / 2) / baseline

/-- The fouling state a rise gives (R45). The rows stand in the table's order also where FOUL_WATCH − FOUL_HYST is
above FOUL_ALARM: there ALARM is left for NONE at a rise that still reaches FOUL_ALARM (DESIGN CHOICE, log 43). -/
def foulingAfter (watch alarm hyst rise : Int) (old : WatchState) : WatchState :=
  match old with
  | .none => if alarm ≤ rise then .alarm else if watch ≤ rise then .watch else .none
  | .watch => if alarm ≤ rise then .alarm else if rise < watch - hyst then .none else .watch
  | .alarm =>
    if rise < alarm - hyst ∧ watch - hyst ≤ rise then .watch
    else if rise < watch - hyst then .none else .alarm

/-- The alarm change of a change of fouling state, carrying the rise (R45). -/
def foulingAlarm (code : AlarmCode) (src : Source) (rise : Int) (old new : WatchState) :
    List Instr :=
  match old, new with
  | .none, .alarm => [.alarmChange code src (.raise .alarm rise)]
  | .none, .watch => [.alarmChange code src (.raise .watch rise)]
  | .watch, .alarm => [.alarmChange code src (.escalate .alarm rise)]
  | .watch, .none => [.alarmClear code src]
  | .alarm, .watch => [.alarmChange code src (.deescalate .watch)]
  | .alarm, .none => [.alarmClear code src]
  | _, _ => []

/-- A comparison of a fouling record at an update: the record after it and the alarm changes. -/
def State.compareFouling (s : State) (u : Update) (flowQ dpQ : QtyNo) (rated : Int)
    (code : AlarmCode) (src : Source) (r : Fouling) : Fouling × List Instr :=
  if u.listsValue flowQ || u.listsValue dpQ then
    match u.valid s flowQ, u.valid s dpQ, r.baseline with
    | some flow, some dp, some base =>
      if inBand (s.scaleSet .foulBand) rated flow then
        let rise := riseOf dp base
        let new := foulingAfter (s.scaleSet .foulWatch) (s.scaleSet .foulAlarm)
          (s.scaleSet .foulHyst) rise r.state
        ({ r with rise := some rise, state := new }, foulingAlarm code src rise r.state new)
      else (r, [])
    | _, _, _ => (r, [])
  else (r, [])

/-- The pump fouling of a production well at an update (R44, R45). -/
def pumpUpdate (u : Update) (s : State) (c : WellNo) : State :=
  let x := s.compareFouling u (qFlow c) (qPumpDp c) (s.wellSet c .ratedFlow) .pumpFouling (.well c)
    (s.scm.fouling.get c)
  { s with scm := { s.scm with fouling := s.scm.fouling.set c x.1 } }.hand x.2

/-- The exchanger's fouling at an update (R44, R45). -/
def hxFoulingUpdate (u : Update) (s : State) : State :=
  let x := s.compareFouling u qHxBrineFlow qHxDp (s.hxSet .ratedBrineFlow) .hxFouling .exchanger
    s.scm.hxFouling
  { s with scm := { s.scm with hxFouling := x.1 } }.hand x.2

/-- What CAPTURE_BASELINE reads of a target: its flow, its pressure drop and its rated flow. -/
def State.baselineNow (s : State) (flowQ dpQ : QtyNo) (rated : Int) : Option Int :=
  match s.validNow flowQ, s.validNow dpQ with
  | some flow, some dp =>
    if inBand (s.scaleSet .foulBand) rated flow ∧ dp ≠ 0 then some dp else none
  | _, _ => none

/-- CAPTURE_BASELINE of a well (R46). -/
def State.captureWell (s : State) (c : WellNo) : Answer :=
  if s.role c ≠ .production then s.says .badValue
  else if s.storeBusy then s.says .busy
  else if s.groupLocked (.well c) then s.says .refusedLocked
  else match s.baselineNow (qFlow c) (qPumpDp c) (s.wellSet c .ratedFlow) with
    | none => s.says .refusedState
    | some dp =>
      ({ s with scm := { s.scm with fouling := s.scm.fouling.set c ⟨some dp, some 1000, .none⟩ } }.hand
        (if (s.scm.fouling.get c).state = WatchState.none then [] else [.alarmClear .pumpFouling (.well c)]),
        .ok, .none)

/-- CAPTURE_BASELINE of the exchanger (R46). -/
def State.captureHx (s : State) : Answer :=
  if s.storeBusy then s.says .busy
  else if s.groupLocked .exchanger then s.says .refusedLocked
  else match s.baselineNow qHxBrineFlow qHxDp (s.hxSet .ratedBrineFlow) with
    | none => s.says .refusedState
    | some dp =>
      ({ s with scm := { s.scm with hxFouling := ⟨some dp, some 1000, .none⟩ } }.hand
        (if s.scm.hxFouling.state = WatchState.none then [] else [.alarmClear .hxFouling .exchanger]),
        .ok, .none)

/-- CAPTURE_BASELINE's answer (R46). -/
def State.capture (t : FoulTarget) (s : State) : Answer :=
  match t with
  | .other => s.says .badValue
  | .exchanger => s.captureHx
  | .well k =>
    match indexArg 16 k with
    | none => s.says .badValue
    | some c => s.captureWell c

/-- CAPTURE_BASELINE (R46). -/
def execCaptureBaseline (t : FoulTarget) (s : State) : Result :=
  .next (s.serve 0x22 (State.capture t))

/-! ## SCM_UPDATE -/

/-- A production well at an update: flash margin, feed, fouling. -/
def wellUpdate (u : Update) (s : State) (c : WellNo) : State :=
  if s.role c = .production then pumpUpdate u (feedUpdate u (marginUpdate u s c) c) c else s

/-- SCM takes an update: the floor first, then the points in order, then the wells and the exchanger
(R31, R36, R37, R40 to R45, R47). -/
def State.scmUpdate (s : State) (u : Update) : State :=
  let s := holdUpdate u (floorUpdate u s)
  let s := staleSeenUpdate u (pointNos.foldl (pointUpdate u) s)
  hxFoulingUpdate u (wells.foldl (wellUpdate u) s)

/-- SCM_UPDATE. -/
def execScmUpdate (u : Update) (s : State) : Result := .next ((s.took (.scmUpdate u)).scmUpdate u)

/-! ## The trend log (R47 to R49) -/

/-- The mean of an interval: the sum over the count, rounded half up (R47). -/
def meanOf (f : Interval) : Int := (2 * f.sum + (f.count : Int)) / (2 * (f.count : Int))

/-- A record joins the log with the next sequence number; the newest 256 are kept (R48). -/
def Scm.append (m : Scm) (p : PointNo) : Scm :=
  let r := m.points.get p
  if r.figures.count = 0 then m
  else
    let t : Trend :=
      { seq := m.nextSeq, interval := m.interval, point := p, state := r.state
        staleSeen := r.figures.staleSeen, min := r.figures.min, max := r.figures.max
        mean := meanOf r.figures, count := r.figures.count, floorInUse := m.floor.inUse }
    let l := m.trend ++ [t]
    { m with trend := l.drop (l.length - Config.trendCapacity), nextSeq := m.nextSeq + 1 }

/-- STALE_SEEN at the start of an interval (R47). -/
def State.staleNow (s : State) (p : PointNo) : Bool :=
  decide ((s.qtb.get qSilica).state = .stale ∨ (s.qtb.get (pointQty p)).state = .stale)

/-- The next interval starts (R47). -/
def State.nextInterval (s : State) : State :=
  { s with scm := { s.scm with
      interval := s.scm.interval + 1
      trendLeft := seconds (s.scaleSet .trendInterval * 60)
      points := s.scm.points.mapIdx fun p r => { r with figures := newFigures (s.staleNow p) } } }

/-- TREND_INTERVAL_EXPIRY (R47, R48). -/
def execTrendIntervalExpiry (s : State) : Result :=
  .next { s with scm := pointNos.foldl Scm.append s.scm }.nextInterval

/-- Up to `n` records from the record at `start`, wrapping once (R49). -/
def trendFrom (l : List Trend) (start n : Nat) : List Trend := (l.rotateLeft start).take n

/-- READ_TREND's answer (R49). -/
def State.readTrend (first : U32) (count : Nat) (s : State) : Answer :=
  let k := s.scm.trend.length
  let newest := s.scm.nextSeq - 1
  let d := (newest - first).toNat
  if count = 0 ∨ 8 < count then s.says .badValue
  else if k = 0 then
    (s.useFree, .ok, .trend (Config.emptyTrendNewest s.free) 0 false [])
  else if d < k then s.says .ok (.trend newest k false (trendFrom s.scm.trend (k - 1 - d) count))
  else s.says .ok (.trend newest k true (trendFrom s.scm.trend 0 count))

/-- READ_TREND (R49). -/
def execReadTrend (first : U32) (count : Nat) (s : State) : Result :=
  .next (s.serve 0x21 (State.readTrend first count))

/-! ## READ_SCALING (R50) -/

/-- A point record without its interval figures. -/
def Point.view (r : Point) : PointView :=
  ⟨r.state, r.si, r.temp, r.solubility, r.clamp, r.alarmRun, r.watchRun, r.fallRun⟩

/-- READ_SCALING's answer (R50). -/
def State.readScaling (sec : Option ScalingSection) (s : State) : Answer :=
  match sec with
  | none => s.says .badValue
  | some .points => s.says .ok (.points (s.scm.points.rows.map Point.view))
  | some .floor => s.says .ok (.floor s.scm.floor)
  | some (.calcite k) =>
    match indexArg 16 k with
    | none => s.says .badValue
    | some c => s.says .ok (.calcite (s.scm.calcite.get c) (s.role c))
  | some (.fouling .other) => s.says .badValue
  | some (.fouling .exchanger) =>
    s.says .ok (.fouling s.scm.hxFouling (s.hxSet .ratedBrineFlow))
  | some (.fouling (.well k)) =>
    match indexArg 16 k with
    | none => s.says .badValue
    | some c => s.says .ok (.fouling (s.scm.fouling.get c) (s.wellSet c .ratedFlow))
  | some .interval =>
    s.says .ok (.interval s.scm.interval s.scm.trendLeft
      (s.scm.points.rows.map fun r => r.figures))

/-- READ_SCALING (R50). -/
def execReadScaling (sec : Option ScalingSection) (s : State) : Result :=
  .next (s.serve 0x20 (State.readScaling sec))

/-! ## Settings and limit rows taken (R34, R38, R39) -/

/-- SCM takes a change of L5 (R39). -/
def State.l5Taken (s : State) : State :=
  if s.scm.floor.state = .none then
    { s with scm := { s.scm with floor := { s.scm.floor with inUse := s.limit 5 } } }
  else s

/-- SCM takes a change of L6: a running clock that has passed a lower limit raises SILICA_STALE at once
(R38). -/
def State.l6Taken (s : State) : State := s.testStale

end Sys2Proof.Machine
end

