-- ==== Sys2Proof/Machine/Parameters.lean ====
section
/-! DEFINITION. Settings and Limits (chapter 11): writing and reading settings and limit rows, group locks,
protection, the stored copy, and how each block takes an accepted change. -/

namespace Sys2Proof.Machine

/-! ## Settings and limit rows taken: the block that reads the item acts as its chapter states (R174, R177) -/

/-- A change of ROLE is handed to SCM and, as a change of well state, to BBU (R77). -/
def State.roleTaken (s : State) (c : WellNo) : State :=
  s.hand [.scmRoleChange c (s.role c), .bbuWellState c ((s.wcc.get c).state, (s.wcc.get c).state) none]

/-- A setting of a well taken; the others are read at the event that uses them (R78). -/
def State.wellSettingTaken (s : State) (c : WellNo) : WellItem → State
  | .role => s.roleTaken c
  | .minFlow => s.minFlowTaken c
  | .maxFlow => s.maxFlowTaken c
  | .startThreshold => s | .startTimeout => s | .rampInterval => s | .rampStep => s
  | .tripRampStep => s | .tripPersist => s | .dryCurrent => s | .cooldown => s
  | .lockoutWindow => s | .lockoutCount => s | .inhibMin => s | .ratedFlow => s

/-- A setting of the turbine taken (R101). -/
def State.turbSettingTaken (s : State) : TurbItem → State
  | .ratedLoad => s.ratedLoadTaken
  | .steamRate => s.steamRateTaken
  | .warmSteam => s.warmSteamTaken
  | .warmTime => s | .warmPos => s | .ratedSpeed => s | .runupRate => s | .speedBand => s
  | .settleTime => s | .runupTimeout => s | .syncTimeout => s | .admNoload => s | .loadRate => s
  | .unloadRate => s | .minLoad => s | .shortfallMargin => s | .shortfallPersist => s
  | .inletPersist => s | .mismatchTime => s | .resetSpeed => s | .adoptHold => s

/-- A setting of the exchanger taken (R55, R73). -/
def State.hxSettingTaken (s : State) : HxItem → State
  | .supplyMin => s.retarget
  | .supplyMax => s.retarget
  | .fallbackSupply => s.retarget
  | .kp => s | .maxStep => s | .deadband => s | .hyst => s | .floorStep => s | .bypassMin => s
  | .breachPersist => s | .cpBrine => s | .cpWater => s | .ratedBrineFlow => s

/-- A setting of the balance taken (R122); TBC takes STEAM_FRACTION too, before BBU and in the same step (R109,
log 39). -/
def State.balSettingTaken (s : State) : BalItem → State
  | .steamFraction => s.steamRateTaken.requirementTaken
  | .heatBaseFlow => s.requirementTaken
  | .tankXoff => s | .tankXon => s | .holdStep => s | .holdInterval => s

/-- A setting taken. The scan settings and entry settings act at FLC's own next events, but for the retirement
that SET_PARAM brings (R137, R138, R147). -/
def State.itemTaken (s : State) : Item → State
  | .well c i => s.wellSettingTaken c i
  | .turbine i => s.turbSettingTaken i
  | .exchanger i => s.hxSettingTaken i
  | .scaling _ => s
  | .balance i => s.balSettingTaken i
  | .field _ => s
  | .entry _ _ => s
  | .qty q i => s.qtySettingTaken q i

/-- A limit row taken: L5 and L6 act at once, the others at the event that reads them (R34, R38, R39,
R87, R112, R113). -/
def State.limitTaken (s : State) (l : RowNo) : State :=
  if l = 5 then s.l5Taken else if l = 6 then s.l6Taken else s

/-! ## SET_PARAM (R174) -/

/-- The settings with one item written. -/
def State.withItem (s : State) (i : Item) (v : Int) : State :=
  { s with ssl := { s.ssl with settings := s.ssl.settings.write i v } }

/-- Two stations that may not stand in the table together (R136). -/
def stationsClash (a b : Station) : Bool :=
  decide (a.kind ≠ .none ∧ b.kind ≠ .none) &&
    (decide (a.address = b.address) || decide (a.kind = b.kind ∧ a.kind ≠ .well)
      || decide (a.kind = .well ∧ b.kind = .well ∧ a.channel = b.channel))

/-- The station of entry `e` clashes with no other entry's (R136). -/
def State.entryUnique (s : State) (e : EntryNo) : Bool :=
  entryNos.all fun x => decide (x = e) || !stationsClash (s.station e) (s.station x)

/-- The order and uniqueness conditions an item's chapter lays down, with the item already written
(R17, R73, R78, R101, R122, R136). -/
def State.ordered (s : State) : Item → Bool
  | .well c _ =>
    decide (s.wellSet c .minFlow ≤ s.wellSet c .maxFlow)
      && decide (s.wellSet c .startThreshold ≤ s.wellSet c .minFlow)
  | .turbine _ => decide (s.turbSet .minLoad ≤ s.turbSet .ratedLoad)
  | .exchanger _ => decide (s.hxSet .supplyMin ≤ s.hxSet .supplyMax)
  | .scaling _ => true
  | .balance _ => decide (s.balSet .tankXon < s.balSet .tankXoff)
  | .field _ => true
  | .entry e _ => s.entryUnique e
  | .qty q _ => decide (s.qtySet q .rangeLow < s.qtySet q .rangeHigh)

/-- The value of an item may be written: in its range and breaking no condition (R174, order 1). -/
def State.valueOk (s : State) (i : Item) (v : Int) : Bool :=
  decide ((itemRange i).lo ≤ v ∧ v ≤ (itemRange i).hi) && (s.withItem i v).ordered i

/-- An item's own state condition: ROLE of a channel that is OFF (R77, R174). -/
def State.stateAllows (s : State) : Item → Bool
  | .well c .role => decide ((s.wcc.get c).state = .off)
  | _ => true

/-- An entry setting that names the station (R137). -/
def namesStation : EntryItem → Bool
  | .kind => true
  | .address => true
  | .channel => true
  | .pollMask => false
  | .replyTimeout => false
  | .failLimit => false

/-- FLC takes the retirement that an accepted change of an entry's KIND, ADDRESS or CHANNEL brings, when its
KIND was not NONE, as SSL applies the change (R137, log 19); `old` gives the stations before it. -/
def State.retireChanged (s : State) (old : EntryNo → Station) : Item → State
  | .entry e x =>
    if namesStation x && decide ((old e).kind ≠ .none) then s.retireStation e (old e) else s
  | _ => s

/-- An accepted write (R174): the value is in force at once, and the block that reads the item takes the change
next, with no other event between (log 33). -/
def State.applyItem (s : State) (i : Item) (v : Int) : State :=
  ((s.withItem i v).itemTaken i).retireChanged s.station i

/-- SET_PARAM of an existing item, its checks in order (R174). -/
def State.setItem (i : Item) (v : Int) (s : State) : Answer :=
  if !s.valueOk i v then s.says .badValue
  else if s.storeBusy then s.says .busy
  else if s.groupLocked (itemGroup i) then s.says .refusedLocked
  else if !s.stateAllows i then s.says .refusedState
  else (s.applyItem i v, .ok, .none)

/-- A group and item that exist: the item is one of the group. -/
def existing (g : Option Group) (i : Option Item) : Option Item :=
  match g, i with
  | some g, some i => if itemGroup i = g then some i else none
  | _, _ => none

/-- A request about an item that exists; any other is BAD_VALUE (R174, R175). -/
def onItem (g : Option Group) (i : Option Item) (f : Item → State → Answer) (s : State) : Answer :=
  match existing g i with
  | some i => f i s
  | none => s.says .badValue

/-- SET_PARAM (R174). -/
def execSetParam (g : Option Group) (i : Option Item) (v : Int) (s : State) : Result :=
  .next (s.serve 0x70 (onItem g i fun i => State.setItem i v))

/-- GET_PARAM of an existing item (R175). -/
def State.getItem (i : Item) (s : State) : Answer :=
  s.says .ok (.param (s.item i) (itemRange i).lo (itemRange i).hi (s.lockState (itemGroup i)))

/-- GET_PARAM (R175). -/
def execGetParam (g : Option Group) (i : Option Item) (s : State) : Result :=
  .next (s.serve 0x71 (onItem g i State.getItem))

/-! ## Group locks (R176) -/

/-- A group's host lock set or cleared; an unknown group is BAD_VALUE (R176). -/
def State.setHostLock (v : Bool) (g : Option Group) (s : State) : Answer :=
  match g with
  | none => s.says .badValue
  | some g =>
    ({ s with ssl := { s.ssl with hostLocks := s.ssl.hostLocks.set (groupNo g) v } }, .ok, .none)

/-- LOCK_GROUP (R176). -/
def execLockGroup (g : Option Group) (s : State) : Result :=
  .next (s.serve 0x72 (State.setHostLock true g))

/-- UNLOCK_GROUP (R176): a claim lock stays in place. -/
def execUnlockGroup (g : Option Group) (s : State) : Result :=
  .next (s.serve 0x73 (State.setHostLock false g))

/-! ## The limit table (R177, R178, R179) -/

/-- An accepted limit row: in force at once, and taken next by the block that reads it (R38, R39, R177, log 33). -/
def State.applyLimit (s : State) (l : RowNo) (v : Int) : State :=
  { s with ssl := { s.ssl with limits := s.ssl.limits.set l v } }.limitTaken l

/-- SET_LIMIT's checks in order (R177). -/
def State.setLimit (l : Nat) (v : Int) (s : State) : Answer :=
  match indexArg 55 l with
  | none => s.says .badValue
  | some l =>
    if ¬((limitRange l).lo ≤ v ∧ v ≤ (limitRange l).hi) then s.says .badValue
    else if s.storeBusy then s.says .busy
    else if l.val < s.ssl.boundary then s.says .refusedProtected
    else (s.applyLimit l v, .ok, .none)

/-- SET_LIMIT (R177). -/
def execSetLimit (l : Nat) (v : Int) (s : State) : Result :=
  .next (s.serve 0x74 (State.setLimit l v))

/-- READ_LIMITS (R177). -/
def execReadLimits (s : State) : Result :=
  .next (s.serve 0x75 fun s => s.says .ok (.limits s.ssl.limits s.ssl.boundary s.ssl.locked))

/-- SET_BOUNDARY at its OPERATE (R178). -/
def State.operateBoundary (p : Nat) (s : State) : State × Status :=
  if s.ssl.locked then (s, .refusedProtected)
  else ({ s with ssl := { s.ssl with boundary := p } }, .ok)

/-- OPERATE of SET_BOUNDARY (R178, R189). -/
def execOperateSetBoundary (p : Nat) (s : State) : Result :=
  .next (s.operate .setBoundary p (decide (p ≤ 55)) (State.operateBoundary p))

/-- COMMISSION_LOCK at its OPERATE: the commissioning record is written, then the lock is set (R179). -/
def State.operateLock (s : State) : State × Status :=
  if s.ssl.locked then (s, .refusedState)
  else
    ({ s with ssl := { s.ssl with
        record := some ⟨s.ssl.boundary, s.ssl.limits⟩, locked := true } }, .ok)

/-- OPERATE of COMMISSION_LOCK (R179, R189). -/
def execOperateCommissionLock (arg : Nat) (s : State) : Result :=
  .next (s.operate .commissionLock arg (decide (arg = 0)) State.operateLock)

/-! ## The stored copy (R180) -/

/-- The snapshot a STORE takes (R180). -/
def State.snapshot (s : State) : StoredCopy where
  settings := s.ssl.settings
  silica := s.tip.silica.entries
  psat := s.tip.psat.entries
  curve := s.tip.curve.entries
  limits := s.ssl.limits
  boundary := s.ssl.boundary
  locked := s.ssl.locked
  baselines := Bank.ofFn fun c => (s.scm.fouling.get c).baseline
  hxBaseline := s.scm.hxFouling.baseline

/-- STORE's answer (R180). -/
def State.store (s : State) : Answer :=
  if s.storeBusy then s.says .busy
  else ({ s with ssl := { s.ssl with storing := some s.snapshot } }, .ok, .none)

/-- STORE (R180). -/
def execStore (s : State) : Result := .next (s.serve 0x76 State.store)

/-- A table with the origin STORED (R13). -/
def Table.stored (t : Table) : Table := { t with origin := .stored }

/-- The STORE is complete (R180). -/
def State.storePassed (s : State) (c : StoredCopy) : State :=
  { s with
    ssl := { s.ssl with storing := none, copy := some c, storeFault := false }
    tip := ⟨s.tip.silica.stored, s.tip.psat.stored, s.tip.curve.stored⟩ }.hand
    (if s.ssl.storeFault then [.alarmClear .storeFault .store] else [])

/-- The copy read back fails its check (R180), and it is dropped for good: no later power-on finds it
(DESIGN CHOICE, log 7). -/
def State.storeFailed (s : State) : State :=
  { s with
    ssl := { s.ssl with storing := none, copy := none, storeFault := true }
    svp := { s.svp with storeFaultSeen := true } }.hand
    [.alarmChange .storeFault .store (.raise .alarm 2)]

/-- STORE_COMPLETE (R180): the operand says whether the copy read back passes its check. -/
def execStoreComplete (checkPasses : Bool) (s : State) : Result :=
  .next (match s.ssl.storing with
    | none => s
    | some c => if checkPasses then s.storePassed c else s.storeFailed)

/-! ## SETTING_CHANGE_TAKEN -/

/-- SETTING_CHANGE_TAKEN (R174, R177): the taking of a setting or limit row as it stands. SET_PARAM and SET_LIMIT
make it part of their own step (log 33). -/
def execSettingChangeTaken (what : Changed) (old : Int) (s : State) : Result :=
  .next (let t := s.took (.settingChangeTaken what old)
    match what with
    | .item i => t.itemTaken i
    | .limit l => t.limitTaken l)

end Sys2Proof.Machine
end

