-- ==== Sys2Proof/Machine/Port.lean ====
section
/-! DEFINITION. The Supervisory Port (chapter 12): the receiver, replies, notices, the selection record,
plant time and identity. -/

namespace Sys2Proof.Machine

/-- IDENT (R191). -/
def execIdent (s : State) : Result :=
  .next (s.serve 0x01 fun s => (s, .ok, .ident Config.vendorCode Config.partCode Config.revision
    s.svp.straps 16 s.svp.plantTime))

/-- SET_TIME (R191): the reply carries the value replaced. -/
def execSetTime (t : U32) (s : State) : Result :=
  .next (s.serve 0x02 fun s =>
    ({ s with svp := { s.svp with plantTime := t } }, .ok, .time s.svp.plantTime))

/-- The range of an object's argument (R188). -/
def selRange : SelObject → Nat → Bool
  | .wellTrip, a => decide (a < 16)
  | .wellUnlock, a => decide (a < 16)
  | .setBoundary, a => decide (a ≤ 55)
  | .turbineTrip, a => decide (a = 0)
  | .turbineReset, a => decide (a = 0)
  | .commissionLock, a => decide (a = 0)
  | .restart, a => decide (a = 0)

/-- SELECT taken, the old selection already cancelled (R188). -/
def State.selectAnswer (object : Option SelObject) (arg : Nat) (s : State) : Answer :=
  match object with
  | none => s.says .badValue
  | some o =>
    if selRange o arg then ({ s with svp := { s.svp with selection := some (o, arg) } }, .ok, .none)
    else s.says .badValue

/-- SELECT (R188). -/
def execSelect (object : Option SelObject) (arg : Nat) (s : State) : Result :=
  .next (s.serve 0x03 (State.selectAnswer object arg))

/-- OPERATE of RESTART (R189): it has no condition; the restart is due when its reply has been
sent. -/
def execOperateRestart (arg : Nat) (s : State) : Result :=
  .next (s.operate .restart arg (selRange .restart arg) fun s =>
    ({ s with svp := { s.svp with restartDue := true } }, .ok))

/-- The 5 s window expires: the selection is cancelled, without a notice (R188). -/
def execSelectWindowExpiry (s : State) : Result := .next s.deselect

/-- Plant time counts up a second, wrapping (R191); the trend timer's seconds left go down with it
(log 3). -/
def execPlantTimeTick (s : State) : Result :=
  .next { s with
    svp := { s.svp with plantTime := s.svp.plantTime + 1 }
    scm := { s.scm with trendLeft := s.scm.trendLeft - 1 } }

/-- A good frame whose kind is not in the catalogue is answered BAD_KIND; a catalogue kind in a frame
that is no request row (its body too short or too long) is answered BAD_VALUE (R184, log 8). -/
def execBadKind (kind : Byte) (s : State) : Result :=
  .next (s.serve kind fun s =>
    if kind ∈ catalogue then s.says .badValue else s.says .badKind)

/-- Bytes arrive of which the receiver makes no request (R183): it keeps what is left as a partial
frame. A command whose bytes complete a good frame is no discarded frame and changes nothing
(log 24). -/
def execFrameDiscarded (bytes : List Byte) (s : State) : Result :=
  .next (match receiver (s.svp.rx ++ bytes) with
    | .partial_ left => { s with svp := { s.svp with rx := left } }
    | .good _ _ => s)

/-- A good frame completes while a request is in progress: it is discarded and LINK_OVERRUN is set
(R184). -/
def execLinkOverrun (s : State) : Result :=
  .next (if s.svp.reply.isSome then s.overrun else s)

/-- The request in progress ends; after the reply of RESTART the restart is handed on (R189). -/
def State.endReply (s : State) : State :=
  let t := { s with svp := { s.svp with reply := none, restartDue := false } }
  if s.svp.restartDue then t.hand [.restart] else t

/-- The last byte of a reply is sent, which ends the request in progress (R184). A reply waits for the
notice going out (R187). -/
def execReplyComplete (s : State) : Result :=
  .next (if s.svp.reply.isSome && !s.svp.sending then s.endReply else s)

/-- A port resync (R190): the partial frame is dropped and a present selection is cancelled. -/
def execPortResync (s : State) : Result :=
  .next { s with svp := { s.svp with rx := [], selection := none } }

/-- SVP starts sending the head notice when the transmitter is idle and no request is in progress
(R187). -/
def execNoticeStart (s : State) : Result :=
  .next (if s.svp.reply.isNone && !s.svp.sending && !s.svp.notices.isEmpty then
    { s with svp := { s.svp with sending := true } } else s)

/-- The last byte of a notice is sent: it leaves the queue (R187). -/
def execNoticeComplete (s : State) : Result :=
  .next (if s.svp.sending then
    { s with svp := { s.svp with sending := false, notices := s.svp.notices.tail } } else s)

end Sys2Proof.Machine
end

