-- ==== Sys2Proof/Machine/Sequences.lean ====
section
/-! DEFINITION. The Sequence Runner (chapter 9): loading, claims, taking steps, waits, failure, suspend,
resume and abort. -/

namespace Sys2Proof.Machine

/-! ## Steps (R150, R151) -/

/-- A target as a step names it. -/
def stepTarget : StepTarget → Option Target
  | .well c => (indexArg 16 c).map .well
  | .turbine => some .turbine
  | .exchanger => some .exchanger
  | .balance => some .balance
  | .qty _ => none

/-- The step kinds that are commands. -/
def isCommand : StepKind → Bool
  | .wellStart => true | .wellStop => true | .wellWeight => true | .balMode => true
  | .turbStart => true | .turbLoad => true | .turbStop => true | .hxOn => true | .hxOff => true
  | .hxOffset => true
  | .waitQty => false | .waitState => false | .delay => false | .pause => false | .fin => false
  | .other => false

/-- The step kinds that wait. -/
def isWait : StepKind → Bool
  | .waitQty => true | .waitState => true | .delay => true
  | .wellStart => false | .wellStop => false | .wellWeight => false | .balMode => false
  | .turbStart => false | .turbLoad => false | .turbStop => false | .hxOn => false
  | .hxOff => false | .hxOffset => false | .pause => false | .fin => false | .other => false

/-- What a step claims (R150). -/
def claimOf (st : Step) : Option Target := if isCommand st.kind then st.target.bind stepTarget else none

/-- A number in a range. -/
def inRange (lo hi v : Int) : Bool := decide (lo ≤ v ∧ v ≤ hi)

/-- A channel as a step's target. -/
def isWell : Option StepTarget → Bool
  | some (.well c) => decide (c < 16)
  | _ => false

/-- The value is a number in a range. -/
def isNum (lo hi : Int) : Option StepValue → Bool
  | some (.num v) => inRange lo hi v
  | _ => false

/-- A WAIT_STATE's value names a state of its target. -/
def isStateOf : Option StepTarget → Option StepValue → Bool
  | some (.well c), some (.state (.well _)) => decide (c < 16)
  | some .turbine, some (.state (.turbine _)) => true
  | some .exchanger, some (.state (.exchanger _)) => true
  | some .balance, some (.state (.balance _)) => true
  | some .balance, some (.state (.hold _)) => true
  | _, _ => false

/-- A WAIT_QTY's target and value. -/
def isCompare : Option StepTarget → Option StepValue → Bool
  | some (.qty q), some (.compare _ l) => decide (q < 115) && inRange (-1000) 60000 l
  | _, _ => false

/-- A BAL_MODE's value. -/
def isMode : Option StepValue → Bool
  | some (.mode _) => true
  | _ => false

/-- Target and value are present or absent as the kind requires and lie in their ranges (R150). -/
def operandsOk (st : Step) : Bool :=
  match st.kind with
  | .wellStart => isWell st.target && st.value.isNone
  | .wellStop => isWell st.target && st.value.isNone
  | .wellWeight => isWell st.target && isNum (-32768) 32767 st.value
  | .balMode => decide (st.target = some .balance) && isMode st.value
  | .turbStart => decide (st.target = some .turbine) && st.value.isNone
  | .turbLoad => decide (st.target = some .turbine) && isNum 0 1000000 st.value
  | .turbStop => decide (st.target = some .turbine) && st.value.isNone
  | .hxOn => decide (st.target = some .exchanger) && st.value.isNone
  | .hxOff => decide (st.target = some .exchanger) && st.value.isNone
  | .hxOffset => decide (st.target = some .exchanger) && isNum (-32768) 32767 st.value
  | .waitQty => isCompare st.target st.value
  | .waitState => isStateOf st.target st.value
  | .delay => st.target.isNone && isNum 1 86400 st.value
  | .pause => st.target.isNone && st.value.isNone
  | .fin => st.target.isNone && st.value.isNone
  | .other => false

/-- The timeout is present, and in range, for WAIT_QTY and WAIT_STATE alone (R150). -/
def timeoutOk (st : Step) : Bool :=
  match st.kind, st.timeout with
  | .waitQty, some t => decide (1 ≤ t ∧ t ≤ 86400)
  | .waitState, some t => decide (1 ≤ t ∧ t ≤ 86400)
  | .waitQty, none => false
  | .waitState, none => false
  | _, t => t.isNone

/-- A GOTO names a step of a list of `n`. -/
def onFailOk (n : Nat) : OnFail → Bool
  | .goto m => decide (m < n)
  | .abort => true
  | .continue => true

/-- A step of a list of `n` steps is well formed (R151). -/
def stepOk (n : Nat) (st : Step) : Bool := operandsOk st && timeoutOk st && onFailOk n st.onFail

/-! ## Slots: notices, tokens and moves (R149, R153, R155, R161) -/

/-- A slot record replaced. -/
def State.setSlot (s : State) (k : SlotNo) (r : Slot) : State := { s with sqr := s.sqr.set k r }

/-- The slot is RUNNING, WAITING or SUSPENDED. -/
def activeSlot (st : SlotState) : Bool := decide (st = .running ∨ st = .waiting ∨ st = .suspended)

/-- A change of state that gives a notice: not a move between RUNNING and WAITING (R161). -/
def noticed (old new : SlotState) : Bool :=
  decide (old ≠ new) && !(decide (old = .running ∧ new = .waiting) || decide (old = .waiting ∧ new = .running))

/-- The notice of a slot's change of state (R161). -/
def slotNotice (k : SlotNo) (old : SlotState) (r : Slot) : List Notice :=
  if noticed old r.state then
    [.seq k old r.state r.ptr
      (if r.state = .failed ∨ r.state = .aborted then r.lastFailure else none)]
  else []

/-- A slot record replaced, with the notice of its change of state. -/
def State.moveSlot (s : State) (k : SlotNo) (r : Slot) : State :=
  (s.setSlot k r).notify (slotNotice k (s.sqr.get k).state r)

/-- The step event of slot `k` (R153: the taking of a step is an event of its own). -/
def isStepOf (k : SlotNo) : Instr → Bool
  | .seqCommandStep j => decide (j = k)
  | .seqWaitStep j => decide (j = k)
  | .seqPauseStep j => decide (j = k)
  | .seqEndStep j => decide (j = k)
  | _ => false

/-- The event by which a slot's current step is taken. -/
def stepEvent (k : SlotNo) (st : Step) : List Instr :=
  if isCommand st.kind then [.seqCommandStep k]
  else if isWait st.kind then [.seqWaitStep k]
  else match st.kind with
    | .pause => [.seqPauseStep k]
    | .fin => [.seqEndStep k]
    | _ => []

/-- The current step of a slot. -/
def Slot.step (r : Slot) : Option Step := r.steps[r.ptr]?

/-- The taking of the slot's current step becomes its one next event (R153). -/
def State.nextStep (s : State) (k : SlotNo) : State :=
  let t := { s with handed := s.handed.filter fun i => !isStepOf k i }
  match (s.sqr.get k).step with
  | some st => t.hand (stepEvent k st)
  | none => t

/-- A slot becomes RUNNING at a step, its timer stopped. -/
def State.runAt (s : State) (k : SlotNo) (ptr : Nat) : State :=
  (s.moveSlot k { s.sqr.get k with
    state := .running, ptr := ptr, timer := .stopped, suspendedFrom := none }).nextStep k

/-- A slot becomes FINISHED: the pointer stays, and its claims are released (R155, R159). -/
def State.finishSlot (s : State) (k : SlotNo) : State :=
  s.moveSlot k { s.sqr.get k with
    state := .finished, timer := .stopped, suspendedFrom := none, pendingFailure := none, claims := [] }

/-- The step pointer moves to the next step, or past the last one (R155). -/
def State.advance (s : State) (k : SlotNo) : State :=
  let r := s.sqr.get k
  if r.ptr + 1 < r.steps.length then s.runAt k (r.ptr + 1) else s.finishSlot k

/-! ## Failure (R156) -/

/-- The failure of the current step recorded: timer stopped, last failure set. -/
def State.recordFailure (s : State) (k : SlotNo) (reason : FailReason) : State :=
  let r := s.sqr.get k
  s.setSlot k { r with
    timer := .stopped, lastFailure := some ⟨r.ptr, reason, s.svp.plantTime⟩ }

/-- The notice of a failure handled by CONTINUE or GOTO (R161). -/
def State.handledNotice (s : State) (k : SlotNo) : State :=
  let r := s.sqr.get k
  s.notify [.seq k .running .running r.ptr r.lastFailure]

/-- The on_fail of a slot's current step (R150). -/
def Slot.onFail (r : Slot) : OnFail :=
  match r.step with
  | some st => st.onFail
  | none => .abort

/-- The current step fails (R156). -/
def State.failStep (s : State) (k : SlotNo) (reason : FailReason) : State :=
  let t := s.recordFailure k reason
  match (s.sqr.get k).onFail with
  | .abort =>
    t.moveSlot k { t.sqr.get k with
      state := .failed, suspendedFrom := none, pendingFailure := none, claims := [] }
  | .continue => (t.handledNotice k).advance k
  | .goto n => (t.handledNotice k).runAt k n

/-! ## Waits (R154) -/

/-- A comparison of WAIT_QTY. -/
def compares : Cmp → Int → Int → Bool
  | .above, v, l => decide (l < v)
  | .atLeast, v, l => decide (l ≤ v)
  | .below, v, l => decide (v < l)
  | .atMost, v, l => decide (v ≤ l)

/-- The states a target has as its record stands. -/
def State.targetStates (s : State) : Target → List TargetState
  | .well c => [.well (s.wcc.get c).state]
  | .turbine => [.turbine s.tbc.state]
  | .exchanger => [.exchanger s.hxc.mode]
  | .balance => [.balance s.bbu.mode, .hold s.bbu.hold]

/-- A WAIT_QTY meets a value of its quantity. -/
def meetsValue (st : Step) (v : Int) : Bool :=
  match st.value with
  | some (.compare c l) => compares c v l
  | _ => false

/-- The quantity a WAIT_QTY waits on. -/
def waitedQty (st : Step) : Option QtyNo :=
  match st.kind, st.target with
  | .waitQty, some (.qty q) => indexArg 115 q
  | _, _ => none

/-- The target and state a WAIT_STATE waits for. -/
def waitedState (st : Step) : Option (Target × TargetState) :=
  match st.kind, st.target.bind stepTarget, st.value with
  | .waitState, some t, some (.state x) => some (t, x)
  | _, _, _ => none

/-- A wait step's condition holds as the records stand (R154). -/
def State.waitHolds (s : State) (st : Step) : Bool :=
  match st.kind with
  | .waitQty =>
    match waitedQty st with
    | some q => match s.validNow q with | some v => meetsValue st v | none => false
    | none => false
  | .waitState =>
    match waitedState st with
    | some (t, x) => decide (x ∈ s.targetStates t)
    | none => false
  | _ => false

/-- The seconds a wait step's timer starts with: the timeout, or the value of a DELAY (R154). -/
def waitSeconds (st : Step) : Nat :=
  match st.kind, st.value with
  | .delay, some (.num v) => seconds v
  | _, _ => st.timeout.getD 0

/-- A wait step begins (R154). -/
def State.beginWait (s : State) (k : SlotNo) (st : Step) : State :=
  if s.waitHolds st then s.advance k
  else s.moveSlot k { s.sqr.get k with state := .waiting, timer := .running (waitSeconds st) }

/-! ## Taking steps (R153 to R155) -/

/-- The command a command step issues, with the slot as its origin (R150, R153). -/
def State.issueStep (s : State) (k : SlotNo) (st : Step) : Answer :=
  match st.kind, st.target, st.value with
  | .wellStart, some (.well c), _ => onWell c (State.wellStart (.slot k)) s
  | .wellStop, some (.well c), _ => onWell c (State.wellStop (.slot k)) s
  | .wellWeight, some (.well c), some (.num v) =>
    onWell c (fun c => State.wellWeight (.slot k) c v) s
  | .balMode, _, some (.mode m) => s.balMode (.slot k) m
  | .turbStart, _, _ => s.turbStart (.slot k)
  | .turbLoad, _, some (.num v) => s.turbLoad (.slot k) v
  | .turbStop, _, _ => s.turbStop (.slot k)
  | .hxOn, _, _ => s.hxOn (.slot k)
  | .hxOff, _, _ => s.hxOff (.slot k)
  | .hxOffset, _, some (.num v) => s.hxOffset (.slot k) v
  | _, _, _ => s.says .badValue

/-- A command step taken: its command issued, and the slot moved on or failed by the reply (R153). -/
def State.takeCommand (s : State) (k : SlotNo) (st : Step) : State :=
  let r := s.issueStep k st
  if r.2.1 = .ok ∨ r.2.1 = .clamped then r.1.advance k else r.1.failStep k (.refused r.2.1)

/-- The current step of a RUNNING slot, when it is of the kind an event takes. -/
def State.toTake (s : State) (k : SlotNo) (p : StepKind → Bool) : Option Step :=
  if (s.sqr.get k).state = .running then
    match (s.sqr.get k).step with
    | some st => if p st.kind then some st else none
    | none => none
  else none

/-- SEQ_COMMAND_STEP (R153). -/
def execSeqCommandStep (k : SlotNo) (s : State) : Result :=
  .next (let t := s.took (.seqCommandStep k)
    match t.toTake k isCommand with
    | some st => t.takeCommand k st
    | none => t)

/-- SEQ_WAIT_STEP (R154). -/
def execSeqWaitStep (k : SlotNo) (s : State) : Result :=
  .next (let t := s.took (.seqWaitStep k)
    match t.toTake k isWait with
    | some st => t.beginWait k st
    | none => t)

/-- SEQ_PAUSE_STEP (R155). -/
def execSeqPauseStep (k : SlotNo) (s : State) : Result :=
  .next (let t := s.took (.seqPauseStep k)
    match t.toTake k (fun x => decide (x = .pause)) with
    | some _ => t.moveSlot k { t.sqr.get k with state := .suspended, suspendedFrom := some .pause }
    | none => t)

/-- SEQ_END_STEP (R155). -/
def execSeqEndStep (k : SlotNo) (s : State) : Result :=
  .next (let t := s.took (.seqEndStep k)
    match t.toTake k (fun x => decide (x = .fin)) with
    | some _ => t.finishSlot k
    | none => t)

/-! ## Events that test waits (R154, R157) -/

/-- The current step of a WAITING slot. -/
def State.waitingStep (s : State) (k : SlotNo) : Option Step :=
  if (s.sqr.get k).state = .waiting then (s.sqr.get k).step else none

/-- One slot at a quantity update. -/
def slotQtyUpdate (u : Update) (s : State) (k : SlotNo) : State :=
  match s.waitingStep k with
  | some st =>
    match (waitedQty st).bind u.newValue with
    | some v => if meetsValue st v then s.advance k else s
    | none => s
  | none => s

/-- SQR_QTY_UPDATE (R154), slot by slot from slot 0 to slot 3 (log 40). -/
def execSqrQtyUpdate (u : Update) (s : State) : Result :=
  .next (slotNos.foldl (slotQtyUpdate u) (s.took (.sqrQtyUpdate u)))

/-- A change into a state that is a trip of its target (R157). -/
def isTripState : TargetState → Bool
  | .well x => isWellTrip x
  | .turbine x => decide (x = .tripped)
  | .exchanger x => decide (x = .isolated)
  | .balance _ => false
  | .hold _ => false

/-- One slot at a state change of a target: a claimed target's trip hands the step's failure, not the
wait's completion (R157). -/
def slotStateChange (t : Target) (new : TargetState) (s : State) (k : SlotNo) : State :=
  match s.waitingStep k with
  | some st =>
    if waitedState st = some (t, new) ∧ ¬(isTripState new = true ∧ t ∈ (s.sqr.get k).claims) then
      s.advance k
    else s
  | none => s

/-- SQR_STATE_CHANGE (R154), slot by slot from slot 0 to slot 3 (log 40). -/
def execSqrStateChange (t : Target) (move : TargetState × TargetState) (cause : Option TripCause)
    (s : State) : Result :=
  .next (slotNos.foldl (slotStateChange t move.2) (s.took (.sqrStateChange t move cause)))

/-- The reason of a failure by a trip or a stop. -/
def tripStopReason (t : Target) : TripStop → FailReason
  | .trip => .targetTrip t
  | .stop => .targetStop t

/-- One slot at a trip or stop of a target (R157). -/
def slotTripStop (t : Target) (what : TripStop) (origin : TripOrigin) (s : State) (k : SlotNo) :
    State :=
  let r := s.sqr.get k
  if t ∉ r.claims ∨ (what = .stop ∧ origin = .command (.slot k)) then s
  else match r.state with
    | .running => s.failStep k (tripStopReason t what)
    | .waiting => s.failStep k (tripStopReason t what)
    | .suspended =>
      if r.pendingFailure.isSome then s
      else s.setSlot k { r with pendingFailure := some (t, what) }
    | .empty => s
    | .loaded => s
    | .finished => s
    | .failed => s
    | .aborted => s

/-- SQR_TARGET_TRIP_STOP (R157). -/
def execSqrTargetTripStop (t : Target) (what : TripStop) (origin : TripOrigin) (s : State) : Result :=
  .next (slotNos.foldl (slotTripStop t what origin) (s.took (.sqrTargetTripStop t what origin)))

/-! ## Timers (R154) -/

/-- A step timer that has run out: a DELAY is done, a WAIT_QTY or WAIT_STATE fails with TIMEOUT. -/
def State.timerOut (s : State) (k : SlotNo) : State :=
  match s.waitingStep k with
  | some st => if st.kind = .delay then s.advance k else s.failStep k .timeout
  | none => s

/-- One slot's running step timer decremented. -/
def slotSecond (s : State) (k : SlotNo) : State :=
  let r := s.sqr.get k
  match r.timer with
  | .running n =>
    let t := s.setSlot k { r with timer := .running (n - 1) }
    if n ≤ 1 then t.timerOut k else t
  | .stopped => s
  | .frozen _ => s

/-- SQR_SECOND_TIMER (R154), slot by slot from slot 0 to slot 3 (log 40). -/
def execSqrSecondTimer (s : State) : Result := .next (slotNos.foldl slotSecond s)

/-- The slot waits with its step timer running. -/
def State.timerRuns (s : State) (k : SlotNo) : Bool :=
  match (s.sqr.get k).timer with
  | .running _ => true
  | .stopped => false
  | .frozen _ => false

/-- WAIT_TIMEOUT (R154): the time has come at which the step timer reaches 0 (log 4). -/
def execWaitTimeout (k : SlotNo) (s : State) : Result :=
  .next (match s.waitingStep k with
    | some st => if s.timerRuns k = true ∧ st.kind ≠ .delay then s.failStep k .timeout else s
    | none => s)

/-- DELAY_EXPIRY (R154): the time has come at which the step timer reaches 0 (log 4). -/
def execDelayExpiry (k : SlotNo) (s : State) : Result :=
  .next (match s.waitingStep k with
    | some st => if s.timerRuns k = true ∧ st.kind = .delay then s.advance k else s
    | none => s)

/-! ## Requests (R151, R152, R158, R159, R161) -/

/-- A request to a slot whose number the host gives. -/
def onSlot (k : Nat) (f : SlotNo → State → Answer) (s : State) : Answer :=
  match indexArg 4 k with
  | none => s.says .badValue
  | some k => f k s

/-- SEQ_LOAD's checks after the slot number (R151). -/
def State.seqLoad (steps : List Step) (k : SlotNo) (s : State) : Answer :=
  if activeSlot (s.sqr.get k).state then s.says .refusedState
  else if steps = [] ∨ Config.maxSteps < steps.length then s.says .badValue
  else match steps.findIdx? (fun st => !stepOk steps.length st) with
    | some n => s.says .badValue (.badIndex n)
    | none =>
      (s.moveSlot k { s.sqr.get k with
        state := .loaded, steps := steps, ptr := 0, timer := .stopped
        suspendedFrom := none, pendingFailure := none, lastFailure := none }, .ok, .none)

/-- Every target, in the order claim sets are kept. -/
def allTargets : List Target := wells.map .well ++ [.turbine, .exchanger, .balance]

/-- The claim set of a step list: the union of its steps' claims (R152). -/
def claimsOf (steps : List Step) : List Target :=
  allTargets.filter fun t => steps.any fun st => decide (claimOf st = some t)

/-- A claim set meets that of another active slot (R152). -/
def State.claimsMeet (s : State) (k : SlotNo) (l : List Target) : Bool :=
  slotNos.any fun j =>
    decide (j ≠ k) && activeSlot (s.sqr.get j).state && l.any fun t => decide (t ∈ (s.sqr.get j).claims)

/-- The states from which a slot runs (R152). -/
def runnable (st : SlotState) : Bool :=
  decide (st = .loaded ∨ st = .finished ∨ st = .failed ∨ st = .aborted)

/-- SEQ_RUN after the slot number (R152). -/
def State.seqRun (k : SlotNo) (s : State) : Answer :=
  let r := s.sqr.get k
  if !runnable r.state then s.says .refusedState
  else if s.claimsMeet k (claimsOf r.steps) then s.says .refusedClaimed
  else
    ((s.moveSlot k { r with
      state := .running, ptr := 0, timer := .stopped, suspendedFrom := none, pendingFailure := none
      claims := claimsOf r.steps }).nextStep k, .ok, .none)

/-- A timer frozen with its seconds left. -/
def Timer.freeze : Timer → Timer
  | .running n => .frozen n
  | .stopped => .stopped
  | .frozen n => .frozen n

/-- A frozen timer running on. -/
def Timer.thaw : Timer → Timer
  | .frozen n => .running n
  | .stopped => .stopped
  | .running n => .running n

/-- SEQ_SUSPEND after the slot number (R158). -/
def State.seqSuspend (k : SlotNo) (s : State) : Answer :=
  let r := s.sqr.get k
  match r.state with
  | .running =>
    (s.moveSlot k { r with state := .suspended, suspendedFrom := some .running }, .ok, .none)
  | .waiting =>
    (s.moveSlot k { r with
      state := .suspended, suspendedFrom := some .waiting, timer := r.timer.freeze }, .ok, .none)
  | .suspended => s.says .ok
  | .empty => s.says .refusedState
  | .loaded => s.says .refusedState
  | .finished => s.says .refusedState
  | .failed => s.says .refusedState
  | .aborted => s.says .refusedState

/-- The condition of a slot's current wait step holds (R154). -/
def State.currentHolds (s : State) (k : SlotNo) : Bool :=
  match (s.sqr.get k).step with
  | some st => s.waitHolds st
  | none => false

/-- A suspended wait continues: its condition is tested at once (R158). -/
def State.resumeWait (s : State) (k : SlotNo) : State :=
  let r := s.sqr.get k
  if s.currentHolds k then s.advance k
  else s.moveSlot k { r with state := .waiting, timer := r.timer.thaw, suspendedFrom := none }

/-- A suspended slot continues (R158). -/
def State.resumeSlot (s : State) (k : SlotNo) : State :=
  let r := s.sqr.get k
  match r.pendingFailure with
  | some (t, what) => (s.setSlot k { r with pendingFailure := none }).failStep k (tripStopReason t what)
  | none =>
    match r.suspendedFrom with
    | some .running => s.runAt k r.ptr
    | some .waiting => s.resumeWait k
    | some .pause => s.advance k
    | none => s.runAt k r.ptr

/-- SEQ_RESUME after the slot number (R158). -/
def State.seqResume (k : SlotNo) (s : State) : Answer :=
  if (s.sqr.get k).state = .suspended then (s.resumeSlot k, .ok, .none) else s.says .refusedState

/-- The record of a slot aborted for a reason (R159, R162). -/
def Slot.aborted (now : U32) (reason : FailReason) (r : Slot) : Slot :=
  { r with
    state := .aborted, timer := .stopped, suspendedFrom := none, pendingFailure := none, claims := []
    lastFailure := some ⟨r.ptr, reason, now⟩ }

/-- SEQ_ABORT after the slot number (R159). -/
def State.seqAbort (k : SlotNo) (s : State) : Answer :=
  let r := s.sqr.get k
  if activeSlot r.state then (s.moveSlot k (r.aborted s.svp.plantTime .aborted), .ok, .none)
  else s.says .refusedState

def execSeqLoad (k : Nat) (steps : List Step) (s : State) : Result :=
  .next (s.serve 0x50 (onSlot k (State.seqLoad steps)))
def execSeqRun (k : Nat) (s : State) : Result := .next (s.serve 0x51 (onSlot k State.seqRun))
def execSeqSuspend (k : Nat) (s : State) : Result :=
  .next (s.serve 0x52 (onSlot k State.seqSuspend))
def execSeqResume (k : Nat) (s : State) : Result := .next (s.serve 0x53 (onSlot k State.seqResume))
def execSeqAbort (k : Nat) (s : State) : Result := .next (s.serve 0x54 (onSlot k State.seqAbort))

/-- READ_SEQ (R161). -/
def execReadSeq (k : Nat) (s : State) : Result :=
  .next (s.serve 0x55 (onSlot k fun k s => s.says .ok (.slot (s.sqr.get k))))

end Sys2Proof.Machine
end

