-- ==== Sys2Proof/Machine/Resets.lean ====
section
/-! DEFINITION. POWER_ON and RESTART: the two resets of every block, as the reset tables of the chapters
give them. -/

namespace Sys2Proof.Machine

/-! ## POWER_ON (R181 and the chapters' reset tables) -/

/-- The stored copy that passes its check at power-on: a STORE cut short by it leaves none (R180, R181). -/
def State.copyAtPowerOn (s : State) (copyPasses : Bool) : Option StoredCopy :=
  if copyPasses && !s.storeBusy then s.ssl.copy else none

/-- The limit rows with the rows the commissioning record protects (R179). -/
def protectedRows (record : Option CommRecord) (rows : Bank Int 55) : Bank Int 55 :=
  match record with
  | some r => Bank.ofFn fun l => if l.val < r.boundary then r.limits.get l else rows.get l
  | none => rows

/-- The commissioning record as power-on finds it: the one written, when either of its copies passes its check,
and none when neither does (R179, log 7). -/
def State.recordAtPowerOn (s : State) (k : StoreChecks) : Option CommRecord :=
  if k.firstRecord || k.secondRecord then s.ssl.record else none

/-- Settings and Limits after power-on, from the stored copy and the commissioning record that pass their checks
(R179, R181, R182). A copy or a record that fails is dropped for good: no later power-on finds it again
(DESIGN CHOICE, log 7). -/
def sslAtPowerOn (copy : Option StoredCopy) (record : Option CommRecord) : Ssl where
  settings := match copy with | some c => c.settings | none => defaultSettings
  limits := protectedRows record (match copy with | some c => c.limits | none => defaultLimits)
  boundary := match record, copy with
    | some r, _ => r.boundary
    | none, some c => c.boundary
    | none, none => 0
  locked := match record, copy with
    | some _, _ => true
    | none, some c => c.locked
    | none, none => false
  hostLocks := Bank.fill 21 false
  storing := none
  storeFault := copy.isNone
  copy := copy
  record := record

/-- The tables after power-on (R14). -/
def tipAtPowerOn (copy : Option StoredCopy) : Tip :=
  match copy with
  | some c => ⟨⟨c.silica, .stored⟩, ⟨c.psat, .stored⟩, ⟨c.curve, .stored⟩⟩
  | none => factoryTip

/-- The baselines after power-on (R52). -/
def baselinesAt (copy : Option StoredCopy) : Bank (Option Int) 16 :=
  match copy with | some c => c.baselines | none => Bank.fill 16 none
def hxBaselineAt (copy : Option StoredCopy) : Option Int :=
  match copy with | some c => c.hxBaseline | none => none

/-- The alarm table and the counter bank as power-on finds them (R173): kept under RETAIN when the check of
the retained memory passes. -/
def State.altAtPowerOn (s : State) (retain passes : Bool) : Alt :=
  if retain && passes then ⟨s.alt.table, false, false, s.alt.counters, .kept⟩
  else ⟨[], false, false, newCounters, if retain then .lost else .cleared⟩

/-- The channel records after power-on (R99). -/
def State.wccAtPowerOn (s : State) (kept : Bool) : Bank Well 16 :=
  if kept then Bank.ofFn fun c => retainedWell (s.wcc.get c) else Bank.fill 16 newWell

/-- The alarms each owner's records do not hold after power-on, in the order of the blocks: SCM, HXC, WCC,
TBC, BBU, FLC (R52, R74, R99, R120, R135, R148). -/
def powerOnClears (wcc : Bank Well 16) : List (AlarmCode × Source) :=
  pointNos.map (fun p => (AlarmCode.silicaSi, Source.point p))
    ++ [(AlarmCode.silicaFloorUnreachable, Source.floor), (AlarmCode.silicaStale, Source.floor)]
    ++ wells.map (fun c => (AlarmCode.flashWatch, Source.well c))
    ++ wells.map (fun c => (AlarmCode.calciteRisk, Source.well c))
    ++ wells.map (fun c => (AlarmCode.pumpFouling, Source.well c))
    ++ [(AlarmCode.hxFouling, Source.exchanger), (AlarmCode.hxIsolated, Source.exchanger),
        (AlarmCode.floorBreach, Source.exchanger)]
    ++ wells.map (fun c => (AlarmCode.wellTrip, Source.well c))
    ++ (wells.filter fun c => decide ((wcc.get c).state ≠ .lockedOut)).map
      (fun c => (AlarmCode.wellLockout, Source.well c))
    ++ [(AlarmCode.turbTrip, Source.turbine), (AlarmCode.steamShortfall, Source.turbine),
        (AlarmCode.tankHigh, Source.balance), (AlarmCode.brineOver, Source.balance)]
    ++ (List.range 63).map (fun a => (AlarmCode.stationLost, Source.station (a + 1)))

/-- Every clear of a list handed to ALT and taken. -/
def State.clearAll (s : State) (l : List (AlarmCode × Source)) : State :=
  l.foldl (fun s x => s.alarmClear x.1 x.2) s

/-- STORE_FAULT after the check of the stored copy: cleared, or raised with the value 1 (R181). POWER_ON takes it
behind every other owner's clear (DESIGN CHOICE, log 44). -/
def State.storeFaultAtPowerOn (s : State) (copy : Option StoredCopy) : State :=
  match copy with
  | some _ => s.alarmClear .storeFault .store
  | none =>
    { s with svp := { s.svp with storeFaultSeen := true } }.alarmChange .storeFault .store
      (.raise .alarm 1)

/-- The records of every block after power-on, before the alarm clears. -/
def State.poweredOn (s : State) (straps : Straps) (tripIn : Bool) (copy : Option StoredCopy)
    (record : Option CommRecord) (retainedPasses : Bool) : State :=
  let ssl := sslAtPowerOn copy record
  { pending := s.pending
    handed := []
    svp := newSvp straps
    flc := newFlc
    qtb := Bank.fill 115 newQty
    tip := tipAtPowerOn copy
    scm := newScm ssl.settings ssl.limits (baselinesAt copy) (hxBaselineAt copy)
    hxc := newHxc ssl.settings
    wcc := s.wccAtPowerOn (straps.retain && retainedPasses)
    tbc := newTbc tripIn
    bbu := newBbu ssl.settings
    sqr := Bank.fill 4 newSlot
    alt := s.altAtPowerOn straps.retain retainedPasses
    ssl := ssl
    free := s.free }

/-- FLC's first poll list and HXC's SET of 1000 for the EXCHANGER station (R74, R148); the arbiter's first
choice is part of the step (R139, log 41). -/
def State.startLink (s : State) : State :=
  { s with flc := { s.flc with pollList := s.pollsFor 0 } }.arbitrate.hand
    (if (s.entryOfKind .exchanger).isSome then [.setPlaced (.exchanger 1000)] else [])

/-- POWER_ON (R181): the straps sampled, the level of TRIP_IN, and what the checks of the stores find. The clears of
the other owners come before STORE_FAULT's change (DESIGN CHOICE, log 44), and the arbiter's first choice comes last
(log 41). -/
def execPowerOn (straps : Straps) (tripIn : Bool) (store : StoreChecks) (retainedPasses : Bool)
    (s : State) : Result :=
  .next (let copy := s.copyAtPowerOn store.copy
    let t := s.poweredOn straps tripIn copy (s.recordAtPowerOn store) retainedPasses
    ((t.clearAll (powerOnClears t.wcc)).storeFaultAtPowerOn copy).startLink)

/-! ## RESTART (R189 and the chapters' reset tables) -/

/-- The brine floor at a restart (R53). -/
def Floor.restarted (f : Floor) : Floor :=
  match f.state with
  | .fresh => { f with state := .staleHeld, clock := some 0 }
  | .staleHeld => f
  | .none => f

/-- The exchanger record at a restart (R75). -/
def Hxc.restarted (h : Hxc) : Hxc :=
  { h with
    source := if h.source = .curve then .held else h.source
    qmax := none, heat := none }

/-- The turbine record at a restart (R120). -/
def Tbc.restarted (t : Tbc) : Tbc := { t with settle := 0, inBand := false, mismatch := none }

/-- The balance at a restart (R135): the figures recomputed, one allocation with its targets handed, no
alarm change. -/
def State.restartBalance (s : State) : State :=
  let t := { s with bbu := { s.bbu with tReq := s.requirement } }
  let t := { t with bbu := t.withCeiling }
  let p := t.plan
  (t.planned p).hand (t.targetEvents p)

/-- The entries with a last demand, in ascending address order (R148). -/
def State.demandEntries (s : State) : List EntryNo :=
  (entryNos.filter fun e => (s.flc.stations.get e).lastDemand.isSome).insertionSort fun a b =>
    (s.station a).address ≤ (s.station b).address

/-- A SET for an entry's last demand. -/
def State.demandSet (s : State) (e : EntryNo) : List SetEntry :=
  match (s.flc.stations.get e).lastDemand with
  | some o => [⟨e, o, false, false⟩]
  | none => []

/-- The link at a restart (R148): retirements that waited for the abandoned exchange are taken first (log 19).
-/
def State.restartLink (s : State) : State :=
  let t := { s with flc := { s.flc with retiring := [] } }.retireAll s.flc.retiring
  { t with flc := { t.flc with
      stations := t.flc.stations.mapIdx fun _ r => { r with status := .unknown, failRun := 0 }
      setQ := t.demandEntries.flatMap t.demandSet
      tripQ := []
      flight := none } }

/-- SQR at a restart (R162): active slots become ABORTED, without notices. -/
def State.restartSlots (s : State) : State :=
  { s with sqr := s.sqr.mapIdx fun _ r =>
      if activeSlot r.state then r.aborted s.svp.plantTime .restart else r }

/-- The records that need no other block at a restart. -/
def State.restartRecords (s : State) : State :=
  { s with
    svp := { s.svp with notices := [], sending := false, selection := none }
    qtb := Bank.fill 115 newQty
    scm := { s.scm with floor := s.scm.floor.restarted }
    hxc := s.hxc.restarted
    tbc := s.tbc.restarted }

/-- A clear of STATION_LOST for every address (R148, R173). -/
def stationClears : List Instr :=
  (List.range 63).map fun a => .alarmClear .stationLost (.station (a + 1))

/-- RESTART (R189): every block takes the restart and acts as its reset table states (log 5). FLC hands ALT its
clears behind the changes it handed before, so that ALT takes them in that order (R148, R164). -/
def execRestart (s : State) : Result :=
  .next ((((s.took .restart).restartRecords.restartSlots.restartBalance.restartLink).hand
    stationClears).arbitrate)

end Sys2Proof.Machine
end

