-- ==== Sys2Proof/Machine/Dispatch.lean ====
section
/-! DEFINITION. The dispatch: one arm per row of spec/opcode_table.json. -/

namespace Sys2Proof.Machine

def exec (i : Instr) (s : State) : Host.Outcome State Fault Refusal :=
  match i with
  | .powerOn straps tripIn store retainedPasses => Sys2Proof.Machine.execPowerOn straps tripIn store retainedPasses s
  | .ident => Sys2Proof.Machine.execIdent s
  | .setTime t => Sys2Proof.Machine.execSetTime t s
  | .select object arg => Sys2Proof.Machine.execSelect object arg s
  | .operateWellTrip c => Sys2Proof.Machine.execOperateWellTrip c s
  | .operateWellUnlock c => Sys2Proof.Machine.execOperateWellUnlock c s
  | .operateTurbineTrip arg => Sys2Proof.Machine.execOperateTurbineTrip arg s
  | .operateTurbineReset arg => Sys2Proof.Machine.execOperateTurbineReset arg s
  | .operateSetBoundary p => Sys2Proof.Machine.execOperateSetBoundary p s
  | .operateCommissionLock arg => Sys2Proof.Machine.execOperateCommissionLock arg s
  | .operateRestart arg => Sys2Proof.Machine.execOperateRestart arg s
  | .restart => Sys2Proof.Machine.execRestart s
  | .selectWindowExpiry => Sys2Proof.Machine.execSelectWindowExpiry s
  | .plantTimeTick => Sys2Proof.Machine.execPlantTimeTick s
  | .readQty first count => Sys2Proof.Machine.execReadQty first count s
  | .loadTable name entries => Sys2Proof.Machine.execLoadTable name entries s
  | .readTable name => Sys2Proof.Machine.execReadTable name s
  | .evalTableForward name u => Sys2Proof.Machine.execEvalTableForward name u s
  | .evalTableInverse name c m => Sys2Proof.Machine.execEvalTableInverse name c m s
  | .readScaling sec => Sys2Proof.Machine.execReadScaling sec s
  | .readTrend first count => Sys2Proof.Machine.execReadTrend first count s
  | .captureBaseline t => Sys2Proof.Machine.execCaptureBaseline t s
  | .hxCmdOn => Sys2Proof.Machine.execHxCmdOn s
  | .hxCmdOff => Sys2Proof.Machine.execHxCmdOff s
  | .hxCmdIsolate => Sys2Proof.Machine.execHxCmdIsolate s
  | .hxCmdResume => Sys2Proof.Machine.execHxCmdResume s
  | .hxCmdOffset v => Sys2Proof.Machine.execHxCmdOffset v s
  | .readExchanger => Sys2Proof.Machine.execReadExchanger s
  | .wellCmdStart c => Sys2Proof.Machine.execWellCmdStart c s
  | .wellCmdStop c => Sys2Proof.Machine.execWellCmdStop c s
  | .wellCmdResetTrip c => Sys2Proof.Machine.execWellCmdResetTrip c s
  | .wellCmdWeight c w => Sys2Proof.Machine.execWellCmdWeight c w s
  | .readWell c => Sys2Proof.Machine.execReadWell c s
  | .turbCmdStart => Sys2Proof.Machine.execTurbCmdStart s
  | .turbCmdStop => Sys2Proof.Machine.execTurbCmdStop s
  | .turbCmdLoad v => Sys2Proof.Machine.execTurbCmdLoad v s
  | .readTurbine => Sys2Proof.Machine.execReadTurbine s
  | .balCmdMode m => Sys2Proof.Machine.execBalCmdMode m s
  | .balCmdFixedTarget v => Sys2Proof.Machine.execBalCmdFixedTarget v s
  | .readBalance => Sys2Proof.Machine.execReadBalance s
  | .readField a => Sys2Proof.Machine.execReadField a s
  | .seqLoad k steps => Sys2Proof.Machine.execSeqLoad k steps s
  | .seqRun k => Sys2Proof.Machine.execSeqRun k s
  | .seqSuspend k => Sys2Proof.Machine.execSeqSuspend k s
  | .seqResume k => Sys2Proof.Machine.execSeqResume k s
  | .seqAbort k => Sys2Proof.Machine.execSeqAbort k s
  | .readSeq k => Sys2Proof.Machine.execReadSeq k s
  | .ack code source => Sys2Proof.Machine.execAck code source s
  | .ackAll => Sys2Proof.Machine.execAckAll s
  | .readAlarms first count => Sys2Proof.Machine.execReadAlarms first count s
  | .readCounters o => Sys2Proof.Machine.execReadCounters o s
  | .readAndClear o => Sys2Proof.Machine.execReadAndClear o s
  | .setParam g j v => Sys2Proof.Machine.execSetParam g j v s
  | .getParam g j => Sys2Proof.Machine.execGetParam g j s
  | .lockGroup g => Sys2Proof.Machine.execLockGroup g s
  | .unlockGroup g => Sys2Proof.Machine.execUnlockGroup g s
  | .setLimit l v => Sys2Proof.Machine.execSetLimit l v s
  | .readLimits => Sys2Proof.Machine.execReadLimits s
  | .store => Sys2Proof.Machine.execStore s
  | .storeComplete checkPasses => Sys2Proof.Machine.execStoreComplete checkPasses s
  | .badKind kind => Sys2Proof.Machine.execBadKind kind s
  | .frameDiscarded bytes => Sys2Proof.Machine.execFrameDiscarded bytes s
  | .linkOverrun => Sys2Proof.Machine.execLinkOverrun s
  | .replyComplete => Sys2Proof.Machine.execReplyComplete s
  | .portResync => Sys2Proof.Machine.execPortResync s
  | .noticeStart => Sys2Proof.Machine.execNoticeStart s
  | .noticeComplete => Sys2Proof.Machine.execNoticeComplete s
  | .tripInAsserted => Sys2Proof.Machine.execTripInAsserted s
  | .tripInCleared => Sys2Proof.Machine.execTripInCleared s
  | .slotExpiry => Sys2Proof.Machine.execSlotExpiry s
  | .fieldReplyReceived bytes => Sys2Proof.Machine.execFieldReplyReceived bytes s
  | .replyTimeout => Sys2Proof.Machine.execReplyTimeout s
  | .setPlaced o => Sys2Proof.Machine.execSetPlaced o s
  | .tripPlaced st => Sys2Proof.Machine.execTripPlaced st s
  | .stationRetire e old => Sys2Proof.Machine.execStationRetire e old s
  | .qtbDelivery d => Sys2Proof.Machine.execQtbDelivery d s
  | .qtbStationLost kind channel => Sys2Proof.Machine.execQtbStationLost kind channel s
  | .settingChangeTaken what old => Sys2Proof.Machine.execSettingChangeTaken what old s
  | .scmUpdate u => Sys2Proof.Machine.execScmUpdate u s
  | .scmWellState c move cause => Sys2Proof.Machine.execScmWellState c move cause s
  | .scmRoleChange c role => Sys2Proof.Machine.execScmRoleChange c role s
  | .staleClockExpiry => Sys2Proof.Machine.execStaleClockExpiry s
  | .trendIntervalExpiry => Sys2Proof.Machine.execTrendIntervalExpiry s
  | .hxcUpdate u => Sys2Proof.Machine.execHxcUpdate u s
  | .hxcSp0Change old new => Sys2Proof.Machine.execHxcSp0Change old new s
  | .hxcSilicaStale raised => Sys2Proof.Machine.execHxcSilicaStale raised s
  | .hxcLinkLost => Sys2Proof.Machine.execHxcLinkLost s
  | .hxcSecondTimer => Sys2Proof.Machine.execHxcSecondTimer s
  | .heatLimitedMin => Sys2Proof.Machine.execHeatLimitedMin s
  | .wccStatusEvent e => Sys2Proof.Machine.execWccStatusEvent e s
  | .wccUpdate u => Sys2Proof.Machine.execWccUpdate u s
  | .wccFlashMargin c m => Sys2Proof.Machine.execWccFlashMargin c m s
  | .wccFlashHold c held => Sys2Proof.Machine.execWccFlashHold c held s
  | .wccLinkLost c => Sys2Proof.Machine.execWccLinkLost c s
  | .wccTarget c t => Sys2Proof.Machine.execWccTarget c t s
  | .rampTimerExpiry c => Sys2Proof.Machine.execRampTimerExpiry c s
  | .startTimerExpiry c => Sys2Proof.Machine.execStartTimerExpiry c s
  | .wccSecondTimer => Sys2Proof.Machine.execWccSecondTimer s
  | .tbcStatusEvent e => Sys2Proof.Machine.execTbcStatusEvent e s
  | .tbcUpdate u => Sys2Proof.Machine.execTbcUpdate u s
  | .tbcLinkLost => Sys2Proof.Machine.execTbcLinkLost s
  | .tbcWellDemand c => Sys2Proof.Machine.execTbcWellDemand c s
  | .tbcWellState c move cause => Sys2Proof.Machine.execTbcWellState c move cause s
  | .stageTimerExpiry => Sys2Proof.Machine.execStageTimerExpiry s
  | .tbcSecondTimer => Sys2Proof.Machine.execTbcSecondTimer s
  | .settleComplete => Sys2Proof.Machine.execSettleComplete s
  | .runupTimeout => Sys2Proof.Machine.execRunupTimeout s
  | .syncTimeout => Sys2Proof.Machine.execSyncTimeout s
  | .valveMismatch => Sys2Proof.Machine.execValveMismatch s
  | .adoptHoldEnd => Sys2Proof.Machine.execAdoptHoldEnd s
  | .bbuSteamDemand d => Sys2Proof.Machine.execBbuSteamDemand d s
  | .bbuTurbineState move cause => Sys2Proof.Machine.execBbuTurbineState move cause s
  | .bbuWellState c move cause => Sys2Proof.Machine.execBbuWellState c move cause s
  | .bbuWellDemand c => Sys2Proof.Machine.execBbuWellDemand c s
  | .bbuWellWeight c => Sys2Proof.Machine.execBbuWellWeight c s
  | .bbuFlashHold c held => Sys2Proof.Machine.execBbuFlashHold c held s
  | .bbuTankUpdate u => Sys2Proof.Machine.execBbuTankUpdate u s
  | .holdTimerExpiry => Sys2Proof.Machine.execHoldTimerExpiry s
  | .seqCommandStep k => Sys2Proof.Machine.execSeqCommandStep k s
  | .seqWaitStep k => Sys2Proof.Machine.execSeqWaitStep k s
  | .seqPauseStep k => Sys2Proof.Machine.execSeqPauseStep k s
  | .seqEndStep k => Sys2Proof.Machine.execSeqEndStep k s
  | .sqrQtyUpdate u => Sys2Proof.Machine.execSqrQtyUpdate u s
  | .sqrStateChange t move cause => Sys2Proof.Machine.execSqrStateChange t move cause s
  | .sqrTargetTripStop t what origin => Sys2Proof.Machine.execSqrTargetTripStop t what origin s
  | .sqrSecondTimer => Sys2Proof.Machine.execSqrSecondTimer s
  | .waitTimeout k => Sys2Proof.Machine.execWaitTimeout k s
  | .delayExpiry k => Sys2Proof.Machine.execDelayExpiry k s
  | .alarmChange code source ch => Sys2Proof.Machine.execAlarmChange code source ch s
  | .alarmClear code source => Sys2Proof.Machine.execAlarmClear code source s
  | .counterIncrement cs => Sys2Proof.Machine.execCounterIncrement cs s
  | .staleClockSecond => Sys2Proof.Machine.execStaleClockSecond s

end Sys2Proof.Machine
end

