-- ==== Sys2Proof/Safety.lean ====
section
/-! DEFINITION. What counts as a safe state of the part, and the words the statements use: which parts of
the state two states share, and the invariants the chapters lay down. -/

namespace Sys2Proof.Machine

/-! ## Parts of the state -/

/-- The parts a state is made of: the command queue, the events handed on, the twelve blocks, and the
counter of free values. -/
inductive Part
  | pending | handed | svp | flc | qtb | tip | scm | hxc | wcc | tbc | bbu | sqr | alt | ssl | free
  deriving DecidableEq, Repr

/-- Two states agree in every part that `l` does not list. -/
structure Frame (l : List Part) (s t : State) : Prop where
  pending : Part.pending ∉ l → t.pending = s.pending
  handed : Part.handed ∉ l → t.handed = s.handed
  svp : Part.svp ∉ l → t.svp = s.svp
  flc : Part.flc ∉ l → t.flc = s.flc
  qtb : Part.qtb ∉ l → t.qtb = s.qtb
  tip : Part.tip ∉ l → t.tip = s.tip
  scm : Part.scm ∉ l → t.scm = s.scm
  hxc : Part.hxc ∉ l → t.hxc = s.hxc
  wcc : Part.wcc ∉ l → t.wcc = s.wcc
  tbc : Part.tbc ∉ l → t.tbc = s.tbc
  bbu : Part.bbu ∉ l → t.bbu = s.bbu
  sqr : Part.sqr ∉ l → t.sqr = s.sqr
  alt : Part.alt ∉ l → t.alt = s.alt
  ssl : Part.ssl ∉ l → t.ssl = s.ssl
  free : Part.free ∉ l → t.free = s.free

/-- The parts an accepted setting or limit row can change when the block that reads it takes it. -/
def touchesTaken : Changed → List Part
  | .item (.well _ _) => [.bbu, .handed]
  | .item (.turbine _) => [.tbc, .svp, .handed]
  | .item (.exchanger _) => [.hxc, .handed]
  | .item (.scaling _) => [.handed]
  | .item (.balance _) => [.tbc, .bbu, .svp, .handed]
  | .item (.field _) => [.handed]
  | .item (.entry _ _) => [.handed]
  | .item (.qty _ _) => [.qtb, .handed]
  | .limit _ => [.scm, .handed]

/-- The parts that the taking of a written item can change, with the retirement of R137. -/
def touchesWritten : Option Item → List Part
  | none => []
  | some (.entry _ _) => [.flc, .handed]
  | some i => touchesTaken (.item i)

/-- The parts a command can change (chapters 1 to 12: each event is taken at the block that owns the state
concerned). A request changes the port, which forms its reply, and what its owner keeps; an owner that has
alarm changes, counters or other blocks' events to hand changes `handed`. -/
def touches : Instr → List Part
  | .powerOn _ _ _ _ =>
    [.handed, .svp, .flc, .qtb, .tip, .scm, .hxc, .wcc, .tbc, .bbu, .sqr, .alt, .ssl]
  | .restart => [.handed, .svp, .flc, .qtb, .scm, .hxc, .tbc, .bbu, .sqr]
  | .ident => [.svp] | .setTime _ => [.svp] | .select _ _ => [.svp]
  | .operateWellTrip _ => [.svp, .wcc, .handed] | .operateWellUnlock _ => [.svp, .wcc, .handed]
  | .operateTurbineTrip _ => [.svp, .tbc, .handed] | .operateTurbineReset _ => [.svp, .tbc, .handed]
  | .operateSetBoundary _ => [.svp, .ssl] | .operateCommissionLock _ => [.svp, .ssl]
  | .operateRestart _ => [.svp] | .selectWindowExpiry => [.svp] | .plantTimeTick => [.svp, .scm]
  | .readQty _ _ => [.svp] | .loadTable _ _ => [.svp, .tip] | .readTable _ => [.svp]
  | .evalTableForward _ _ => [.svp] | .evalTableInverse _ _ _ => [.svp] | .readScaling _ => [.svp]
  | .readTrend _ _ => [.svp, .free] | .captureBaseline _ => [.svp, .scm, .handed]
  | .hxCmdOn => [.svp, .hxc, .handed] | .hxCmdOff => [.svp, .hxc, .handed]
  | .hxCmdIsolate => [.svp, .hxc, .handed] | .hxCmdResume => [.svp, .hxc, .handed]
  | .hxCmdOffset _ => [.svp, .hxc] | .readExchanger => [.svp]
  | .wellCmdStart _ => [.svp, .wcc, .handed] | .wellCmdStop _ => [.svp, .wcc, .handed]
  | .wellCmdResetTrip _ => [.svp, .wcc, .handed] | .wellCmdWeight _ _ => [.svp, .wcc, .handed]
  | .readWell _ => [.svp] | .turbCmdStart => [.svp, .tbc, .handed]
  | .turbCmdStop => [.svp, .tbc, .handed] | .turbCmdLoad _ => [.svp, .tbc, .handed]
  | .readTurbine => [.svp] | .balCmdMode _ => [.svp, .bbu, .handed]
  | .balCmdFixedTarget _ => [.svp, .bbu, .handed] | .readBalance => [.svp] | .readField _ => [.svp]
  | .seqLoad _ _ => [.svp, .sqr] | .seqRun _ => [.svp, .sqr, .handed] | .seqSuspend _ => [.svp, .sqr]
  | .seqResume _ => [.svp, .sqr, .handed] | .seqAbort _ => [.svp, .sqr] | .readSeq _ => [.svp]
  | .ack _ _ => [.svp, .alt] | .ackAll => [.svp, .alt] | .readAlarms _ _ => [.svp]
  | .readCounters _ => [.svp] | .readAndClear _ => [.svp, .alt]
  | .setParam _ i _ => [.svp, .ssl, .handed] ++ touchesWritten i | .getParam _ _ => [.svp]
  | .lockGroup _ => [.svp, .ssl] | .unlockGroup _ => [.svp, .ssl]
  | .setLimit _ _ => [.svp, .ssl, .scm, .handed] | .readLimits => [.svp]
  | .store => [.svp, .ssl] | .storeComplete _ => [.svp, .ssl, .tip, .handed]
  | .badKind _ => [.svp] | .frameDiscarded _ => [.svp] | .linkOverrun => [.svp]
  | .replyComplete => [.svp, .handed] | .portResync => [.svp] | .noticeStart => [.svp]
  | .noticeComplete => [.svp] | .tripInAsserted => [.tbc, .svp, .handed] | .tripInCleared => [.tbc]
  | .slotExpiry => [.flc, .handed] | .fieldReplyReceived _ => [.flc, .handed]
  | .replyTimeout => [.flc, .handed] | .setPlaced _ => [.flc, .handed] | .tripPlaced _ => [.flc, .handed]
  | .stationRetire _ _ => [.flc, .handed] | .qtbDelivery _ => [.qtb, .handed]
  | .qtbStationLost _ _ => [.qtb, .handed]
  | .settingChangeTaken what _ => touchesTaken what
  | .scmUpdate _ => [.scm, .handed, .free] | .scmWellState _ _ _ => [.scm, .handed]
  | .scmRoleChange _ _ => [.scm, .handed] | .staleClockExpiry => [.scm, .handed]
  | .staleClockSecond => [.scm, .handed] | .trendIntervalExpiry => [.scm]
  | .hxcUpdate _ => [.hxc, .svp, .handed] | .hxcSp0Change _ _ => [.hxc, .svp, .handed]
  | .hxcSilicaStale _ => [.hxc, .svp, .handed] | .hxcLinkLost => [.handed]
  | .hxcSecondTimer => [.hxc, .handed] | .heatLimitedMin => [.hxc, .handed]
  | .wccStatusEvent _ => [.wcc, .svp, .handed] | .wccUpdate _ => [.wcc, .svp, .handed]
  | .wccFlashMargin _ _ => [.wcc, .handed] | .wccFlashHold _ _ => [.wcc, .handed]
  | .wccLinkLost _ => [.wcc, .svp, .handed] | .wccTarget _ _ => [.wcc, .handed]
  | .rampTimerExpiry _ => [.wcc, .svp, .handed] | .startTimerExpiry _ => [.wcc, .svp, .handed]
  | .wccSecondTimer => [.wcc] | .tbcStatusEvent _ => [.tbc, .svp, .handed]
  | .tbcUpdate _ => [.tbc, .svp, .handed] | .tbcLinkLost => [.tbc, .svp, .handed]
  | .tbcWellDemand _ => [.tbc, .svp, .handed] | .tbcWellState _ _ _ => [.tbc, .svp, .handed]
  | .stageTimerExpiry => [.tbc, .svp, .handed] | .tbcSecondTimer => [.tbc, .svp, .handed]
  | .settleComplete => [.tbc, .svp, .handed] | .runupTimeout => [.tbc, .svp, .handed]
  | .syncTimeout => [.tbc, .svp, .handed] | .valveMismatch => [.tbc, .svp, .handed]
  | .adoptHoldEnd => [.tbc, .svp, .handed] | .bbuSteamDemand _ => [.bbu, .handed]
  | .bbuTurbineState _ _ => [.bbu, .handed] | .bbuWellState _ _ _ => [.bbu, .handed]
  | .bbuWellDemand _ => [.bbu, .handed] | .bbuWellWeight _ => [.bbu, .handed]
  | .bbuFlashHold _ _ => [.bbu, .handed] | .bbuTankUpdate _ => [.bbu, .svp, .handed]
  | .holdTimerExpiry => [.bbu, .handed]
  | .seqCommandStep _ => [.sqr, .svp, .handed, .hxc, .wcc, .tbc, .bbu]
  | .seqWaitStep _ => [.sqr, .svp, .handed] | .seqPauseStep _ => [.sqr, .svp, .handed]
  | .seqEndStep _ => [.sqr, .svp, .handed] | .sqrQtyUpdate _ => [.sqr, .svp, .handed]
  | .sqrStateChange _ _ _ => [.sqr, .svp, .handed]
  | .sqrTargetTripStop _ _ _ => [.sqr, .svp, .handed] | .sqrSecondTimer => [.sqr, .svp, .handed]
  | .waitTimeout _ => [.sqr, .svp, .handed] | .delayExpiry _ => [.sqr, .svp, .handed]
  | .alarmChange _ _ _ => [.alt, .svp, .handed] | .alarmClear _ _ => [.alt, .svp, .handed]
  | .counterIncrement _ => [.alt, .handed]

/-- The kind byte of a request row, none for an event (R186). -/
def requestKind : Instr → Option Byte
  | .ident => some 0x01 | .setTime _ => some 0x02 | .select _ _ => some 0x03
  | .operateWellTrip _ => some 0x04 | .operateWellUnlock _ => some 0x04
  | .operateTurbineTrip _ => some 0x04 | .operateTurbineReset _ => some 0x04
  | .operateSetBoundary _ => some 0x04 | .operateCommissionLock _ => some 0x04
  | .operateRestart _ => some 0x04 | .readQty _ _ => some 0x10 | .loadTable _ _ => some 0x18
  | .readTable _ => some 0x19 | .evalTableForward _ _ => some 0x1A
  | .evalTableInverse _ _ _ => some 0x1A | .readScaling _ => some 0x20 | .readTrend _ _ => some 0x21
  | .captureBaseline _ => some 0x22 | .hxCmdOn => some 0x28 | .hxCmdOff => some 0x28
  | .hxCmdIsolate => some 0x28 | .hxCmdResume => some 0x28 | .hxCmdOffset _ => some 0x28
  | .readExchanger => some 0x29 | .wellCmdStart _ => some 0x30 | .wellCmdStop _ => some 0x30
  | .wellCmdResetTrip _ => some 0x30 | .wellCmdWeight _ _ => some 0x30 | .readWell _ => some 0x31
  | .turbCmdStart => some 0x38 | .turbCmdStop => some 0x38 | .turbCmdLoad _ => some 0x38
  | .readTurbine => some 0x39 | .balCmdMode _ => some 0x40 | .balCmdFixedTarget _ => some 0x40
  | .readBalance => some 0x41 | .readField _ => some 0x48 | .seqLoad _ _ => some 0x50
  | .seqRun _ => some 0x51 | .seqSuspend _ => some 0x52 | .seqResume _ => some 0x53
  | .seqAbort _ => some 0x54 | .readSeq _ => some 0x55 | .ack _ _ => some 0x60 | .ackAll => some 0x61
  | .readAlarms _ _ => some 0x62 | .readCounters _ => some 0x63 | .readAndClear _ => some 0x64
  | .setParam _ _ _ => some 0x70 | .getParam _ _ => some 0x71 | .lockGroup _ => some 0x72
  | .unlockGroup _ => some 0x73 | .setLimit _ _ => some 0x74 | .readLimits => some 0x75
  | .store => some 0x76 | .badKind k => some k
  | .powerOn _ _ _ _ => none | .restart => none | .selectWindowExpiry => none
  | .plantTimeTick => none | .storeComplete _ => none | .frameDiscarded _ => none
  | .linkOverrun => none | .replyComplete => none | .portResync => none | .noticeStart => none
  | .noticeComplete => none | .tripInAsserted => none | .tripInCleared => none | .slotExpiry => none
  | .fieldReplyReceived _ => none | .replyTimeout => none | .setPlaced _ => none
  | .tripPlaced _ => none | .stationRetire _ _ => none | .qtbDelivery _ => none
  | .qtbStationLost _ _ => none | .settingChangeTaken _ _ => none | .scmUpdate _ => none
  | .scmWellState _ _ _ => none | .scmRoleChange _ _ => none | .staleClockExpiry => none
  | .trendIntervalExpiry => none | .hxcUpdate _ => none | .hxcSp0Change _ _ => none
  | .hxcSilicaStale _ => none | .hxcLinkLost => none | .hxcSecondTimer => none
  | .heatLimitedMin => none | .wccStatusEvent _ => none | .wccUpdate _ => none
  | .wccFlashMargin _ _ => none | .wccFlashHold _ _ => none | .wccLinkLost _ => none
  | .wccTarget _ _ => none | .rampTimerExpiry _ => none | .startTimerExpiry _ => none
  | .wccSecondTimer => none | .tbcStatusEvent _ => none | .tbcUpdate _ => none
  | .tbcLinkLost => none | .tbcWellDemand _ => none | .tbcWellState _ _ _ => none
  | .stageTimerExpiry => none | .tbcSecondTimer => none | .settleComplete => none
  | .runupTimeout => none | .syncTimeout => none | .valveMismatch => none | .adoptHoldEnd => none
  | .bbuSteamDemand _ => none | .bbuTurbineState _ _ => none | .bbuWellState _ _ _ => none
  | .bbuWellDemand _ => none | .bbuWellWeight _ => none | .bbuFlashHold _ _ => none
  | .bbuTankUpdate _ => none | .holdTimerExpiry => none | .seqCommandStep _ => none
  | .seqWaitStep _ => none | .seqPauseStep _ => none | .seqEndStep _ => none
  | .sqrQtyUpdate _ => none | .sqrStateChange _ _ _ => none | .sqrTargetTripStop _ _ _ => none
  | .sqrSecondTimer => none | .waitTimeout _ => none | .delayExpiry _ => none
  | .alarmChange _ _ _ => none | .alarmClear _ _ => none | .counterIncrement _ => none
  | .staleClockSecond => none

/-- The OPERATE of an object with an argument (R188). -/
def operateOf : SelObject → Nat → Instr
  | .wellTrip, a => .operateWellTrip a | .wellUnlock, a => .operateWellUnlock a
  | .turbineTrip, a => .operateTurbineTrip a | .turbineReset, a => .operateTurbineReset a
  | .setBoundary, a => .operateSetBoundary a | .commissionLock, a => .operateCommissionLock a
  | .restart, a => .operateRestart a

/-- The largest argument of an object (R188). -/
def lastArg : SelObject → Nat
  | .wellTrip => 15 | .wellUnlock => 15 | .turbineTrip => 0 | .turbineReset => 0 | .setBoundary => 55
  | .commissionLock => 0 | .restart => 0

/-- No request is in progress (R184). -/
def State.portIdle (s : State) : Prop := s.svp.reply = none

/-- A request is answered with a status and content, and the part is left as it was but for the port. -/
def State.onlyAnswers (s : State) (i : Instr) (kind : Byte) (st : Status) (c : Content := .none) : Prop :=
  exec i s = .next (s.deselect.answer kind st c)

/-! ## The bytes of replies and notices -/

/-- A number in `n` bytes, most significant first and two's complement (R193). -/
def bytesOf (n : Nat) (v : Int) : List Byte :=
  (List.range n).map fun j => BitVec.ofInt 8 (v / 256 ^ (n - 1 - j))

/-- The fields of a layout one after another: each its size and its value. -/
def laidOut (l : List (Nat × Int)) : List Byte := l.flatMap fun x => bytesOf x.1 x.2

/-- The two bytes that open a reply body (R193). -/
def headerOf (st : Status) (f : Flags) : List Byte :=
  laidOut [(1, ([.ok, .clamped, .busy, .badKind, .badValue, .badTable, .refusedState, .refusedLocked,
      .refusedClaimed, .refusedProtected, .refusedStore, .notSelected, .notFound].idxOf st : Nat)),
    (1, (if f.noticesLost then 1 else 0) + (if f.storeBusy then 2 else 0) + (if f.storeFault then 4 else 0)
      + (if f.linkOverrun then 8 else 0) + if f.alarmUnacked then 16 else 0)]

/-- The byte of an alarm source (R193). -/
def sourceByte (x : Source) : Int :=
  match x with
  | .point p => p.val | .floor => 4 | .well c => 16 + c.val | .exchanger => 32 | .turbine => 33
  | .balance => 34 | .store => 35 | .station a => 64 + a

/-- The 18 bytes of an alarm entry, with the byte at offset 3 (R163, R193). -/
def entryLaidOut (e : AlarmEntry) (third : Nat) : List Byte :=
  laidOut [(1, ([.silicaSi, .silicaFloorUnreachable, .silicaStale, .flashWatch, .calciteRisk, .pumpFouling,
      .hxFouling, .hxIsolated, .floorBreach, .wellTrip, .wellLockout, .turbTrip, .steamShortfall, .tankHigh,
      .brineOver, .stationLost, .storeFault].idxOf e.code + 1 : Nat)),
    (1, sourceByte e.source), (1, ([.watch, .alarm, .trip].idxOf e.severity : Nat)), (1, third),
    (4, e.firstRaise.toNat), (4, e.lastChange.toNat), (2, e.occurrences), (4, e.value)]

/-- The 23 bytes of a trend record (R193). -/
def trendLaidOut (x : Trend) : List Byte :=
  laidOut [(4, x.seq.toNat), (4, x.interval.toNat), (1, x.point.val),
    (1, ([.clear, .watch, .alarm].idxOf x.state : Nat)), (1, if x.staleSeen then 1 else 0), (2, x.min),
    (2, x.max), (2, x.mean), (4, x.count), (2, x.floorInUse)]

/-! ## Quantities and their updates -/

/-- The quantities each block takes up, by the table of section 2.1. SCM takes up every quantity of a well,
since an update that lists any of them evaluates its inhibitor feed (R42). -/
def scmQtys : List QtyNo :=
  wells.flatMap (stationQtys .well)
    ++ [qSepBrineT, qReinjT, qMixT, qHxOutT, qHxBrineFlow, qHxDp, qSilica]
def hxcQtys : List QtyNo :=
  [qHxInT, qHxOutT, qHxBrineFlow, qNetSupplyT, qNetReturnT, qNetFlow, qOutdoorT]
def wccQtys : List QtyNo := wells.flatMap fun c => [qFlow c, qCurrent c]
def tbcQtys : List QtyNo := stationQtys .turbine 0
def bbuQtys : List QtyNo := [qTankLevel]

/-- What an update lists of some quantities. -/
def listed (qs : List QtyNo) (u : Update) : Update where
  values := u.values.filter fun x => decide (x.1 ∈ qs)
  changes := u.changes.filter fun x => decide (x.1 ∈ qs)
  shown := u.shown
  before := u.before

/-- An update lists nothing. -/
def listsNothing (u : Update) : Prop := u.values = [] ∧ u.changes = []

/-- An update handed to its takers: each block that takes up a listed quantity gets what it lists of the block's
quantities, and SQR gets the whole (R27; the order of the blocks is log 21). -/
def UpdateHanded (u : Update) (l : List Instr) : Prop :=
  ∃ part : List QtyNo → (Update → Instr) → List Instr,
    (∀ qs mk, (listsNothing (listed qs u) → part qs mk = [])
      ∧ (¬listsNothing (listed qs u) → part qs mk = [mk (listed qs u)]))
    ∧ ∃ whole, (listsNothing u → whole = []) ∧ (¬listsNothing u → whole = [.sqrQtyUpdate u])
      ∧ l = part scmQtys .scmUpdate ++ part hxcQtys .hxcUpdate ++ part wccQtys .wccUpdate
        ++ part tbcQtys .tbcUpdate ++ part bbuQtys .bbuTankUpdate ++ whole

/-- An update shows the quantities of its station as they stand in `t`, whatever has changed when a taker reads
them from it; the quantities of the other stations are read as they stand then (R27). -/
def ShowsStation (u : Update) (station : List QtyNo) (t : State) : Prop :=
  ∀ (qs : List QtyNo) (z : State) (q : QtyNo),
    (q ∈ station → (listed qs u).stateOf z q = (t.qtb.get q).state
      ∧ ((t.qtb.get q).state = .valid → (listed qs u).valid z q = some (t.reported q))
      ∧ ((t.qtb.get q).state ≠ .valid → (listed qs u).valid z q = none))
    ∧ (q ∉ station → u.newValue q = none → u.change q = none →
      (listed qs u).stateOf z q = (z.qtb.get q).state
      ∧ ((z.qtb.get q).state = .valid → (listed qs u).valid z q = some (z.reported q))
      ∧ ((z.qtb.get q).state ≠ .valid → (listed qs u).valid z q = none))

/-- An update keeps, for every taker, how the quantities of its station stood in `s`, before its event (log 42). -/
def KeepsBefore (u : Update) (station : List QtyNo) (s : State) : Prop :=
  ∀ (qs : List QtyNo) (q : QtyNo),
    (q ∈ station → (listed qs u).before.lookup q = some ((s.qtb.get q).state, s.reported q))
    ∧ (q ∉ station → (listed qs u).before.lookup q = none)

/-- A taker's events are those that `mine` says, and at any other event the taker meets a quantity in the state
and at the value `x`: as it stood before the oldest update it has been handed and not yet taken, or, when none
waits, as the quantity table has it; a quantity UNPRIMED since is met as such (R115, R127, log 42). -/
def TakerMeets (mine : Instr → Option Update) (s : State) (q : QtyNo) (x : QState × Int) : Prop :=
  ((s.qtb.get q).state = .unprimed → x = (.unprimed, s.reported q))
  ∧ ((s.qtb.get q).state ≠ .unprimed →
    (∀ before e after u, s.handed = before ++ e :: after → mine e = some u → ∀ y, u.before.lookup q = some y →
      (∀ e' ∈ before, ∀ u', mine e' = some u' → u'.before.lookup q = none) → x = y)
    ∧ ((∀ e ∈ s.handed, ∀ u, mine e = some u → u.before.lookup q = none) →
      x = ((s.qtb.get q).state, s.reported q)))

/-- A setting of a quantity acts on its record (R18): an end of the range takes a value outside it to the nearer
end and hands nothing, a weight does nothing, and an erasure limit at or below the run makes a PRIMING or VALID
quantity STALE and hands the update. -/
def QtySettingActs (q : QtyNo) (i : QtyItem) (s t : State) : Prop :=
  ∃ r, r = s.qtb.get q
    ∧ (i = .weight → t = s)
    ∧ (i = .rangeLow ∨ i = .rangeHigh → ∃ y, t = { s with qtb := s.qtb.set q { r with y := y } }
      ∧ (r.state = .unprimed → y = r.y)
      ∧ (r.state ≠ .unprimed →
        (s.reported q < s.qtySet q .rangeLow → y = 16 * s.qtySet q .rangeLow)
        ∧ (s.qtySet q .rangeLow ≤ s.reported q → s.qtySet q .rangeHigh < s.reported q →
          y = 16 * s.qtySet q .rangeHigh)
        ∧ (s.qtySet q .rangeLow ≤ s.reported q → s.reported q ≤ s.qtySet q .rangeHigh → y = r.y)))
    ∧ (i = .eraseLimit → ∀ due : Prop,
      (due ↔ (r.state = .priming ∨ r.state = .valid) ∧ s.qtySet q .eraseLimit ≤ r.run) →
      (¬due → t = s)
      ∧ (due → ∃ u l kind c, t = { s with
          qtb := s.qtb.set q { r with state := .stale, prime := 0 }
          handed := s.handed ++ l }
        ∧ u.values = [] ∧ u.changes = [(q, r.state, .stale)] ∧ q ∈ stationQtys kind c
        ∧ ShowsStation u (stationQtys kind c) t ∧ KeepsBefore u (stationQtys kind c) s ∧ UpdateHanded u l))

/-! ## Records of the chapters -/

/-- A fouling record at an update, and the alarm changes handed: the comparison of R44 and the table of
R45, its rows in their order (log 43). -/
def FoulingStep (s : State) (u : Update) (flowQ dpQ : QtyNo) (rated : Int) (code : AlarmCode)
    (src : Source) (r r' : Fouling) (l : List Instr) : Prop :=
  let lists := u.listsValue flowQ = true ∨ u.listsValue dpQ = true
  let watch := s.scaleSet .foulWatch
  let alarm := s.scaleSet .foulAlarm
  let hyst := s.scaleSet .foulHyst
  (¬lists ∨ u.valid s flowQ = none ∨ u.valid s dpQ = none ∨ r.baseline = none
      ∨ (∃ f, u.valid s flowQ = some f ∧ s.scaleSet .foulBand * rated < |f - rated| * 1000) →
    r' = r ∧ l = [])
  ∧ ∀ f d b, lists → u.valid s flowQ = some f → u.valid s dpQ = some d → r.baseline = some b →
    |f - rated| * 1000 ≤ s.scaleSet .foulBand * rated →
    ∃ rise st, rise = (d * 1000 + b / 2) / b ∧ r' = ⟨some b, some rise, st⟩
      ∧ (r.state = .none → alarm ≤ rise → st = .alarm ∧ l = [.alarmChange code src (.raise .alarm rise)])
      ∧ (r.state = .none → rise < alarm → watch ≤ rise →
        st = .watch ∧ l = [.alarmChange code src (.raise .watch rise)])
      ∧ (r.state = .none → rise < alarm → rise < watch → st = .none ∧ l = [])
      ∧ (r.state = .watch → alarm ≤ rise →
        st = .alarm ∧ l = [.alarmChange code src (.escalate .alarm rise)])
      ∧ (r.state = .watch → rise < alarm → rise < watch - hyst → st = .none ∧ l = [.alarmClear code src])
      ∧ (r.state = .watch → rise < alarm → watch - hyst ≤ rise → st = .watch ∧ l = [])
      ∧ (r.state = .alarm → rise < alarm - hyst → watch - hyst ≤ rise →
        st = .watch ∧ l = [.alarmChange code src (.deescalate .watch)])
      ∧ (r.state = .alarm → rise < watch - hyst → st = .none ∧ l = [.alarmClear code src])
      ∧ (r.state = .alarm → alarm - hyst ≤ rise → watch - hyst ≤ rise → st = .alarm ∧ l = [])

/-- An isolation cause is added to the exchanger's set, and `l` are the events handed (R62, R63, R66): the
first cause outside ISOLATED isolates, any other joins the set and does nothing more. -/
def Isolates (k : IsoCause) (s t : State) (l : List Instr) : Prop :=
  (s.hxc.causes.has k = true ∨ s.hxc.mode = .isolated →
    t.hxc = { s.hxc with causes := s.hxc.causes.put true k } ∧ t.svp = s.svp ∧ l = [])
  ∧ (s.hxc.causes.has k = false → s.hxc.mode ≠ .isolated →
    t.hxc = { s.hxc with
        causes := s.hxc.causes.put true k, mode := .isolated, bypass := 1000, breachRun := 0
        breach := false }
    ∧ t.svp = (s.notify
      [.state .exchanger (.exchanger s.hxc.mode) (.exchanger .isolated) none]).svp
    ∧ l = (if s.hxc.bypass ≠ 1000 ∧ (s.entryOfKind .exchanger).isSome then
          [Instr.setPlaced (.exchanger 1000)] else [])
        ++ (if s.hxc.breach then [.alarmClear .floorBreach .exchanger] else [])
        ++ [.alarmChange .hxIsolated .exchanger (.raise .alarm
              (match k with | .sp0Alarm => 1 | .silicaStale => 2 | .outletStale => 3 | .host => 4)),
            .counterIncrement [.isolations], .sqrTargetTripStop .exchanger .trip (.cause none),
            .sqrStateChange .exchanger (.exchanger s.hxc.mode, .exchanger .isolated) none])

/-- The notice of a change of a target's state, and none when the state stays (R66, R95, R118, R134). -/
def State.noticed (s : State) (t : Target) (old new : TargetState) (cause : Option Nat) : State :=
  if old = new then s else s.notify [.state t old new cause]

/-- The event that hands SQR a change of a target's state, and none when the state stays. -/
def changed (t : Target) (old new : TargetState) : List Instr :=
  if old = new then [] else [.sqrStateChange t (old, new) none]

/-- The events of a change of a well's state that is no trip, one to each taker (R95). -/
def wellMoves (c : WellNo) (old new : WellState) : List Instr :=
  [.bbuWellState c (old, new) none, .tbcWellState c (old, new) none, .scmWellState c (old, new) none,
    .sqrStateChange (.well c) (.well old, .well new) none]

/-- A trip of a well with cause `k`, whose code is the one R89 gives it: the record, the notice, and `l` the
events handed in the order of R89, R92 and R95, the change of state to each of its takers with the cause. -/
def WellTrips (c : WellNo) (k : WellCause) (s t : State) (l : List Instr) : Prop :=
  ∃ (w : Well) (times : List U32) (n : Nat) (new : WellState) (code : Nat), w = s.wcc.get c
    ∧ times = (w.history ++ [s.svp.plantTime]).drop (w.history.length + 1 - 7)
    ∧ n = (times.filter fun x =>
        decide (((s.svp.plantTime - x).toNat : Int) ≤ s.wellSet c .lockoutWindow * 60)).length
    ∧ new = (if s.wellSet c .lockoutCount ≤ n then .lockedOut else .tripped)
    ∧ code = (match k with
      | .linkLost => 1 | .driveFault => 2 | .overcurrent => 3 | .flash => 4 | .dryRun => 5
      | .startFail => 6 | .operator => 7)
    ∧ t.wcc = s.wcc.set c { w with
        state := new, history := times, demand := 0, ramp := false, startLeft := none, ocRun := 0
        flashRun := 0, dryRun := 0, lastCause := some k, cooldown := (s.wellSet c .cooldown).toNat }
    ∧ t.svp = (s.notify [.state (.well c) (.well w.state) (.well new) (some code)]).svp
    ∧ l = (if new = .lockedOut then [Instr.alarmChange .wellLockout (.well c) (.raise .alarm n)] else [])
      ++ (if (s.entryOfWell c).isSome then [Instr.setPlaced (.well c 0)] else [])
      ++ [.bbuWellDemand c, .tbcWellDemand c]
      ++ (if (s.entryOfWell c).isSome then [Instr.tripPlaced (.well c)] else [])
      ++ [.counterIncrement [.wellTrips c k], .alarmChange .wellTrip (.well c) (.raise .trip code)]
      ++ [.bbuWellState c (w.state, new) (some k), .tbcWellState c (w.state, new) (some k),
        .scmWellState c (w.state, new) (some k),
        .sqrTargetTripStop (.well c) .trip (.cause (some (.well k))),
        .sqrStateChange (.well c) (.well w.state, .well new) (some (.well k))]

/-- The status event's decision: in STARTING and RUNNING the highest cause that holds trips the channel, and
with none the state stays (R88, R90). -/
def ReplyDecides (c : WellNo) (s t : State) (l : List Instr) : Prop :=
  ∃ (w : Well) (persist : Int) (fault oc flash dry : Prop), w = s.wcc.get c
    ∧ persist = s.wellSet c .tripPersist
    ∧ (fault ↔ w.fault = some true ∨ w.run = some false ∧ w.state = .running)
    ∧ (oc ↔ persist ≤ w.ocRun) ∧ (flash ↔ s.role c = .production ∧ persist ≤ w.flashRun)
    ∧ (dry ↔ s.role c = .production ∧ w.state = .running ∧ persist ≤ w.dryRun)
    ∧ (w.state ≠ .starting ∧ w.state ≠ .running ∨ s.role c = .unused
        ∨ ¬fault ∧ ¬oc ∧ ¬flash ∧ ¬dry → t = s ∧ l = [])
    ∧ (w.state = .starting ∨ w.state = .running → s.role c ≠ .unused →
      (fault → WellTrips c .driveFault s t l) ∧ (¬fault → oc → WellTrips c .overcurrent s t l)
      ∧ (¬fault → ¬oc → flash → WellTrips c .flash s t l)
      ∧ (¬fault → ¬oc → ¬flash → dry → WellTrips c .dryRun s t l))

/-- The turbine record on a move into OFFLINE, WARMING, RUNUP, SYNC_WAIT or TRIPPED, before the state's own
fields: the clocks and runs of R111 to R113 at rest, an adoption hold ended, and the figures of R109 when the
move ends a shortfall. -/
def State.turbineInto (s : State) (st : TurbState) : Tbc :=
  { s.tbc with
    state := st, inletRun := 0, mismatch := none, hold := 0, shortRun := 0, shortfall := false
    steamAvail := if s.tbc.shortfall then s.steamAvailable else s.tbc.steamAvail
    ceiling := if s.tbc.shortfall then s.steamAvailable * s.turbSet .steamRate else s.tbc.ceiling }

/-- The clear of STEAM_SHORTFALL that such a move hands when the alarm stands (R111). -/
def State.shortfallClear (s : State) : List Instr :=
  if s.tbc.shortfall then [.alarmClear .steamShortfall .turbine] else []

/-- TBC's record becomes `r`: its steam demand is the one of R110, the order is sent when it has changed or
`sent` says so and no adoption hold runs (R102, R117), a changed steam demand goes to BBU, then `extra`, then
the change of state (R118). -/
def TurbineTakes (sent : Bool) (extra : List Instr) (s : State) (r : Tbc) (t : State) : Prop :=
  ∃ d, (r.state = .offline ∨ r.state = .tripped → d = 0)
    ∧ (r.state = .warming ∨ r.state = .runup ∨ r.state = .syncWait → d = s.turbSet .warmSteam)
    ∧ (r.state = .loaded →
      d = (r.loadDemand + s.turbSet .steamRate - 1) / s.turbSet .steamRate)
    ∧ (r.state = .unloading → d = (r.load + s.turbSet .steamRate - 1) / s.turbSet .steamRate)
    ∧ t = { s with
        tbc := { r with steam := d }
        svp := (s.noticed .turbine (.turbine s.tbc.state) (.turbine r.state) none).svp
        handed := s.handed
          ++ (if (sent = true ∨ r.order ≠ s.tbc.order) ∧ r.hold = 0
              ∧ (s.entryOfKind .turbine).isSome then [Instr.setPlaced (.turbine r.order)] else [])
          ++ (if d = s.tbc.steam then [] else [.bbuSteamDemand d])
          ++ extra
          ++ (if s.tbc.state = r.state then [] else [.bbuTurbineState (s.tbc.state, r.state) none])
          ++ changed .turbine (.turbine s.tbc.state) (.turbine r.state) }

/-- A trip of the turbine with cause `k`, whose code is the one of R112: what R114 and R118 do, in their
order. -/
def TurbineTrips (k : TurbCause) (s t : State) : Prop :=
  ∃ code : Nat, code = (match k with
      | .external => 1 | .overspeed => 2 | .lowInlet => 3 | .linkLost => 4 | .valveMismatch => 5
      | .runupFail => 6 | .syncFail => 7 | .operator => 8 | .adopt => 9)
    ∧ t = { s with
      tbc := { s.turbineInto .tripped with
        stageLeft := none, settle := 0, tripOut := true, load := 0, speed := 0, admission := 0
        breakerOpen := true, lastCause := some k, steam := 0 }
      svp := (s.notify [.state .turbine (.turbine s.tbc.state) (.turbine .tripped) (some code)]).svp
      handed := s.handed
        ++ (if (s.entryOfKind .turbine).isSome then
            [Instr.setPlaced (.turbine ⟨.valve, 0, 0, 0, true⟩), .tripPlaced .turbine] else [])
        ++ [.bbuSteamDemand 0, .counterIncrement [.turbTrips k]] ++ s.shortfallClear
        ++ [.alarmChange .turbTrip .turbine (.raise .trip code),
          .bbuTurbineState (s.tbc.state, .tripped) (some k),
          .sqrTargetTripStop .turbine .trip (.cause (some (.turbine k))),
          .sqrStateChange .turbine (.turbine s.tbc.state, .turbine .tripped) (some (.turbine k))] }

/-- The record `r` with its load setpoint `load`: a setpoint that moves takes its admission demand with it
(R102). -/
def State.turbineAt (s : State) (load : Int) (r : Tbc) : Tbc :=
  if load = r.load then r
  else { r with load := load, admission := min (s.turbSet .admNoload
    + (1000 - s.turbSet .admNoload) * load / s.turbSet .ratedLoad) 1000 }

/-- A ceiling found anew in `r` acts on its load setpoint at once: in LOADED and UNLOADING a setpoint above it
becomes the ceiling, and during the adoption hold the setpoint follows the load target (R109, R117). -/
def State.turbineUnder (s : State) (r : Tbc) : Tbc :=
  if r.state = .loaded ∧ 0 < r.hold then s.turbineAt (min r.loadDemand r.ceiling) r
  else if r.state = .loaded ∨ r.state = .unloading then s.turbineAt (min r.load r.ceiling) r
  else r

/-- The headroom of an active member (R131). -/
def headroom (m : Member) : Int := m.upper - m.minFlow

/-- A member's share of `r` among the members `l` (R131). -/
def shareOf (r : Int) (l : List Member) (m : Member) : Int := r * m.weight / (l.map Member.weight).sum

/-- What the passes of R131 give the members, in ascending channel order, of a spare `r`. At a pass where
shares exceed their headrooms those members are given it and leave; at the last pass every member is given its
share, and the remainder goes round from the lowest channel, 1 t/h at a time, to members with headroom left:
`q` whole rounds, and one more for the first `n` members. -/
inductive SharedOut : Int → List Member → (WellNo → Int) → Prop
  | none (r : Int) (g : WellNo → Int) : SharedOut r [] g
  | leave (r : Int) (l : List Member) (g : WellNo → Int)
    (some : ∃ m ∈ l, headroom m < shareOf r l m)
    (given : ∀ m ∈ l, headroom m < shareOf r l m → g m.well = headroom m)
    (rest : SharedOut (r - ((l.filter fun m => decide (headroom m < shareOf r l m)).map headroom).sum)
      (l.filter fun m => decide (shareOf r l m ≤ headroom m)) g) : SharedOut r l g
  | last (r : Int) (l : List Member) (g : WellNo → Int) (q : Int) (n : Nat)
    (fits : ∀ m ∈ l, shareOf r l m ≤ headroom m) (rounds : 0 ≤ q)
    (given : ∀ (j : Nat) (m : Member), l[j]? = some m → g m.well = shareOf r l m
      + min (headroom m - shareOf r l m) (if j < n then q + 1 else q))
    (all : (l.map fun m => g m.well).sum = min r (l.map headroom).sum) : SharedOut r l g

/-- The sum of a figure over the wells. -/
def overWells (f : WellNo → Int) : Int := (wells.map f).sum

/-- The total production demand (R121). -/
def State.productionDemand (s : State) : Int :=
  overWells fun c => if s.role c = .production then (s.wcc.get c).demand else 0

/-- Σmin (R121): MIN_FLOW over the production wells in STARTING or RUNNING. -/
def State.leastProduction (s : State) : Int :=
  overWells fun c => if s.role c = .production
    ∧ ((s.wcc.get c).state = .starting ∨ (s.wcc.get c).state = .running) then s.wellSet c .minFlow else 0

/-- A class of each well as an allocation reads it (R130, R133). -/
def State.classes (s : State) (cls : WellNo → WellClass) : Prop :=
  ∀ c, ((s.wcc.get c).state = .starting → cls c = .starting)
    ∧ ((s.wcc.get c).state = .running → s.role c = .production
      → (∃ v, s.bbu.caps.get c = some v ∧ v < s.wellSet c .minFlow) → cls c = .heldLow)
    ∧ ((s.wcc.get c).state = .running → (s.role c = .production
      → ∀ v, s.bbu.caps.get c = some v → s.wellSet c .minFlow ≤ v) → cls c = .active)
    ∧ ((s.wcc.get c).state ≠ .starting → (s.wcc.get c).state ≠ .running → cls c = .out)

/-- An allocation: the production targets for C, BRINE_OVER, the reinjection split, and the targets handed in
ascending channel order (R129 to R133). -/
def Allocates (s t : State) : Prop :=
  ∃ (cls : WellNo → WellClass) (upper : WellNo → Int) (members : Role → List Member)
    (least starting : Role → Int) (given : Role → WellNo → Int) (target : WellNo → Option Int)
    (held flow b request : Int), s.classes cls
    ∧ (∀ c, (s.role c ≠ .production ∨ s.bbu.caps.get c = none → upper c = s.wellSet c .maxFlow)
      ∧ ∀ v, s.role c = .production → s.bbu.caps.get c = some v →
        upper c = min (s.wellSet c .maxFlow) v)
    ∧ (∀ r, members r = (wells.filter fun c => decide (s.role c = r ∧ cls c = .active)).map
      fun c => ⟨c, (s.wcc.get c).weight, s.wellSet c .minFlow, upper c⟩)
    ∧ (∀ r, least r = ((members r).map Member.minFlow).sum)
    ∧ (∀ r, starting r = overWells fun c =>
      if s.role c = r ∧ cls c = .starting then s.wellSet c .minFlow else 0)
    ∧ held = overWells (fun c =>
      if s.role c = .production ∧ cls c = .heldLow then (s.wcc.get c).demand else 0)
    ∧ (∀ r x, x = (if r = .production then s.bbu.ceiling - (starting r + held) - least r
        else request - starting r - least r) →
      (x < 0 → given r = fun _ => 0) ∧ (0 ≤ x → SharedOut x (members r) (given r)))
    ∧ (∀ c, (s.role c = .unused ∨ cls c = .out ∨ cls c = .heldLow → target c = none)
      ∧ (s.role c ≠ .unused → cls c = .starting → target c = some (s.wellSet c .minFlow))
      ∧ (s.role c ≠ .unused → cls c = .active →
        target c = some (s.wellSet c .minFlow + given (s.role c) c)))
    ∧ flow = held + overWells (fun c => if s.role c = .production then (target c).getD 0 else 0)
    ∧ request = (flow * (1000 - s.balSet .steamFraction) + 999) / 1000
    ∧ b = ((starting .production + held + least .production) * (1000 - s.balSet .steamFraction) + 999)
      / 1000
    ∧ t = { s with
      bbu := { s.bbu with
        production := flow, request := request, brineOver := decide (s.bbu.capacity < b)
        rows := Bank.ofFn fun c =>
          ⟨if s.role c = .unused then none else some (cls c), target c⟩ }
      handed := s.handed
        ++ (if s.bbu.capacity < b then [Instr.alarmChange .brineOver .balance (.raise .alarm b)]
          else if s.bbu.brineOver then [.alarmClear .brineOver .balance] else [])
        ++ wells.flatMap fun c =>
          if (target c).isSome ∨ s.role c = .production ∧ cls c = .heldLow then
            [Instr.wccTarget c (target c)] else [] }

/-- R, the brine limit and C computed anew, and the allocation that follows (R126, R129). -/
def RecomputesCeiling (s t : State) : Prop :=
  ∃ r limit c, r = overWells (fun w =>
      if s.role w = .reinjection ∧ (s.wcc.get w).state = .running then s.wellSet w .maxFlow else 0)
    ∧ limit = r * 1000 / (1000 - s.balSet .steamFraction)
    ∧ (s.bbu.holdCeiling = none → c = min s.bbu.tReq limit)
    ∧ (∀ h, s.bbu.holdCeiling = some h → c = min (min s.bbu.tReq limit) h)
    ∧ Allocates { s with bbu := { s.bbu with capacity := r, brineLimit := limit, ceiling := c } } t

/-- The requirement of R124. -/
def State.requires (s : State) (v : Int) : Prop :=
  (s.bbu.mode = .power → s.bbu.afterTrip = false → v = max (s.balSet .heatBaseFlow)
    ((s.bbu.steam * 1000 + s.balSet .steamFraction - 1) / s.balSet .steamFraction))
  ∧ (s.bbu.mode = .power → s.bbu.afterTrip = true → v = s.balSet .heatBaseFlow)
  ∧ (s.bbu.mode = .heat → v = s.balSet .heatBaseFlow) ∧ (s.bbu.mode = .fixed → v = s.bbu.fixedTarget)

/-- T_req reckoned anew; a change of it tests FAST_DOWN for clearing (R124, R125). -/
def Reckons (s t : State) : Prop :=
  ∃ v, s.requires v
    ∧ (v = s.bbu.tReq ∨ v < s.productionDemand → t = { s with bbu := { s.bbu with tReq := v } })
    ∧ (v ≠ s.bbu.tReq → s.productionDemand ≤ v →
      t = { s with bbu := { s.bbu with tReq := v, fastDown := false } })

/-- Steam available and the ceiling found anew in the turbine's record, with the setpoint under it (R109). -/
def State.ceilingFound (s : State) : Tbc :=
  s.turbineUnder { s.tbc with
    steamAvail := s.steamAvailable
    ceiling := if s.tbc.shortfall = false then s.steamAvailable * s.turbSet .steamRate
      else if (s.qtb.get qSteamFlow).state = .valid then s.reported qSteamFlow * s.turbSet .steamRate
      else s.tbc.ceiling }

/-- T_req reckoned anew at a turbine event: only a change of it brings a new ceiling (R124). -/
def ReckonsAtTurbine (s t : State) : Prop :=
  ∃ v, s.requires v ∧ (v = s.bbu.tReq → t = s)
    ∧ (v ≠ s.bbu.tReq → ∃ m, Reckons s m ∧ RecomputesCeiling m t)

/-- The hold state becomes `new` with a hold ceiling; its change is noticed and handed to SQR, the alarm
changes follow, and the ceiling is computed anew (R126, R127, R134). -/
def HoldBecomes (new : HoldState) (ceiling : Option Int) (tankHigh : Bool) (alarms : List Instr)
    (s t : State) : Prop :=
  RecomputesCeiling { s with
    bbu := { s.bbu with
      hold := new, holdCeiling := ceiling, holdTimer := decide (new = HoldState.hold)
      tankHigh := tankHigh }
    svp := (s.noticed .balance (.hold s.bbu.hold) (.hold new) none).svp
    handed := s.handed ++ changed .balance (.hold s.bbu.hold) (.hold new) ++ alarms } t

/-- A TRIP entry the arbiter may send: its station is not LOST and its count is below 4 (R141). -/
def State.mayTrip (s : State) (x : TripEntry) : Bool :=
  decide ((s.flc.stations.get x.entry).status ≠ .lost ∧ x.sends < 4)

/-- A SET entry the arbiter may send: its station is not LOST (R139). -/
def State.maySet (s : State) (x : SetEntry) : Bool :=
  decide ((s.flc.stations.get x.entry).status ≠ .lost)

/-- The exchange with an entry as it starts: the station's settings and the frame sent (R142, R146). -/
def State.flightTo (s : State) (x : Exchange) (e : EntryNo) (body : List Byte) : Flight :=
  ⟨x, e, s.station e, s.entrySet e .replyTimeout,
    fieldFrame (s.station e).address
      (if x = .poll then 0x11 else if x = .set then 0x12 else 0x13) body⟩

/-- The arbiter's choice: the first line of R139's table that yields an exchange, and what starting it does to
the queues and the two counts (R139, R140, R141). -/
def Arbitrates (s t : State) : Prop :=
  (s.flc.flight.isSome = true → t = s)
  ∧ (s.flc.flight = none → ∀ trip set fits, trip = s.flc.tripQ.find? s.mayTrip →
    set = s.flc.setQ.find? s.maySet → (fits ↔ (s.flc.started : Int) < s.fieldSet .slotBudget) →
    (∀ x, trip = some x → t = { s with flc := { s.flc with
      tripQ := s.flc.tripQ.map fun y => ⟨y.entry, if y.entry = x.entry then y.sends + 1 else y.sends⟩
      flight := some (s.flightTo .trip x.entry []) } })
    ∧ (trip = none → ¬fits ∨ set = none ∧ s.flc.pollList = [] → t = s)
    ∧ (∀ x, trip = none → fits → set = some x →
      s.fieldSet .pollBurst ≤ s.flc.burst ∨ s.flc.pollList = [] → t = { s with flc := { s.flc with
        setQ := s.flc.setQ.map fun y =>
          if y.entry = x.entry then { y with inFlight := true, replaced := false } else y
        started := s.flc.started + 1, burst := 0
        flight := some (s.flightTo .set x.entry (setBody x.order)) } })
    ∧ ∀ e rest, trip = none → fits → s.flc.pollList = e :: rest →
      set = none ∨ (s.flc.burst : Int) < s.fieldSet .pollBurst → t = { s with flc := { s.flc with
        pollList := rest, started := s.flc.started + 1, burst := s.flc.burst + 1
        flight := some (s.flightTo .poll e []) } })

/-- The owner that is told LINK_LOST of a station (R136). -/
def ownerOf (st : Station) : List Instr :=
  if st.kind = .well then [.wccLinkLost st.channel]
  else if st.kind = .turbine then [.tbcLinkLost]
  else if st.kind = .exchanger then [.hxcLinkLost]
  else []

/-- An old station retired (R137). -/
def Retires (e : EntryNo) (old : Station) (s t : State) : Prop :=
  t = { s with
    flc := { s.flc with
      stations := s.flc.stations.set e ⟨.unknown, 0, none⟩
      setQ := s.flc.setQ.filter fun x => decide (x.entry ≠ e)
      tripQ := s.flc.tripQ.filter fun x => decide (x.entry ≠ e)
      pollList := s.flc.pollList.filter fun x => decide (x ≠ e) }
    handed := s.handed ++ [.qtbStationLost old.kind old.channel] ++ ownerOf old
      ++ (if (s.flc.stations.get e).status = .lost then
        [.alarmClear .stationLost (.station old.address)] else []) }

/-- Old stations retired one after another (R137). -/
def RetiresAll : List (EntryNo × Station) → State → State → Prop
  | [], s, t => t = s
  | x :: rest, s, t => ∃ m, Retires x.1 x.2 s m ∧ RetiresAll rest m t

/-- The status event a GOOD poll hands, from its values and its extra byte (R144, R146). -/
def statusOf (st : Station) (values : List (Int × Quality)) (extra : Byte) : List Instr :=
  if st.kind = .well then
    [.wccStatusEvent ⟨st.channel, extra.getLsbD 0, extra.getLsbD 1, (values.getD 0 (0, .fault)).1,
      (values.getD 0 (0, .fault)).2⟩]
  else if st.kind = .turbine then
    [.tbcStatusEvent ⟨extra.getLsbD 0, (values.getD 0 (0, .fault)).1, (values.getD 0 (0, .fault)).2,
      (values.getD 3 (0, .fault)).1, (values.getD 3 (0, .fault)).2⟩]
  else []

/-- An exchange ends in outcome `o`: it is counted, then taken by R144 when GOOD and by R143 otherwise, its
queue is settled by R140 or R141, the retirements that waited for it follow (R137), and the arbiter chooses
again. -/
def ExchangeEnds (f : Flight) (o : Outcome) (values : List (Int × Quality)) (extra : Byte)
    (s t : State) : Prop :=
  ∃ (m r : State) (old : StationRec) (qs : List QtyNo) (own : SetEntry → Bool) (run : Nat) (lost : Prop),
    old = s.flc.stations.get f.entry
    ∧ qs = stationQtys f.station.kind f.station.channel
    ∧ (∀ x, own x = true ↔ x.entry = f.entry)
    ∧ run = min (old.failRun + 1) 15
    ∧ (lost ↔ s.entrySet f.entry .failLimit ≤ run ∧ old.status ≠ .lost)
    ∧ (o = .good → ∃ tripQ setQ,
      (f.exchange = .trip → setQ = s.flc.setQ
        ∧ tripQ = s.flc.tripQ.filter fun x => decide (x.entry ≠ f.entry))
      ∧ (f.exchange ≠ .trip → tripQ = s.flc.tripQ.map fun x =>
        if x.entry = f.entry ∧ s.mayTrip x = false then { x with sends := 0 } else x)
      ∧ (f.exchange = .poll → setQ = s.flc.setQ)
      ∧ (f.exchange = .set → setQ = (s.flc.setQ.filter fun x => !own x || x.replaced).map fun x =>
        if own x then { x with inFlight := false, replaced := false } else x)
      ∧ m = { s with
        flc := { s.flc with
          flight := none, tripQ := tripQ, setQ := setQ
          stations := s.flc.stations.set f.entry { old with failRun := 0, status := .online } }
        handed := s.handed ++ [.counterIncrement [.exchanges f.entry, .outcomes f.entry .good]]
          ++ (if old.status = .lost then
            [Instr.alarmClear .stationLost (.station f.station.address)] else [])
          ++ (if f.exchange = .poll then [Instr.qtbDelivery ⟨f.station.kind, f.station.channel,
            (qs.zip values).map fun x => (x.1, .value x.2.1 x.2.2),
            if f.station.kind = .analyser then some extra else none⟩]
            ++ statusOf f.station values extra else []) })
    ∧ (o ≠ .good → ∃ status, (lost → status = .lost) ∧ (¬lost → status = old.status)
      ∧ ∀ l, (lost → l = [Instr.qtbStationLost f.station.kind f.station.channel,
          Instr.alarmChange .stationLost (.station f.station.address) (.raise .alarm
            (if o = .noReply then 1 else if o = .badCheck then 2 else if o = .wrongAddr then 3
              else 4))] ++ ownerOf f.station) → (¬lost → l = []) →
        m = { s with
          flc := { s.flc with
            flight := none
            setQ := if f.exchange = .set then s.flc.setQ.map fun x =>
              if own x then { x with inFlight := false, replaced := false } else x else s.flc.setQ
            stations := s.flc.stations.set f.entry { old with failRun := run, status := status } }
          handed := s.handed ++ [.counterIncrement [.exchanges f.entry, .outcomes f.entry o]]
            ++ (if f.exchange = .poll then [.qtbDelivery ⟨f.station.kind, f.station.channel,
              qs.map fun q => (q, .erasure), none⟩] else []) ++ l })
    ∧ RetiresAll (s.flc.retiring.filter fun x => decide (x.1 = f.entry))
      { m with flc := { m.flc with
        retiring := s.flc.retiring.filter fun x => decide (x.1 ≠ f.entry) } } r
    ∧ Arbitrates r t

/-- The answer due to an exchange: its kind byte and the length of its body (R142, R146). -/
def answerDue (x : Exchange) (k : Kind) : Byte × Nat :=
  match x with
  | .set => (0x92, 0)
  | .trip => (0x93, 0)
  | .poll => (0x91, match k with
    | .well => 31 | .turbine => 26 | .exchanger => 40 | .brine => 20 | .analyser => 6 | .weather => 5
    | .none => 0)

/-! ## Sequences -/

/-- The ten command kinds of R150. -/
def CommandKind (k : StepKind) : Prop :=
  k ≠ .waitQty ∧ k ≠ .waitState ∧ k ≠ .delay ∧ k ≠ .pause ∧ k ≠ .fin ∧ k ≠ .other

/-- What a step claims: its target, if it is a command step (R150). -/
def StepClaims (st : Step) (x : Target) : Prop :=
  CommandKind st.kind ∧ ((∃ c : WellNo, x = .well c ∧ st.target = some (.well c.val))
    ∨ (x = .turbine ∧ st.target = some .turbine) ∨ (x = .exchanger ∧ st.target = some .exchanger)
    ∨ (x = .balance ∧ st.target = some .balance))

/-- A WAIT_STATE's value names a state of its target (R150). -/
def NamesState (t : StepTarget) (x : TargetState) : Prop :=
  (∃ c y, c < 16 ∧ t = .well c ∧ x = .well y) ∨ (∃ y, t = .turbine ∧ x = .turbine y)
  ∨ (∃ y, t = .exchanger ∧ x = .exchanger y) ∨ (t = .balance ∧ ((∃ m, x = .balance m) ∨ ∃ h, x = .hold h))

/-- A step of a list of `n` is well formed (R150, R151). -/
def StepFits (n : Nat) (st : Step) : Prop :=
  let well := ∃ c, c < 16 ∧ st.target = some (.well c)
  let word := ∃ v, -32768 ≤ v ∧ v ≤ 32767 ∧ st.value = some (.num v)
  let timed := ∃ t, 1 ≤ t ∧ t ≤ 86400 ∧ st.timeout = some t
  (∀ m, st.onFail = .goto m → m < n) ∧ st.kind ≠ .other
  ∧ (st.kind = .waitQty ∨ st.kind = .waitState → timed)
  ∧ (st.kind ≠ .waitQty → st.kind ≠ .waitState → st.timeout = none)
  ∧ (st.kind = .wellStart ∨ st.kind = .wellStop → well ∧ st.value = none)
  ∧ (st.kind = .wellWeight → well ∧ word)
  ∧ (st.kind = .balMode → st.target = some .balance ∧ ∃ m, st.value = some (.mode m))
  ∧ (st.kind = .turbStart ∨ st.kind = .turbStop → st.target = some .turbine ∧ st.value = none)
  ∧ (st.kind = .turbLoad → st.target = some .turbine
    ∧ ∃ v, 0 ≤ v ∧ v ≤ 1000000 ∧ st.value = some (.num v))
  ∧ (st.kind = .hxOn ∨ st.kind = .hxOff → st.target = some .exchanger ∧ st.value = none)
  ∧ (st.kind = .hxOffset → st.target = some .exchanger ∧ word)
  ∧ (st.kind = .waitQty → ∃ q c l, q < 115 ∧ -1000 ≤ l ∧ l ≤ 60000
    ∧ st.target = some (.qty q) ∧ st.value = some (.compare c l))
  ∧ (st.kind = .waitState → ∃ t x, st.target = some t ∧ st.value = some (.state x) ∧ NamesState t x)
  ∧ (st.kind = .delay → st.target = none ∧ ∃ v, 1 ≤ v ∧ v ≤ 86400 ∧ st.value = some (.num v))
  ∧ (st.kind = .pause ∨ st.kind = .fin → st.target = none ∧ st.value = none)

/-- A slot in RUNNING, WAITING or SUSPENDED (R149). -/
def Slot.runs (r : Slot) : Prop := r.state = .running ∨ r.state = .waiting ∨ r.state = .suspended

/-- Slot `k`'s record becomes `r`, and the notice of R161 follows its change of state. -/
def SlotMoves (k : SlotNo) (r : Slot) (s t : State) : Prop :=
  ∃ old l, old = (s.sqr.get k).state
    ∧ (old = r.state ∨ (old = .running ∧ r.state = .waiting) ∨ (old = .waiting ∧ r.state = .running) →
      l = [])
    ∧ (old ≠ r.state → ¬(old = .running ∧ r.state = .waiting) → ¬(old = .waiting ∧ r.state = .running) →
      l = [.seq k old r.state r.ptr
        (if r.state = .failed ∨ r.state = .aborted then r.lastFailure else none)])
    ∧ t = { s with sqr := s.sqr.set k r, svp := (s.notify l).svp }

/-- The taking of the slot's current step becomes SQR's next event for the slot (R153). -/
def StepIsNext (k : SlotNo) (s t : State) : Prop :=
  ∃ l, (∀ st, (s.sqr.get k).steps[(s.sqr.get k).ptr]? = some st →
      (CommandKind st.kind → l = [Instr.seqCommandStep k])
      ∧ (st.kind = .waitQty ∨ st.kind = .waitState ∨ st.kind = .delay → l = [.seqWaitStep k])
      ∧ (st.kind = .pause → l = [.seqPauseStep k]) ∧ (st.kind = .fin → l = [.seqEndStep k])
      ∧ (st.kind = .other → l = []))
    ∧ ((s.sqr.get k).steps.length ≤ (s.sqr.get k).ptr → l = [])
    ∧ t = { s with handed := (s.handed.filter fun i => decide (i ≠ .seqCommandStep k
        ∧ i ≠ .seqWaitStep k ∧ i ≠ .seqPauseStep k ∧ i ≠ .seqEndStep k)) ++ l }

/-- The slot becomes RUNNING at step `n`, its timer stopped, and that step is its next event. -/
def RunsAt (k : SlotNo) (n : Nat) (s t : State) : Prop :=
  ∃ m, SlotMoves k { s.sqr.get k with
      state := .running, ptr := n, timer := .stopped, suspendedFrom := none } s m
    ∧ StepIsNext k m t

/-- The slot becomes FINISHED, and its claims are released (R155, R159). -/
def Finishes (k : SlotNo) (s t : State) : Prop :=
  SlotMoves k { s.sqr.get k with
    state := .finished, timer := .stopped, suspendedFrom := none, pendingFailure := none, claims := [] } s t

/-- The step pointer moves to the next step, or past the last one (R153, R155). -/
def MovesOn (k : SlotNo) (s t : State) : Prop :=
  ((s.sqr.get k).ptr + 1 < (s.sqr.get k).steps.length → RunsAt k ((s.sqr.get k).ptr + 1) s t)
  ∧ ((s.sqr.get k).steps.length ≤ (s.sqr.get k).ptr + 1 → Finishes k s t)

/-- The current step fails with a reason, and its on_fail applies (R156, R161). -/
def StepFails (k : SlotNo) (why : FailReason) (s t : State) : Prop :=
  ∃ (f : Failure) (r : Slot) (act : OnFail) (a b : State), f = ⟨(s.sqr.get k).ptr, why, s.svp.plantTime⟩
    ∧ (∀ st, (s.sqr.get k).steps[(s.sqr.get k).ptr]? = some st → act = st.onFail)
    ∧ ((s.sqr.get k).steps.length ≤ (s.sqr.get k).ptr → act = .abort)
    ∧ r = { s.sqr.get k with timer := .stopped, lastFailure := some f }
    ∧ a = { s with sqr := s.sqr.set k r }
    ∧ b = { a with svp := (s.notify [.seq k .running .running r.ptr (some f)]).svp }
    ∧ (act = .abort → SlotMoves k { r with
      state := .failed, suspendedFrom := none, pendingFailure := none, claims := [] } a t)
    ∧ (act = .continue → MovesOn k b t)
    ∧ ∀ n, act = .goto n → RunsAt k n b t

/-- A value meets the comparison of a WAIT_QTY (R154). -/
def Meets (c : Cmp) (v l : Int) : Prop :=
  (c = .above ∧ l < v) ∨ (c = .atLeast ∧ l ≤ v) ∨ (c = .below ∧ v < l) ∨ (c = .atMost ∧ v ≤ l)

/-- A target's state, mode or hold state. -/
def State.isIn (s : State) (t : Target) (x : TargetState) : Prop :=
  (∃ c, t = .well c ∧ x = .well (s.wcc.get c).state) ∨ (t = .turbine ∧ x = .turbine s.tbc.state)
  ∨ (t = .exchanger ∧ x = .exchanger s.hxc.mode)
  ∨ (t = .balance ∧ (x = .balance s.bbu.mode ∨ x = .hold s.bbu.hold))

/-- A step names a target. -/
def NamesTarget (st : Step) (t : Target) : Prop :=
  (∃ c : WellNo, t = .well c ∧ st.target = some (.well c.val)) ∨ (t = .turbine ∧ st.target = some .turbine)
  ∨ (t = .exchanger ∧ st.target = some .exchanger) ∨ (t = .balance ∧ st.target = some .balance)

/-- A wait step's condition, as the records stand (R154); a DELAY's never holds at once. -/
def State.waitMet (s : State) (st : Step) : Prop :=
  (st.kind = .waitQty ∧ ∃ (q : QtyNo) (c : Cmp) (l : Int), st.target = some (.qty q.val)
    ∧ st.value = some (.compare c l) ∧ (s.qtb.get q).state = .valid ∧ Meets c (s.reported q) l)
  ∨ (st.kind = .waitState ∧ ∃ t x, NamesTarget st t ∧ st.value = some (.state x) ∧ s.isIn t x)

/-- The host's request for the command that a step issues, with its kind byte (R150). -/
def HostRequest (st : Step) (i : Instr) (kind : Byte) : Prop :=
  (∃ w : WellNo, st.target = some (.well w.val) ∧ kind = 0x30
    ∧ ((st.kind = .wellStart ∧ i = .wellCmdStart w) ∨ (st.kind = .wellStop ∧ i = .wellCmdStop w)
      ∨ ∃ v, st.kind = .wellWeight ∧ st.value = some (.num v) ∧ i = .wellCmdWeight w v))
  ∨ (kind = 0x40 ∧ ∃ m, st.kind = .balMode ∧ st.value = some (.mode m) ∧ i = .balCmdMode (some m))
  ∨ (kind = 0x38 ∧ ((st.kind = .turbStart ∧ i = .turbCmdStart) ∨ (st.kind = .turbStop ∧ i = .turbCmdStop)
    ∨ ∃ v, st.kind = .turbLoad ∧ st.value = some (.num v) ∧ i = .turbCmdLoad (some v)))
  ∨ (kind = 0x28 ∧ ((st.kind = .hxOn ∧ i = .hxCmdOn) ∨ (st.kind = .hxOff ∧ i = .hxCmdOff)
    ∨ ∃ v, st.kind = .hxOffset ∧ st.value = some (.num v) ∧ i = .hxCmdOffset v))

/-- An event of a host's command as the command of a slot hands it: a STOP or an OFF carries its origin
(R157, R160). -/
def fromSlot (k : SlotNo) : Instr → Instr
  | .sqrTargetTripStop x .stop (.command .host) => .sqrTargetTripStop x .stop (.command (.slot k))
  | e => e

/-- The owner takes the command a step issues, with the slot as its origin, and replies `reply` (R150, R153,
R160). A target that another slot claims is refused, but for the two stops and OFF, which no claim refuses; any
other command has the effect and the reply of the host's request on an unclaimed target, with the slot as its
origin: it answers no request and cancels no selection. -/
def OwnerTakes (k : SlotNo) (st : Step) (s t : State) (reply : Status) : Prop :=
  (∀ x j, StepClaims st x → st.kind ≠ .wellStop → st.kind ≠ .turbStop → st.kind ≠ .hxOff → j ≠ k →
    x ∈ (s.sqr.get j).claims → x ∉ (s.sqr.get k).claims → t = s ∧ reply = .refusedClaimed)
  ∧ ∀ x, StepClaims st x →
    ((∀ j, j ≠ k → x ∉ (s.sqr.get j).claims) ∨ st.kind = .wellStop ∨ st.kind = .turbStop
      ∨ st.kind = .hxOff) →
    ∃ (i : Instr) (kind : Byte) (c : Content) (a : State) (l : List Instr), HostRequest st i kind
      ∧ exec i { s with sqr := s.sqr.mapIdx fun _ r => { r with claims := [] }
                        svp := { s.svp with reply := none } } = .next (a.answer kind reply c)
      ∧ a.handed = s.handed ++ l
      ∧ t = { a with
        sqr := s.sqr
        svp := { s.svp with notices := a.svp.notices, noticesLost := a.svp.noticesLost }
        handed := s.handed ++ l.map (fromSlot k) }

/-- What happens to each slot in turn, from slot 0 to slot 3. -/
def OverSlots (p : SlotNo → State → State → Prop) (s t : State) : Prop :=
  ∃ c : Nat → State, c 0 = s ∧ t = c 4 ∧ ∀ k : SlotNo, p k (c k) (c (k + 1))

/-- The slot is WAITING, and its current step is `st`. -/
def State.waitsOn (s : State) (k : SlotNo) (st : Step) : Prop :=
  (s.sqr.get k).state = .waiting ∧ (s.sqr.get k).steps[(s.sqr.get k).ptr]? = some st

/-- A change of a target into this state is its trip (R157). -/
def TripState (x : TargetState) : Prop :=
  x = .well .tripped ∨ x = .well .lockedOut ∨ x = .turbine .tripped ∨ x = .exchanger .isolated

/-! ## Alarms and counters -/

/-- The alarm table becomes `table` and TABLE_OVERFLOW `ovf`; ALARM_OUT is evaluated from them (R168), and the
notices `l` go to SVP in order (R169). -/
def AlarmsBecome (table : List AlarmEntry) (ovf : Bool) (l : List Notice) (s t : State) : Prop :=
  ∃ out : Bool, (out = true ↔ ovf = true ∨ ∃ e ∈ table, e.state = .activeUnacked
      ∨ e.state = .activeAcked ∧ (e.severity = .alarm ∨ e.severity = .trip))
    ∧ t = { s with
      alt := { s.alt with table := table, overflow := ovf, alarmOut := out }
      svp := (s.notify l).svp }

/-- A severity below another (R163). -/
def Below (a b : Severity) : Prop :=
  (a = .watch ∧ (b = .alarm ∨ b = .trip)) ∨ (a = .alarm ∧ b = .trip)

/-- A counter's owner and its place in the owner's reply (R171). -/
def counterAt : Counter → CounterOwner × Nat
  | .wellStarts c => (.well c, 0)
  | .wellTrips c k => (.well c, match k with
    | .linkLost => 1 | .driveFault => 2 | .overcurrent => 3 | .flash => 4 | .dryRun => 5
    | .startFail => 6 | .operator => 7)
  | .turbStarts => (.turbine, 0)
  | .turbTrips k => (.turbine, match k with
    | .external => 1 | .overspeed => 2 | .lowInlet => 3 | .linkLost => 4 | .valveMismatch => 5
    | .runupFail => 6 | .syncFail => 7 | .operator => 8 | .adopt => 9)
  | .heatLimitedMin => (.exchanger, 0)
  | .isolations => (.exchanger, 1)
  | .floorBreaches => (.exchanger, 2)
  | .exchanges e => (.entry e, 0)
  | .outcomes e o => (.entry e, match o with
    | .good => 1 | .noReply => 2 | .badCheck => 3 | .wrongAddr => 4 | .badForm => 5)
  | .deferredPolls e => (.entry e, 6)
  | .scanOverruns => (.device, 0)

/-- The alarm table when a clear has come for every entry but those that stand (R165). -/
def clearedTable (stands : AlarmEntry → Bool) (now : U32) (l : List AlarmEntry) : List AlarmEntry :=
  (l.filter fun e => stands e || decide (e.state ≠ .activeAcked)).map fun e =>
    if !stands e && decide (e.state = .activeUnacked) then
      { e with state := .clearedUnacked, lastChange := now }
    else e

/-- The notices of those clears (R169). -/
def clearNotices (stands : AlarmEntry → Bool) (now : U32) (l : List AlarmEntry) : List Notice :=
  (l.filter fun e => !stands e && decide (e.state ≠ .clearedUnacked)).map fun e =>
    if e.state = .activeAcked then .alarm e .removed
    else .alarm { e with state := .clearedUnacked, lastChange := now } .cleared

/-! ## Settings -/

/-- The order and uniqueness conditions an item's chapter lays down, on the settings of `s` (R17, R73, R78,
R101, R122, R136). -/
def State.itemOrder (s : State) : Item → Prop
  | .well c _ => s.wellSet c .startThreshold ≤ s.wellSet c .minFlow
    ∧ s.wellSet c .minFlow ≤ s.wellSet c .maxFlow
  | .turbine _ => s.turbSet .minLoad ≤ s.turbSet .ratedLoad
  | .exchanger _ => s.hxSet .supplyMin ≤ s.hxSet .supplyMax
  | .scaling _ => True
  | .balance _ => s.balSet .tankXon < s.balSet .tankXoff
  | .field _ => True
  | .entry e _ => ∀ x, x ≠ e → (s.station e).kind ≠ .none → (s.station x).kind ≠ .none →
    (s.station e).address ≠ (s.station x).address
    ∧ ((s.station e).kind = (s.station x).kind →
      (s.station e).kind = .well ∧ (s.station e).channel ≠ (s.station x).channel)
  | .qty q _ => s.qtySet q .rangeLow < s.qtySet q .rangeHigh

/-- A group is locked: by its host lock, or by the claim of a slot on its target (R176). -/
def State.isLocked (s : State) (g : Group) : Prop :=
  s.ssl.hostLocks.get (groupNo g) = true ∨ ∃ k x, groupTarget g = some x ∧ x ∈ (s.sqr.get k).claims

/-- The part with one setting written. -/
def State.setting (s : State) (i : Item) (v : Int) : State :=
  { s with ssl := { s.ssl with settings := s.ssl.settings.write i v } }

/-! ## Invariants -/

/-- An invariant that every step keeps. -/
def Kept (inv : State → Prop) : Prop := ∀ s t, inv s → step s = .next t → inv t

/-- A quantity record is one of R15: a VALID quantity alone has the prime count 4, an UNPRIMED one has
neither value nor count, and the erasure run is at most 15. -/
def Qty.legal (r : Qty) : Prop :=
  (r.state = .valid ↔ r.prime = 4) ∧ r.prime ≤ 4 ∧ (r.state = .unprimed → r.y = 0 ∧ r.prime = 0)
    ∧ r.run ≤ 15

/-- Every quantity record is legal. -/
def State.quantitiesLegal (s : State) : Prop := ∀ q, (s.qtb.get q).legal

/-- The smoothed value of a quantity that is not UNPRIMED lies in its plausible range (R15). -/
def State.valueInRange (s : State) (q : QtyNo) : Prop :=
  (s.qtb.get q).state ≠ .unprimed →
    s.qtySet q .rangeLow ≤ s.reported q ∧ s.reported q ≤ s.qtySet q .rangeHigh

/-- A quantity whose erasure run has reached its erasure limit is not VALID (R15). -/
def State.runBelowLimit (s : State) (q : QtyNo) : Prop :=
  (s.qtb.get q).state = .valid → ((s.qtb.get q).run : Int) < s.qtySet q .eraseLimit

/-- TRIP_OUT is asserted exactly in TRIPPED, and a TRIPPED turbine is ordered to nothing with its breaker
open (R100, R114). -/
def State.turbineSafe (s : State) : Prop :=
  (s.tbc.tripOut = true ↔ s.tbc.state = .tripped) ∧
    (s.tbc.state = .tripped →
      s.tbc.load = 0 ∧ s.tbc.speed = 0 ∧ s.tbc.admission = 0 ∧ s.tbc.breakerOpen = true)

/-- Outside HEATING and HEAT_LIMITED the bypass is fully open (R54, R60). -/
def State.bypassSafe (s : State) : Prop :=
  (s.hxc.mode = .off ∨ s.hxc.mode = .isolated) → s.hxc.bypass = 1000

/-- A channel record at rest: in OFF, TRIPPED and LOCKED_OUT the demand is 0; the ramp timer runs exactly in
STARTING, RUNNING and STOPPING, the start timer exactly in STARTING, the weight lies in 1 to 100 and the trip
history holds at most seven times (R76, R80, R82, R84, R85, R89). -/
def Well.legal (w : Well) : Prop :=
  (w.state = .off ∨ w.state = .tripped ∨ w.state = .lockedOut → w.demand = 0)
  ∧ (w.ramp = true ↔ w.state = .starting ∨ w.state = .running ∨ w.state = .stopping)
  ∧ (w.startLeft.isSome = true ↔ w.state = .starting)
  ∧ 1 ≤ w.weight ∧ w.weight ≤ 100 ∧ w.history.length ≤ 7

/-- Every channel record is legal. -/
def State.wellsLegal (s : State) : Prop := ∀ c, (s.wcc.get c).legal

/-- The alarm table is one of R163: at most 64 entries, no two for one code and source, and ALARM_OUT is
as R168 states. -/
def Alt.legal (a : Alt) : Prop :=
  a.table.length ≤ 64
  ∧ a.table.Pairwise (fun x y => ¬(x.code = y.code ∧ x.source = y.source))
  ∧ a.alarmOut = alarmOutOf a.table a.overflow

/-- The notice queue and the trend log stay within their sizes (R48, R187). -/
def State.storesBounded (s : State) : Prop := s.svp.notices.length ≤ 32 ∧ s.scm.trend.length ≤ 256

/-- Each station has at most one pending SET and at most one queued TRIP (R140, R141). -/
def Flc.queuesLegal (f : Flc) : Prop :=
  (f.setQ.map SetEntry.entry).Nodup ∧ (f.tripQ.map TripEntry.entry).Nodup

/-- Claims are held by active slots alone, and no target by two slots (R149, R152). -/
def State.claimsLegal (s : State) : Prop :=
  (∀ k, activeSlot (s.sqr.get k).state = false → (s.sqr.get k).claims = [])
  ∧ ∀ j k, j ≠ k → ∀ t, t ∈ (s.sqr.get j).claims → t ∉ (s.sqr.get k).claims

/-- A commissioning record stands: the lock is set, P is the record's and the rows below P are the
record's (R179). -/
def Ssl.commissioned (r : CommRecord) (x : Ssl) : Prop :=
  x.record = some r ∧ x.locked = true ∧ x.boundary = r.boundary
    ∧ ∀ l : RowNo, l.val < r.boundary → x.limits.get l = r.limits.get l

/-- Every value of a settings record lies in its item's range. -/
def Settings.inRange (t : Settings) : Prop :=
  ∀ i, (itemRange i).lo ≤ t.read i ∧ t.read i ≤ (itemRange i).hi

/-- Every row of a limit table lies in its range. -/
def rowsInRange (b : Bank Int 55) : Prop :=
  ∀ l, (limitRange l).lo ≤ b.get l ∧ b.get l ≤ (limitRange l).hi

/-- The orders the chapters lay between settings of one record: of every well's flows, the turbine's loads,
the exchanger's supply limits, the tank levels and every plausible range (R17, R73, R78, R101, R122). -/
def Settings.inOrder (t : Settings) : Prop :=
  (∀ c, t.read (.well c .startThreshold) ≤ t.read (.well c .minFlow)
    ∧ t.read (.well c .minFlow) ≤ t.read (.well c .maxFlow))
  ∧ t.read (.turbine .minLoad) ≤ t.read (.turbine .ratedLoad)
  ∧ t.read (.exchanger .supplyMin) ≤ t.read (.exchanger .supplyMax)
  ∧ t.read (.balance .tankXon) < t.read (.balance .tankXoff)
  ∧ ∀ q, t.read (.qty q .rangeLow) < t.read (.qty q .rangeHigh)

/-- No two stations of the table stand at one address, none but WELL stations share a kind, and no two WELL
stations a channel (R136). -/
def Settings.stationsApart (t : Settings) : Prop :=
  ∀ e x kind other, e ≠ x → kind = kindOfCode (t.read (.entry e .kind)) →
    other = kindOfCode (t.read (.entry x .kind)) → kind ≠ .none → other ≠ .none →
    t.read (.entry e .address) ≠ t.read (.entry x .address)
    ∧ (kind = other → kind = .well ∧ t.read (.entry e .channel) ≠ t.read (.entry x .channel))

/-- The settings and limit rows in force, those of the stored copy, those a STORE is writing and those of the
commissioning record are ones the chapters allow, and P is at most 55 (R136, R174, R177, R178). -/
def Ssl.legal (x : Ssl) : Prop :=
  (x.settings.inRange ∧ x.settings.inOrder ∧ x.settings.stationsApart ∧ rowsInRange x.limits
    ∧ x.boundary ≤ 55)
  ∧ (∀ c, x.copy = some c ∨ x.storing = some c → c.settings.inRange ∧ c.settings.inOrder
    ∧ c.settings.stationsApart ∧ rowsInRange c.limits ∧ c.boundary ≤ 55)
  ∧ ∀ r, x.record = some r → rowsInRange r.limits ∧ r.boundary ≤ 55

/-- A table holds entries of its kind (R3). -/
def wellFormedAs (n : TableName) (b : Bank Int 17) : Prop := offendingIndex n b.rows = none

/-- The three tables in force, and those of the stored copy and of the copy a STORE writes, are well-formed
(R3, R4). -/
def State.tablesLegal (s : State) : Prop :=
  (∀ n, wellFormedAs n (s.tbl n))
  ∧ ∀ c, s.ssl.copy = some c ∨ s.ssl.storing = some c →
    wellFormedAs .silica c.silica ∧ wellFormedAs .psat c.psat ∧ wellFormedAs .curve c.curve

/-! ## Settings and limit rows taken -/

/-- The settings that only the later events of their readers read: their taking changes nothing (R34, R51, R73,
R78, R101, R122, R138, R147). -/
def readLater : Item → Prop
  | .scaling _ => True | .field _ => True | .entry _ _ => True | .qty _ x => x = .weight
  | .turbine x => x ≠ .ratedLoad ∧ x ≠ .steamRate ∧ x ≠ .warmSteam
  | .balance x => x ≠ .steamFraction ∧ x ≠ .heatBaseFlow
  | .exchanger x => x ≠ .supplyMin ∧ x ≠ .supplyMax ∧ x ≠ .fallbackSupply
  | .well _ x => x ≠ .role ∧ x ≠ .minFlow ∧ x ≠ .maxFlow

/-- The block that reads a setting takes a change of it (R18, R55, R73, R77, R101, R109, R110, R122, R126, R129);
what an allocation does is said where the well records are legal and the settings in order. -/
def ItemActs (i : Item) (s t : State) : Prop :=
  (readLater i → t = s)
  ∧ (∀ q x, i = .qty q x → QtySettingActs q x s t)
  ∧ (∀ x, i = .exchanger x → x = .supplyMin ∨ x = .supplyMax ∨ x = .fallbackSupply → ∃ base,
    (s.hxc.source = .fallback → base = s.hxSet .fallbackSupply)
    ∧ (s.hxc.source ≠ .fallback → base = s.hxc.curveBase.getD 0)
    ∧ t = { s with hxc := { s.hxc with
      target := max (s.hxSet .supplyMin) (min (s.hxSet .supplyMax) (base + s.hxc.offset)) } })
  ∧ (∀ c, i = .well c .role → t = { s with handed := s.handed ++ [.scmRoleChange c (s.role c),
    .bbuWellState c ((s.wcc.get c).state, (s.wcc.get c).state) none] })
  ∧ (∀ c x, i = .well c x → x = .minFlow ∨ x = .maxFlow →
    (s.role c = .unused ∨ s.role c = .reinjection ∧ x = .minFlow → t = s)
    ∧ (s.wellsLegal → s.ssl.settings.inOrder → (s.role c = .production → Allocates s t)
      ∧ (s.role c = .reinjection → x = .maxFlow → RecomputesCeiling s t)))
  ∧ (i = .turbine .ratedLoad → TurbineTakes false [] s
    { s.tbc with loadDemand := min s.tbc.loadDemand (s.turbSet .ratedLoad) } t)
  ∧ (i = .turbine .warmSteam → TurbineTakes false [] s s.tbc t)
  ∧ (i = .turbine .steamRate → TurbineTakes false [] s s.ceilingFound t)
  ∧ (s.wellsLegal → s.ssl.settings.inOrder →
    (i = .balance .heatBaseFlow → ∃ b, Reckons s b ∧ RecomputesCeiling b t)
    ∧ (i = .balance .steamFraction → ∃ a b, TurbineTakes false [] s s.ceilingFound a ∧ Reckons a b
      ∧ RecomputesCeiling b t))

/-- The block that reads a limit row takes a change of it: L5 and L6 act at once, and every other row at its
reader's next event (R38, R39, R177). -/
def RowActs (l : RowNo) (s t : State) : Prop :=
  (l ≠ 5 → l ≠ 6 → t = s)
  ∧ (l = 5 → (s.scm.floor.state ≠ .none → t = s)
    ∧ (s.scm.floor.state = .none →
      t = { s with scm := { s.scm with floor := { s.scm.floor with inUse := s.limit 5 } } }))
  ∧ (l = 6 → (s.scm.floor.clock = none ∨ s.scm.floor.silicaStale = true → t = s)
    ∧ ∀ n : Nat, s.scm.floor.clock = some n → s.scm.floor.silicaStale = false →
      ((n : Int) < s.limit 6 * 60 → t = s)
      ∧ (s.limit 6 * 60 ≤ (n : Int) → t = { s with
        scm := { s.scm with floor := { s.scm.floor with silicaStale := true } }
        handed := s.handed ++ [.alarmChange .silicaStale .floor (.raise .alarm ((n / 60 : Nat) : Int)),
          .hxcSilicaStale true] }))

end Sys2Proof.Machine
end

