-- ==== Sys2Proof/Certificates/Slice0/Obligations.lean ====
section
/-! DEFINITION. The statements for the provers, block by block. Each docstring names the rules a statement
formalises, or the log entry of a choice of the model. -/

open Sys2Proof Sys2Proof.Machine

/-! ## The step -/

/-- A step runs the command at the front of the queue on the state with the queue's rest. With no command
waiting it takes the oldest event handed on (log 1), and with none of either it leaves the state as it is
(log 2). -/
def Obligations.StepRunsTheFrontCommand : Prop :=
  ∀ s : State,
    (∀ (c : Instr) (rest : List Instr), s.pending = c :: rest →
      step s = exec c { s with pending := rest })
    ∧ (s.pending = [] → (∀ (e : Instr) (rest : List Instr), s.handed = e :: rest → step s = exec e s)
      ∧ (s.handed = [] → step s = .next s))

/-- Every command completes in every state, and changes only the parts of the state that its rules name
(`touches`). -/
def Obligations.EveryCommandChangesOnlyItsParts : Prop :=
  ∀ (i : Instr) (s : State), ∃ t, exec i s = .next t ∧ Frame (touches i) s t

/-! ## Supervisory Port -/

/-- A good frame that completes while a request is in progress is discarded with LINK_OVERRUN, whatever it
asks (R184). -/
def Obligations.BusyPortDiscardsRequests : Prop :=
  ∀ (i : Instr) (k : Byte) (s : State), requestKind i = some k ∨ i = .linkOverrun →
    s.svp.reply.isSome = true →
    exec i s = .next { s with svp := { s.svp with linkOverrun := true, rx := [] } }

/-- Every request is answered with its own kind and the port flags of R185, which clears the event flags: a
STORE_FAULT seen is shown once, and again only while it stands; only a SELECT leaves a selection (R180, R184,
R185, R188, R189). -/
def Obligations.EveryRequestIsAnswered : Prop :=
  ∀ (i : Instr) (k : Byte) (s : State), requestKind i = some k → s.portIdle →
    ∃ t r, exec i s = .next t ∧ t.svp.reply = some r ∧ r.kind = k
      ∧ r.flags.linkOverrun = s.svp.linkOverrun
      ∧ (s.svp.noticesLost = true → r.flags.noticesLost = true)
      ∧ r.flags.storeBusy = (t.storeBusy || s.svp.storeBusySeen)
      ∧ r.flags.storeFault = (t.ssl.storeFault || s.svp.storeFaultSeen)
      ∧ r.flags.alarmUnacked = alarmUnackedOf t.alt.table
      ∧ t.svp.noticesLost = false ∧ t.svp.linkOverrun = false
      ∧ t.svp.storeBusySeen = t.storeBusy ∧ t.svp.storeFaultSeen = false
      ∧ ((∀ o a, i ≠ .select o a) → t.svp.selection = none)

/-- SELECT cancels the old selection and records an object with an argument in its range; the window's
expiry cancels the selection; an OPERATE that no selection with the same object and argument precedes does
nothing but use up the selection. The OPERATE of RESTART is answered OK, and the restart is handed on when that
reply has been sent; the last byte of any reply ends the request in progress (R184, R188, R189). -/
def Obligations.SelectOperateAndRestart : Prop :=
  (∀ (s : State) (o : SelObject) (a : Nat),
      exec .selectWindowExpiry s = .next { s with svp := { s.svp with selection := none } }
      ∧ (s.portIdle →
        (a ≤ lastArg o → exec (.select (some o) a) s
          = .next ({ s with svp := { s.svp with selection := some (o, a) } }.answer 0x03 .ok .none))
        ∧ (lastArg o < a → exec (.select (some o) a) s
          = .next ({ s with svp := { s.svp with selection := none } }.answer 0x03 .badValue .none))
        ∧ exec (.select none a) s
          = .next ({ s with svp := { s.svp with selection := none } }.answer 0x03 .badValue .none)
        ∧ (a ≤ lastArg o → s.svp.selection ≠ some (o, a) → exec (operateOf o a) s
          = .next ({ s with svp := { s.svp with selection := none } }.answer 0x04 .notSelected .none))
        ∧ (lastArg o < a → exec (operateOf o a) s
          = .next ({ s with svp := { s.svp with selection := none } }.answer 0x04 .badValue .none))))
  ∧ (∀ s : State,
      (s.portIdle → s.svp.selection = some (.restart, 0) → exec (.operateRestart 0) s
        = .next ({ s with svp := { s.svp with selection := none, restartDue := true } }.answer 0x04 .ok
          .none))
      ∧ (s.svp.reply.isSome = true → s.svp.sending = false → s.svp.restartDue = true →
        exec .replyComplete s
          = .next { s with svp := { s.svp with reply := none, restartDue := false }
                           handed := s.handed ++ [.restart] })
      ∧ (s.svp.reply.isSome = true → s.svp.sending = false → s.svp.restartDue = false →
        exec .replyComplete s = .next { s with svp := { s.svp with reply := none } })
      ∧ ((s.svp.reply = none ∨ s.svp.sending = true) → exec .replyComplete s = .next s))

/-- A notice joins the tail of a queue of up to 32 or is lost with NOTICES_LOST; the head goes out when no
request is in progress, and leaves the queue when it has been sent (R187). The kind bytes of the three notices
are no request kinds: a frame of one of them is answered BAD_KIND (R186). -/
def Obligations.NoticesQueueAndGoOut : Prop :=
  ∀ (s : State) (n : Notice),
    ((∀ e m, n = .alarm e m → noticeKind n = 0xE1#8) ∧ (∀ x a b c, n = .state x a b c → noticeKind n = 0xE2#8)
      ∧ (∀ k a b p f, n = .seq k a b p f → noticeKind n = 0xE3#8)
      ∧ (s.portIdle → exec (.badKind (noticeKind n)) s
        = .next ({ s with svp := { s.svp with selection := none } }.answer (noticeKind n) .badKind .none)))
    ∧ (s.svp.notices.length < 32 →
      s.notify [n] = { s with svp := { s.svp with notices := s.svp.notices ++ [n] } })
    ∧ (32 ≤ s.svp.notices.length → s.notify [n] = { s with svp := { s.svp with noticesLost := true } })
    ∧ (s.svp.reply = none → s.svp.sending = false → s.svp.notices ≠ [] →
      exec .noticeStart s = .next { s with svp := { s.svp with sending := true } })
    ∧ ((s.svp.reply.isSome = true ∨ s.svp.sending = true ∨ s.svp.notices = []) →
      exec .noticeStart s = .next s)
    ∧ (s.svp.sending = true → exec .noticeComplete s
      = .next { s with svp := { s.svp with sending := false, notices := s.svp.notices.tail } })
    ∧ (s.svp.sending = false → exec .noticeComplete s = .next s)

/-- The receiver of R183: it discards bytes that start no frame, hunts on from the byte after the start byte
at a bad length and from the byte after the last CRC byte at a bad CRC, takes a good frame of any kind and of
any body of up to 240 bytes, and goes on with a partial frame whenever more bytes come. The CRC is the one
whose value over "123456789" is 0x29B1. Bytes that complete no good frame change nothing else (the row that
brings them is log 24). The frames the part sends have the layout of R193: the header of a reply, the alarm
entries, the trend records and the alarm notice. (What the manual gives no layout has none: log 27.) -/
def Obligations.FramesAreFoundAndLaidOut : Prop :=
  (∀ (b : Byte) (l : List Byte), b ≠ 0xC3#8 → receiver (b :: l) = receiver l)
  ∧ (∀ (hi lo : Byte) (l : List Byte), 240 < u16 hi lo →
    receiver (0xC3#8 :: hi :: lo :: l) = receiver (hi :: lo :: l))
  ∧ (∀ (kind : Byte) (body more : List Byte), body.length ≤ 240 →
    receiver (supFrame kind body ++ more) = .good kind body)
  ∧ (∀ (hi lo kind c d : Byte) (body more : List Byte), body.length = u16 hi lo → u16 hi lo ≤ 240 →
    crcBytes (hi :: lo :: kind :: body) ≠ [c, d] →
    receiver (0xC3#8 :: hi :: lo :: kind :: (body ++ c :: d :: more)) = receiver more)
  ∧ (∀ l p more : List Byte, receiver l = .partial_ p → receiver (l ++ more) = receiver (p ++ more))
  ∧ crc16 [0x31, 0x32, 0x33, 0x34, 0x35, 0x36, 0x37, 0x38, 0x39] = 0x29B1#16
  ∧ (∀ (s : State) (bytes left : List Byte), receiver (s.svp.rx ++ bytes) = .partial_ left →
    exec (.frameDiscarded bytes) s = .next { s with svp := { s.svp with rx := left } })
  ∧ (∀ (kind : Byte) (body inner : List Byte), inner = bytesOf 2 body.length ++ [kind] ++ body →
    supFrame kind body = [0xC3#8] ++ inner ++ bytesOf 2 (crc16 inner).toNat)
  ∧ (∀ r : Reply, (∀ body, replyBody r = some body → replyFrame r = some (supFrame r.kind body))
    ∧ (r.content = .none → replyBody r = some (headerOf r.status r.flags))
    ∧ (∀ n ovf out ret l, r.content = .alarms n ovf out ret l → replyBody r = some (headerOf r.status r.flags
      ++ laidOut [(1, n), (1, if ovf then 1 else 0), (1, if out then 1 else 0),
        (1, ([.cleared, .kept, .lost].idxOf ret : Nat))]
      ++ l.flatMap fun e => entryLaidOut e ([.activeUnacked, .activeAcked, .clearedUnacked].idxOf e.state)))
    ∧ ∀ newest kept old l, r.content = .trend newest kept old l →
      replyBody r = some (headerOf r.status r.flags
        ++ laidOut [(4, newest.toNat), (2, kept), (1, if old then 1 else 0), (1, l.length)]
        ++ l.flatMap trendLaidOut))
  ∧ ∀ (e : AlarmEntry) (m : Mark), noticeFrame (.alarm e m) = some (supFrame 0xE1#8 (entryLaidOut e
    ([.raised, .escalated, .deescalated, .cleared, .removed, .evicted, .notEntered].idxOf m)))

/-- SET_TIME sets the plant time and answers the value replaced, IDENT answers the part's identity, and the
plant time counts up a second, wrapping; a port resync drops the partial frame and the selection and nothing
else; a kind outside the catalogue is answered BAD_KIND (R184, R190, R191; that the trend timer's seconds go
down with the plant time is log 3, and that this row answers a kind of the catalogue BAD_VALUE is log 8). -/
def Obligations.PortRequestsAndEvents : Prop :=
  ∀ (s : State) (now : U32) (k : Byte),
    (s.portIdle → exec (.setTime now) s
      = .next ({ s with svp := { s.svp with selection := none, plantTime := now } }.answer 0x02 .ok
        (.time s.svp.plantTime)))
    ∧ (s.portIdle → exec .ident s
      = .next ({ s with svp := { s.svp with selection := none } }.answer 0x01 .ok
        (.ident 0x2E17 48 1 s.svp.straps 16 s.svp.plantTime)))
    ∧ exec .plantTimeTick s = .next { s with
        svp := { s.svp with plantTime := s.svp.plantTime + 1 }
        scm := { s.scm with trendLeft := s.scm.trendLeft - 1 } }
    ∧ exec .portResync s = .next { s with svp := { s.svp with rx := [], selection := none } }
    ∧ (s.portIdle → k ∉ catalogue → exec (.badKind k) s
      = .next ({ s with svp := { s.svp with selection := none } }.answer k .badKind .none))
    ∧ (s.portIdle → k ∈ catalogue → exec (.badKind k) s
      = .next ({ s with svp := { s.svp with selection := none } }.answer k .badValue .none))

/-! ## The resets -/

/-- RESTART at every block, by the Restart column of every reset table: quantities UNPRIMED, the notice queue
emptied, active slots ABORTED, the floor held, the balance kept but for its recomputed figures with their
targets handed, the exchange in flight abandoned, stations UNKNOWN, the SET queue filled with their last
demands in ascending address order, and a clear of STATION_LOST handed for every address; settings, tables,
wells, the alarm table with TABLE_OVERFLOW, counters and plant time are kept (R29, R53, R75, R120, R135, R148,
R162, R173, R182, R192). That it is one step for all blocks, with ALT taking the clears in their turn, is log 5;
the retirements that waited are log 19; that a notice being sent is cut off is log 25. The wells' records and
the settings are legal, as `RecordsStayLegal` and `StoresStayLegal` say every step keeps them. -/
def Obligations.RestartActsOnEveryBlock : Prop :=
  ∀ s : State, s.wellsLegal → s.ssl.settings.inOrder →
    ∃ (t b r u : State) (v : Int) (l : Flc), exec .restart s = .next t
    ∧ (∀ q, t.qtb.get q = ⟨.unprimed, 0, 0, 0, none, none⟩)
    ∧ t.tip = s.tip ∧ t.ssl = s.ssl ∧ t.wcc = s.wcc ∧ t.alt = s.alt
    ∧ t.svp = { s.svp with notices := [], sending := false, selection := none }
    ∧ t.scm = { s.scm with floor :=
        if s.scm.floor.state = .fresh then { s.scm.floor with state := .staleHeld, clock := some 0 }
        else s.scm.floor }
    ∧ t.hxc = { s.hxc with
        source := if s.hxc.source = .curve then .held else s.hxc.source, qmax := none, heat := none }
    ∧ t.tbc = { s.tbc with settle := 0, inBand := false, mismatch := none }
    ∧ (s.requires v ∧ RecomputesCeiling { s with handed := [], bbu := { s.bbu with tReq := v } } b
      ∧ t.bbu = { b.bbu with brineOver := s.bbu.brineOver })
    ∧ (∀ k, t.sqr.get k =
      if activeSlot (s.sqr.get k).state then
        { s.sqr.get k with
          state := .aborted, timer := .stopped, suspendedFrom := none, pendingFailure := none
          claims := [], lastFailure := some ⟨(s.sqr.get k).ptr, .restart, s.svp.plantTime⟩ }
      else s.sqr.get k)
    ∧ (RetiresAll s.flc.retiring { s with handed := [], flc := { s.flc with retiring := [] } } r
      ∧ l = { r.flc with stations := l.stations, setQ := l.setQ, tripQ := [], flight := none }
      ∧ (∀ e, l.stations.get e = ⟨.unknown, 0, (r.flc.stations.get e).lastDemand⟩)
      ∧ (∀ x, x ∈ l.setQ ↔ (r.flc.stations.get x.entry).lastDemand = some x.order
        ∧ x.inFlight = false ∧ x.replaced = false)
      ∧ (l.setQ.map SetEntry.entry).Nodup
      ∧ l.setQ.Pairwise (fun x y => (s.station x.entry).address ≤ (s.station y.entry).address)
      ∧ Arbitrates { s with flc := l } u ∧ t.flc = u.flc)
    ∧ t.handed = s.handed.erase .restart
      ++ (b.handed.filter fun e => match e with | .wccTarget _ _ => true | _ => false) ++ r.handed
      ++ (List.range 63).map fun a => .alarmClear .stationLost (.station (a + 1))

/-- POWER_ON at every block, by the power-on column of every reset table: the settings and limit rows of the
stored copy or the defaults, the protected rows, P and the lock of the commissioning record, what RETAIN keeps,
and the owners' clears of the kept alarms before STORE_FAULT (R14, R29, R52, R74, R99, R120, R135, R148, R162,
R165, R173, R179, R181, R182, R192). That it is one step for all blocks is log 6, how the stores' checks reach
the part, and that a copy or record which fails is dropped for good, log 7, the order of the alarm changes log
44, the arbiter's first choice within it log 41, and the TANK_XOFF that BBU starts with log 38. -/
def Obligations.PowerOnActsOnEveryBlock : Prop :=
  ∀ (straps : Straps) (tripIn : Bool) (store : StoreChecks) (retainedPasses : Bool) (s : State), ∃ t,
    let kept := straps.retain && retainedPasses
    let copy := if store.copy && s.ssl.storing.isNone then s.ssl.copy else none
    let record := if store.firstRecord || store.secondRecord then s.ssl.record else none
    exec (.powerOn straps tripIn store retainedPasses) s = .next t
    ∧ (∀ q, t.qtb.get q = ⟨.unprimed, 0, 0, 0, none, none⟩)
    ∧ (∀ k, t.sqr.get k = ⟨.empty, [], 0, .stopped, none, none, [], none⟩)
    ∧ t.tbc = {
        state := .offline, loadDemand := 0, load := 0, speed := 0, admission := 0, breakerOpen := false
        stageLeft := none, settle := 0, inBand := false, inletRun := 0, mismatch := none, steamAvail := 0
        ceiling := 0, shortfall := false, shortRun := 0, steam := 0, breaker := none, tripIn := tripIn
        tripOut := false, lastCause := none, adopting := true, hold := 0 }
    ∧ t.hxc = {
        mode := .off, bypass := 1000, curveBase := none, curveFlag := .none, source := .fallback, offset := 0
        target := max (t.hxSet .supplyMin) (min (t.hxSet .supplyMax) (t.hxSet .fallbackSupply))
        causes := ⟨false, false, false, false⟩, breachRun := 0, breach := false, qmax := none, heat := none
        limitedSeconds := 0 }
    ∧ (t.bbu = { t.bbu with
        mode := .power, fixedTarget := 0, afterTrip := false, fastDown := false, hold := .normal
        holdCeiling := none, holdTimer := false, brineOver := false, tankHigh := false, capacity := 0
        brineLimit := 0, ceiling := 0, production := 0, request := 0, steam := 0
        tReq := max (t.balSet .heatBaseFlow) 0, tankXoff := t.balSet .tankXoff }
      ∧ ∀ c, t.bbu.caps.get c = none
        ∧ t.bbu.rows.get c = ⟨if t.role c = .unused then none else some .out, none⟩)
    ∧ (∀ c, t.wcc.get c = {
        state := if kept = true ∧ (s.wcc.get c).state = .lockedOut then .lockedOut else .off
        target := none, demand := 0, weight := 1, ramp := false, startLeft := none, run := none, fault := none
        margin := none, flashHold := false, ocRun := 0, flashRun := 0, dryRun := 0
        lastCause := if kept = true then (s.wcc.get c).lastCause else none, cooldown := 0
        history := if kept = true then (s.wcc.get c).history else [], adopting := true })
    ∧ (t.scm = { t.scm with
        floor := ⟨.none, none, none, .none, t.ssl.limits.get 5, none, false⟩
        hxFouling := ⟨copy.bind fun c => c.hxBaseline, none, .none⟩
        trend := [], nextSeq := 0, interval := 0, trendLeft := (t.scaleSet .trendInterval * 60).toNat }
      ∧ (∀ p, t.scm.points.get p = ⟨.clear, none, none, none, .none, 0, 0, 0, ⟨0, 0, 0, 0, false⟩⟩)
      ∧ ∀ c, t.scm.calcite.get c = ⟨none, .none, false, 0, .none, false⟩
        ∧ t.scm.fouling.get c = ⟨copy.bind fun x => x.baselines.get c, none, .none⟩)
    ∧ (∃ (f : Flc) (u : State), f = { f with
        setQ := [], tripQ := [], flight := none, position := 0, started := 0, burst := 0, retiring := [] }
      ∧ (∀ e, f.stations.get e = ⟨.unknown, 0, none⟩)
      ∧ (∀ e, e ∈ f.pollList ↔ (t.station e).kind ≠ .none
        ∧ (t.entrySet e .pollMask).toNat.testBit 0 = true)
      ∧ f.pollList.Nodup
      ∧ f.pollList.Pairwise (fun a b => (t.station a).address ≤ (t.station b).address)
      ∧ Arbitrates { t with flc := f } u ∧ t.flc = u.flc)
    ∧ t.handed = (if (t.entryOfKind .exchanger).isSome then [.setPlaced (.exchanger 1000)] else [])
    ∧ (t.ssl.settings = (match copy with | some c => c.settings | none => defaultSettings)
      ∧ t.ssl.storing = none ∧ t.ssl.storeFault = copy.isNone ∧ t.ssl.copy = copy ∧ t.ssl.record = record
      ∧ (∀ g, t.ssl.hostLocks.get g = false)
      ∧ (∀ r, record = some r → t.ssl.locked = true ∧ t.ssl.boundary = r.boundary
        ∧ ∀ l : RowNo, l.val < r.boundary → t.ssl.limits.get l = r.limits.get l)
      ∧ (record = none → ∀ c, copy = some c → t.ssl.locked = c.locked ∧ t.ssl.boundary = c.boundary)
      ∧ (record = none → copy = none → t.ssl.locked = false ∧ t.ssl.boundary = 0)
      ∧ ∀ l : RowNo, (∀ r, record = some r → r.boundary ≤ l.val) →
        (∀ c, copy = some c → t.ssl.limits.get l = c.limits.get l)
        ∧ (copy = none → t.ssl.limits.get l = (limitRange l).dflt))
    ∧ (∀ c, copy = some c → t.tip = ⟨⟨c.silica, .stored⟩, ⟨c.psat, .stored⟩, ⟨c.curve, .stored⟩⟩)
    ∧ (copy = none → t.tip = ⟨⟨factorySilica, .factory⟩, ⟨factoryPsat, .factory⟩,
        ⟨factoryCurve, .factory⟩⟩)
    ∧ (t.alt.counters = (if kept = true then s.alt.counters else newCounters)
      ∧ t.alt.retention = (if kept = true then .kept else if straps.retain = true then .lost else .cleared))
    ∧ (t.svp = { t.svp with
        plantTime := 0, straps := straps, selection := none, linkOverrun := false, storeBusySeen := false
        storeFaultSeen := copy.isNone, sending := false, reply := none, restartDue := false, rx := [] })
    ∧ (s.alt.legal → ∀ (old : List AlarmEntry) (stands : AlarmEntry → Bool),
      old = (if kept = true then s.alt.table else []) →
      (∀ e, stands e = true ↔ (e.code = .storeFault ∧ copy = none) ∨ codeNames e.code e.source = false
        ∨ ∃ c, e.code = .wellLockout ∧ e.source = .well c ∧ (t.wcc.get c).state = .lockedOut) →
      ∃ (clears : List Notice) (m n : State), clears.Perm (clearNotices stands 0 old)
        ∧ m = { t with
          alt := { t.alt with table := old, overflow := false }
          svp := { t.svp with notices := [], noticesLost := false } }
        ∧ AlarmsBecome (clearedTable stands 0 old) false clears m n
        ∧ (copy.isSome = true → t.alt = n.alt ∧ t.svp = n.svp)
        ∧ (copy = none → ∃ x, exec (.alarmChange .storeFault .store (.raise .alarm 1)) n = .next x
          ∧ t.alt = x.alt ∧ t.svp = x.svp))

/-- After the power-on of a part whose store was never written every setting and limit row has its default,
the tables have their factory contents, and STORE_FAULT stands with the value 1, sounding ALARM_OUT (R2,
R181). -/
def Obligations.ResetHoldsTheDefaults : Prop :=
  (∀ i, State.reset.item i = (itemRange i).dflt) ∧ (∀ l, State.reset.limit l = (limitRange l).dflt)
  ∧ (State.reset.tbl .silica).rows = [106, 141, 181, 228, 282, 342, 409, 483, 563, 650, 742, 840, 944,
    1053, 1167, 1286, 1409]
  ∧ (State.reset.tbl .psat).rows = [2, 6, 12, 25, 47, 85, 143, 232, 362, 544, 792, 1123, 1555, 2106,
    2797, 3650, 4692]
  ∧ (State.reset.tbl .curve).rows = [1200, 1170, 1140, 1110, 1080, 1050, 1010, 970, 930, 880, 820, 760,
    750, 750, 750, 750, 750]
  ∧ State.reset.ssl.storeFault = true ∧ State.reset.ssl.boundary = 0 ∧ State.reset.ssl.locked = false
  ∧ State.reset.alt.table = [⟨.storeFault, .store, .alarm, .activeUnacked, 0, 0, 1, 1⟩]
  ∧ State.reset.alt.alarmOut = true

/-! ## Tables -/

/-- The conditions of R3: an entry of SILICA or PSAT lies from 1 to 9999 and above the entry before it, one
of CURVE from 0 to 1500 and not above it; the offending index is the first index whose entry is out of range or
out of order. LOAD_TABLE takes its checks in the order of R4: on OK the 17 entries replace the table's and its
origin becomes LOADED, and nothing else changes. -/
def Obligations.LoadTableChecksInOrder : Prop :=
  (∀ (n : TableName) (v b : Int),
    (entryInRange n v = true ↔ if n = .curve then 0 ≤ v ∧ v ≤ 1500 else 1 ≤ v ∧ v ≤ 9999)
    ∧ (entryInOrder n b v = true ↔ if n = .curve then v ≤ b else b < v))
  ∧ (∀ (n : TableName) (l : List Int) (k : Nat), offendingIndex n l = some k ↔
    k < l.length
      ∧ (entryInRange n (l.getD k 0) = false
        ∨ (0 < k ∧ entryInOrder n (l.getD (k - 1) 0) (l.getD k 0) = false))
      ∧ ∀ j, j < k → entryInRange n (l.getD j 0) = true
        ∧ (0 < j → entryInOrder n (l.getD (j - 1) 0) (l.getD j 0) = true))
  ∧ ∀ (s : State) (n : TableName) (l : List Int), s.portIdle →
    exec (.loadTable none l) s = .next (s.deselect.answer 0x18 .badValue .none)
    ∧ (l.length ≠ 17 → exec (.loadTable (some n) l) s
      = .next (s.deselect.answer 0x18 .badValue .none))
    ∧ ∀ h : l.length = 17,
      (s.ssl.storing.isSome = true → exec (.loadTable (some n) l) s
        = .next (s.deselect.answer 0x18 .busy .none))
      ∧ (s.ssl.storing = none →
        (s.ssl.locked = true → n ≠ .curve → exec (.loadTable (some n) l) s
          = .next (s.deselect.answer 0x18 .refusedProtected .none))
        ∧ (s.ssl.locked = false ∨ n = .curve →
          (∀ k, offendingIndex n l = some k → exec (.loadTable (some n) l) s
            = .next (s.deselect.answer 0x18 .badTable (.badIndex k)))
          ∧ (offendingIndex n l = none → exec (.loadTable (some n) l) s
            = .next ({ s.deselect with tip := s.tip.withTable n ⟨⟨l, h⟩, .loaded⟩ }.answer 0x18 .ok
              .none))))

/-- Forward interpolation by the five cases of R7 and the segment value of R8, which lies between the entries
of the two breakpoints that bracket the input. -/
def Obligations.ForwardInterpolation : Prop :=
  ∀ (n : TableName) (e : Bank Int 17) (u : Int),
    (u < axis0 n → forward n e u = (entryAt e 0, .clampLow))
    ∧ (u = axis0 n → forward n e u = (entryAt e 0, .none))
    ∧ (u = axis0 n + 16 * axisStep n → forward n e u = (entryAt e 16, .none))
    ∧ (axis0 n + 16 * axisStep n < u → forward n e u = (entryAt e 16, .clampHigh))
    ∧ (axis0 n < u → u < axis0 n + 16 * axisStep n →
      ∃ (k : Nat) (f v : Int), k ≤ 15 ∧ 0 ≤ f ∧ f < axisStep n ∧ u = axis0 n + axisStep n * k + f
        ∧ forward n e u = (v, .none)
        ∧ v = entryAt e k
          + ((entryAt e (k + 1) - entryAt e k) * f + axisStep n / 2) / axisStep n
        ∧ min (entryAt e k) (entryAt e (k + 1)) ≤ v ∧ v ≤ max (entryAt e k) (entryAt e (k + 1)))

/-- Inverse interpolation of a well-formed SILICA table: the target rounded up, the three cases of R10, the
segment and the rounded-up floor of R11, and a forward value at the floor no lower than the target. -/
def Obligations.InverseInterpolation : Prop :=
  ∀ (e : Bank Int 17) (c m : Int), wellFormedAs .silica e → 0 ≤ c → c ≤ 2000 → 0 ≤ m → m ≤ 500 →
    ∃ target floor flag, inverse e c m = (target, floor, flag)
      ∧ c * (1000 + m) ≤ 1000 * target ∧ 1000 * (target - 1) < c * (1000 + m)
      ∧ (target ≤ entryAt e 0 → floor = 200 ∧ flag = .low)
      ∧ (entryAt e 16 < target → floor = 2600 ∧ flag = .unreachable)
      ∧ (entryAt e 0 < target → target ≤ entryAt e 16 → flag = .none ∧
        ∃ (k : Nat) (g : Int), k ≤ 15 ∧ entryAt e k < target ∧ target ≤ entryAt e (k + 1)
          ∧ (∀ j, j < k → entryAt e (j + 1) < target)
          ∧ floor = 200 + 150 * k + g ∧ 1 ≤ g ∧ g ≤ 150
          ∧ (target - entryAt e k) * 150 ≤ g * (entryAt e (k + 1) - entryAt e k)
          ∧ (g - 1) * (entryAt e (k + 1) - entryAt e k) < (target - entryAt e k) * 150
          ∧ target ≤ (forward .silica e floor).1)

/-! ## Quantities -/

/-- A good sample and an erasure of one quantity, by the tables of R22, R24 and R25; the smoothed Y lies
between the old Y and 16 times the sample. -/
def Obligations.SamplesAndErasures : Prop :=
  ∀ (now : U32) (w x limit : Int) (r : Qty), 1 ≤ w → w ≤ 16 →
    ((r.sample now w x).run = 0 ∧ (r.sample now w x).lastGood = some now
      ∧ (r.sample now w x).sampleNo = r.sampleNo)
    ∧ (r.state = .unprimed ∨ r.state = .stale →
      (r.sample now w x).y = 16 * x ∧ (r.sample now w x).state = .priming
        ∧ (r.sample now w x).prime = 1)
    ∧ (r.state = .priming ∨ r.state = .valid →
      (r.sample now w x).y = r.y + ((16 * x - r.y) * w).tdiv 16
        ∧ min r.y (16 * x) ≤ (r.sample now w x).y ∧ (r.sample now w x).y ≤ max r.y (16 * x))
    ∧ (r.state = .priming → r.prime ≤ 2 →
      (r.sample now w x).state = .priming ∧ (r.sample now w x).prime = r.prime + 1)
    ∧ (r.state = .priming → r.prime = 3 →
      (r.sample now w x).state = .valid ∧ (r.sample now w x).prime = 4)
    ∧ (r.state = .valid → (r.sample now w x).state = .valid ∧ (r.sample now w x).prime = 4)
    ∧ ((r.erase limit).y = r.y ∧ (r.erase limit).lastGood = r.lastGood
      ∧ (r.erase limit).sampleNo = r.sampleNo ∧ (r.erase limit).run = min (r.run + 1) 15)
    ∧ (r.state = .unprimed → (r.erase limit).state = .unprimed ∧ (r.erase limit).prime = 0)
    ∧ (r.state = .stale → (r.erase limit).state = .stale ∧ (r.erase limit).prime = 0)
    ∧ (r.state = .priming → ((r.erase limit).run : Int) < limit →
      (r.erase limit).state = .priming ∧ (r.erase limit).prime = 0)
    ∧ (r.state = .valid → ((r.erase limit).run : Int) < limit →
      (r.erase limit).state = .valid ∧ (r.erase limit).prime = 4)
    ∧ (r.state = .priming ∨ r.state = .valid → limit ≤ ((r.erase limit).run : Int) →
      (r.erase limit).state = .stale ∧ (r.erase limit).prime = 0)

/-- QTB_DELIVERY taken whole: every quantity it names is sampled or erased by the checks of R19, every other
is left as it was, a repeated analyser number leaves everything, and one update lists the new values and the
changes of state of R27 in the delivery's order, shows the station as it then stands, and goes to its takers by
the table of section 2.1; with both lists empty nothing is handed (R19, R21, R27; the order of the takers is
log 21, and what an update keeps of the station before it log 42). -/
def Obligations.DeliveryIsTakenWhole : Prop :=
  ∀ (d : Delivery) (s : State), (d.readings.map Prod.fst).Nodup →
    (d.kind = .analyser → d.sampleNo.isSome = true → (s.qtb.get qSilica).sampleNo = d.sampleNo →
      exec (.qtbDelivery d) s = .next (s.took (.qtbDelivery d)))
    ∧ (¬(d.kind = .analyser ∧ d.sampleNo.isSome = true ∧ (s.qtb.get qSilica).sampleNo = d.sampleNo) →
      ∃ (t : State) (u : Update) (l : List Instr), exec (.qtbDelivery d) s = .next t ∧ Frame [.qtb, .handed] s t
        ∧ (∀ q, q ∉ d.readings.map Prod.fst → (t.qtb.get q).state = (s.qtb.get q).state
          ∧ (t.qtb.get q).y = (s.qtb.get q).y ∧ (t.qtb.get q).prime = (s.qtb.get q).prime
          ∧ (t.qtb.get q).run = (s.qtb.get q).run ∧ (t.qtb.get q).lastGood = (s.qtb.get q).lastGood)
        ∧ (∀ q, q ≠ qSilica → (t.qtb.get q).sampleNo = (s.qtb.get q).sampleNo)
        ∧ (t.qtb.get qSilica).sampleNo = (if d.kind = .analyser ∧ d.sampleNo.isSome = true
          then d.sampleNo else (s.qtb.get qSilica).sampleNo)
        ∧ (∀ q v, (q, Reading.value v .good) ∈ d.readings →
          s.qtySet q .rangeLow ≤ v → v ≤ s.qtySet q .rangeHigh →
          t.qtb.get q = { (s.qtb.get q).sample s.svp.plantTime (s.qtySet q .weight) v with
            sampleNo := (t.qtb.get q).sampleNo })
        ∧ (∀ q x, (q, x) ∈ d.readings →
          ¬(∃ v, x = .value v .good ∧ s.qtySet q .rangeLow ≤ v ∧ v ≤ s.qtySet q .rangeHigh) →
          t.qtb.get q = { (s.qtb.get q).erase (s.qtySet q .eraseLimit) with
            sampleNo := (t.qtb.get q).sampleNo })
        ∧ (∀ q y, (q, y) ∈ u.values ↔ (t.qtb.get q).state = .valid ∧ y = t.reported q
          ∧ ∃ v, (q, Reading.value v .good) ∈ d.readings
            ∧ s.qtySet q .rangeLow ≤ v ∧ v ≤ s.qtySet q .rangeHigh)
        ∧ (∀ q old new, (q, old, new) ∈ u.changes ↔ q ∈ d.readings.map Prod.fst
          ∧ old = (s.qtb.get q).state ∧ new = (t.qtb.get q).state ∧ old ≠ new
          ∧ (old = .valid ∨ new = .valid ∨ new = .stale))
        ∧ (u.values.map Prod.fst).Sublist (d.readings.map Prod.fst)
        ∧ (u.changes.map Prod.fst).Sublist (d.readings.map Prod.fst)
        ∧ ShowsStation u (stationQtys d.kind d.channel) t
        ∧ KeepsBefore u (stationQtys d.kind d.channel) s
        ∧ UpdateHanded u l ∧ t.handed = s.handed.erase (.qtbDelivery d) ++ l)

/-- QTB_STATION_LOST: every PRIMING or VALID quantity of the station becomes STALE with its prime count 0,
keeping value, run and time, every other record stands, and one update lists the changes in the station's order
and goes to its takers (R26, R27; the order of the takers is log 21, and what an update keeps of the station
before it log 42). -/
def Obligations.LostStationMakesStale : Prop :=
  ∀ (kind : Kind) (c : WellNo) (s : State), ∃ (t : State) (u : Update) (l : List Instr),
    exec (.qtbStationLost kind c) s = .next t
    ∧ Frame [.qtb, .handed] s t
    ∧ (∀ q, t.qtb.get q =
      if q ∈ stationQtys kind c ∧ ((s.qtb.get q).state = .priming ∨ (s.qtb.get q).state = .valid) then
        { s.qtb.get q with state := .stale, prime := 0 }
      else s.qtb.get q)
    ∧ u.values = []
    ∧ (∀ q old new, (q, old, new) ∈ u.changes ↔ q ∈ stationQtys kind c ∧ old = (s.qtb.get q).state
      ∧ new = .stale ∧ (old = .priming ∨ old = .valid))
    ∧ (u.changes.map Prod.fst).Sublist (stationQtys kind c)
    ∧ ShowsStation u (stationQtys kind c) t ∧ KeepsBefore u (stationQtys kind c) s
    ∧ UpdateHanded u l ∧ t.handed = s.handed.erase (.qtbStationLost kind c) ++ l

/-- A taken setting of a quantity acts exactly as R18 says, and the law of R15 is kept: deliveries and LOST
declarations keep a value inside its plausible range and a run that has reached its limit out of VALID, and a
taken change of a range or of an erasure limit restores the half it touches (R15, R18, R22, R25; the taking
within SET_PARAM is log 33, the order of the takers log 21, and what the update keeps of the station before it
log 42). -/
def Obligations.QuantityLawIsKept : Prop :=
  (∀ (s : State) (q : QtyNo) (i : QtyItem) (old : Int), ∃ t,
    exec (.settingChangeTaken (.item (.qty q i)) old) s = .next t
      ∧ QtySettingActs q i (s.took (.settingChangeTaken (.item (.qty q i)) old)) t)
  ∧ ∀ (s : State) (q : QtyNo), 1 ≤ s.qtySet q .weight → s.qtySet q .weight ≤ 16 →
    1 ≤ s.qtySet q .eraseLimit → s.qtySet q .rangeLow < s.qtySet q .rangeHigh →
    (s.valueInRange q → s.runBelowLimit q →
      (∀ d, ∃ t, exec (.qtbDelivery d) s = .next t ∧ t.valueInRange q ∧ t.runBelowLimit q)
      ∧ ∀ kind c, ∃ t, exec (.qtbStationLost kind c) s = .next t
        ∧ t.valueInRange q ∧ t.runBelowLimit q)
    ∧ (∀ i old, i = .rangeLow ∨ i = .rangeHigh →
      ∃ t, exec (.settingChangeTaken (.item (.qty q i)) old) s = .next t ∧ t.valueInRange q
        ∧ (s.runBelowLimit q → t.runBelowLimit q))
    ∧ ∀ old, ∃ t, exec (.settingChangeTaken (.item (.qty q .eraseLimit)) old) s = .next t
      ∧ t.runBelowLimit q ∧ (s.valueInRange q → t.valueInRange q)

/-! ## Reading the records -/

/-- The requests that name no record give the records whole and change nothing (R50, R71, R119, R134, R145,
R177). That the floor and the balance record also hold the marks the model keeps there is log 27, a DESIGN
CHOICE. -/
def Obligations.ReadsOfWholeBlocks : Prop :=
  ∀ s : State, s.portIdle →
    s.onlyAnswers .readExchanger 0x29 .ok
      (.exchanger s.hxc s.scm.floor.inUse s.scm.floor.state (s.viewOf qHxOutT) (s.viewOf qNetSupplyT))
    ∧ s.onlyAnswers .readTurbine 0x39 .ok
      (.turbine s.tbc ([qTurbSpeed, qInletP, qSteamFlow, qGenLoad, qAdmPos].map s.viewOf))
    ∧ s.onlyAnswers .readBalance 0x41 .ok
      (.balance s.bbu ((wells.filter fun c => decide (s.role c ≠ .unused)).map fun c => (c, s.bbu.rows.get c)))
    ∧ s.onlyAnswers .readLimits 0x75 .ok (.limits s.ssl.limits s.ssl.boundary s.ssl.locked)
    ∧ s.onlyAnswers (.readField .all) 0x48 .ok
      (.fieldAll s.flc.position s.flc.started s.flc.burst s.flc.pollList.length s.flc.setQ.length
        s.flc.tripQ (entryNos.map fun e => ((s.station e).kind, s.entrySet e .address, s.linkStatus e)))
    ∧ s.onlyAnswers (.readScaling (some .points)) 0x20 .ok (.points (s.scm.points.rows.map Point.view))
    ∧ s.onlyAnswers (.readScaling (some .floor)) 0x20 .ok (.floor s.scm.floor)
    ∧ s.onlyAnswers (.readScaling (some .interval)) 0x20 .ok
      (.interval s.scm.interval s.scm.trendLeft (s.scm.points.rows.map fun r => r.figures))
    ∧ s.onlyAnswers (.readScaling none) 0x20 .badValue

/-- The requests that name one record give it whole and change nothing; a number or a name that names no record,
a count out of range, an input out of range and an INVERSE of another table are BAD_VALUE. READ_QTY gives
consecutive quantities in index order, an UNPRIMED one with no value and any other with Y/16 rounded half up
(R6, R12, R23, R28, R50, R97, R145, R161, R170, R172, R175). That the calcite record also holds whether WCC last
reported RUNNING, and a pending SET the mark `replaced`, is log 27, a DESIGN CHOICE. -/
def Obligations.ReadsOfNamedRecords : Prop :=
  (∀ s : State, s.portIdle →
      (∀ (c : WellNo), s.onlyAnswers (.readWell c) 0x31 .ok (.well (s.wcc.get c) (s.role c))
        ∧ s.onlyAnswers (.readScaling (some (.calcite c))) 0x20 .ok (.calcite (s.scm.calcite.get c) (s.role c))
        ∧ s.onlyAnswers (.readScaling (some (.fouling (.well c)))) 0x20 .ok
          (.fouling (s.scm.fouling.get c) (s.wellSet c .ratedFlow)))
      ∧ s.onlyAnswers (.readScaling (some (.fouling .exchanger))) 0x20 .ok
        (.fouling s.scm.hxFouling (s.hxSet .ratedBrineFlow))
      ∧ s.onlyAnswers (.readScaling (some (.fouling .other))) 0x20 .badValue
      ∧ (∀ k : Nat, 16 ≤ k → s.onlyAnswers (.readWell k) 0x31 .badValue
        ∧ s.onlyAnswers (.readScaling (some (.calcite k))) 0x20 .badValue
        ∧ s.onlyAnswers (.readScaling (some (.fouling (.well k)))) 0x20 .badValue)
      ∧ (∀ e : EntryNo, s.onlyAnswers (.readField (.entry e)) 0x48 .ok
        (.fieldEntry (s.station e).kind (s.entrySet e .address) (s.entrySet e .channel)
          (s.entrySet e .pollMask) (s.entrySet e .replyTimeout) (s.entrySet e .failLimit)
          (s.flc.stations.get e) (s.flc.setQ.find? fun x => decide (x.entry = e))
          (s.flc.tripQ.find? fun x => decide (x.entry = e))))
      ∧ (∀ e : Nat, 24 ≤ e → s.onlyAnswers (.readField (.entry e)) 0x48 .badValue)
      ∧ (∀ k : SlotNo, s.onlyAnswers (.readSeq k) 0x55 .ok (.slot (s.sqr.get k)))
      ∧ (∀ k : Nat, 4 ≤ k → s.onlyAnswers (.readSeq k) 0x55 .badValue)
      ∧ (∀ n : TableName, s.onlyAnswers (.readTable (some n)) 0x19 .ok
        (.table (s.tip.table n).entries (s.tip.table n).origin))
      ∧ s.onlyAnswers (.readTable none) 0x19 .badValue
      ∧ (∀ (n : TableName) (u : Int), -3000 ≤ u → u ≤ 3000 →
        s.onlyAnswers (.evalTableForward (some n) u) 0x1A .ok
          (.forward (forward n (s.tbl n) u).1 (forward n (s.tbl n) u).2))
      ∧ (∀ (n : Option TableName) (u : Int), n = none ∨ u < -3000 ∨ 3000 < u →
        s.onlyAnswers (.evalTableForward n u) 0x1A .badValue)
      ∧ (∀ c m : Int, 0 ≤ c → c ≤ 2000 → 0 ≤ m → m ≤ 500 →
        s.onlyAnswers (.evalTableInverse (some .silica) c m) 0x1A .ok
          (.inverse (inverse (s.tbl .silica) c m).1 (inverse (s.tbl .silica) c m).2.1
            (inverse (s.tbl .silica) c m).2.2))
      ∧ (∀ (n : Option TableName) (c m : Int), n ≠ some .silica ∨ c < 0 ∨ 2000 < c ∨ m < 0 ∨ 500 < m →
        s.onlyAnswers (.evalTableInverse n c m) 0x1A .badValue)
      ∧ (∀ first count : Nat, 1 ≤ count → count ≤ 8 → first ≤ 63 →
        s.onlyAnswers (.readAlarms first count) 0x62 .ok
          (.alarms s.alt.table.length s.alt.overflow s.alt.alarmOut s.alt.retention
            ((s.alt.table.drop first).take count)))
      ∧ (∀ first count : Nat, count = 0 ∨ 8 < count ∨ 63 < first →
        s.onlyAnswers (.readAlarms first count) 0x62 .badValue)
      ∧ (∀ o, s.onlyAnswers (.readCounters (some o)) 0x63 .ok
        (.counters (s.alt.counters.of o) s.alt.retention))
      ∧ s.onlyAnswers (.readCounters none) 0x63 .badValue
      ∧ (∀ i, s.onlyAnswers (.getParam (some (itemGroup i)) (some i)) 0x71 .ok
        (.param (s.item i) (itemRange i).lo (itemRange i).hi (s.lockState (itemGroup i))))
      ∧ (∀ g i, (∀ j, i = some j → g ≠ some (itemGroup j)) → s.onlyAnswers (.getParam g i) 0x71 .badValue))
  ∧ (∀ (s : State) (first count : Nat), s.portIdle →
      (1 ≤ count → count ≤ 24 → first ≤ 114 → first + count ≤ 115 →
        ∃ l, s.onlyAnswers (.readQty first count) 0x10 .ok (.qtys l) ∧ l.length = count
          ∧ ∀ (j : Nat) (h : first + j < 115), j < count → l[j]? = some (s.viewOf ⟨first + j, h⟩))
      ∧ (count = 0 ∨ 24 < count ∨ 114 < first ∨ 115 < first + count →
        s.onlyAnswers (.readQty first count) 0x10 .badValue)
      ∧ ∀ q : QtyNo, ∃ v, s.viewOf q = ⟨q, (s.qtb.get q).state, v, (s.qtb.get q).prime, (s.qtb.get q).run,
          (s.qtb.get q).lastGood, if q = qSilica then (s.qtb.get q).sampleNo else none⟩
        ∧ ((s.qtb.get q).state = .unprimed → v = none)
        ∧ ((s.qtb.get q).state ≠ .unprimed →
          ∃ r, v = some r ∧ 16 * r - 8 ≤ (s.qtb.get q).y ∧ (s.qtb.get q).y < 16 * r + 8))
/-! ## Scaling watch -/

/-- Every scaling point at an update: computed exactly when the update lists its temperature or SILICA anew
and both are VALID, with the SI of R31, the runs of R32, the state of R33 and the figures of R47; kept
otherwise, but for STALE_SEEN. Each point hands exactly the alarm change and the SP0 event of R33, in point
order (`parts`), after the floor's events (`early`) and before the wells' and the exchanger's (`late`; the order
is log 21). -/
def Obligations.PointsAreComputed : Prop :=
  ∀ (u : Update) (s : State), ∃ (t : State) (early late : List Instr) (parts : PointNo → List Instr),
    exec (.scmUpdate u) s = .next t ∧ Frame [.scm, .handed, .free] s t
    ∧ t.handed = s.handed.erase (.scmUpdate u) ++ early ++ pointNos.flatMap parts ++ late
    ∧ (∀ e ∈ early ++ late, (∀ p ch, e ≠ .alarmChange .silicaSi p ch) ∧ (∀ p, e ≠ .alarmClear .silicaSi p)
      ∧ ∀ a b, e ≠ .hxcSp0Change a b)
    ∧ ∀ p : PointNo,
      let r := s.scm.points.get p
      let r' := t.scm.points.get p
      r'.figures.staleSeen = (r.figures.staleSeen || u.intoStale (pointQty p) || u.intoStale qSilica)
      ∧ (¬(u.listsValue (pointQty p) = true ∨ u.listsValue qSilica = true)
          ∨ u.valid s (pointQty p) = none ∨ u.valid s qSilica = none → parts p = []
        ∧ r' = { r with figures := { r.figures with staleSeen := r'.figures.staleSeen } })
      ∧ ∀ x c : Int, u.listsValue (pointQty p) = true ∨ u.listsValue qSilica = true →
        u.valid s (pointQty p) = some x → u.valid s qSilica = some c →
        ∃ (sol si : Int) (fall : Nat) (alarm : List Instr), sol = (forward .silica (s.tbl .silica) x).1
          ∧ si = min ((c * 1000 + sol / 2) / sol) 9999
          ∧ r'.si = some si ∧ r'.temp = some x ∧ r'.solubility = some sol
          ∧ r'.clamp = (forward .silica (s.tbl .silica) x).2
          ∧ r'.alarmRun = (if s.limit 3 < si then min (r.alarmRun + 1) 15 else 0)
          ∧ r'.watchRun = (if s.scaleSet .siWatch < si then min (r.watchRun + 1) 15 else 0)
          ∧ fall = (if (r.state = .alarm ∧ si ≤ s.limit 3 - s.scaleSet .siHyst)
              ∨ (r.state = .watch ∧ si ≤ s.scaleSet .siWatch - s.scaleSet .siHyst)
            then min (r.fallRun + 1) 15 else 0)
          ∧ r'.fallRun = (if r'.state = r.state then fall else 0)
          ∧ (r.state = .alarm → r'.state = if s.scaleSet .siPersist ≤ fall then .watch else .alarm)
          ∧ (r.state = .watch → r'.state = if s.scaleSet .siPersist ≤ r'.alarmRun then .alarm
            else if s.scaleSet .siPersist ≤ fall then .clear else .watch)
          ∧ (r.state = .clear → r'.state = if s.scaleSet .siPersist ≤ r'.alarmRun then .alarm
            else if s.scaleSet .siPersist ≤ r'.watchRun then .watch else .clear)
          ∧ r'.figures.count = r.figures.count + 1 ∧ r'.figures.sum = r.figures.sum + si
          ∧ (r.figures.count = 0 → r'.figures.min = si ∧ r'.figures.max = si)
          ∧ (r.figures.count ≠ 0 →
            r'.figures.min = min r.figures.min si ∧ r'.figures.max = max r.figures.max si)
          ∧ parts p = alarm
            ++ (if p = 0 ∧ r'.state ≠ r.state then [.hxcSp0Change r.state r'.state] else [])
          ∧ (r'.state = r.state → alarm = [])
          ∧ (r.state = .clear → r'.state = .alarm →
            alarm = [.alarmChange .silicaSi (.point p) (.raise .alarm si)])
          ∧ (r.state = .clear → r'.state = .watch →
            alarm = [.alarmChange .silicaSi (.point p) (.raise .watch si)])
          ∧ (r.state = .watch → r'.state = .alarm →
            alarm = [.alarmChange .silicaSi (.point p) (.escalate .alarm si)])
          ∧ (r.state = .alarm → r'.state = .watch →
            alarm = [.alarmChange .silicaSi (.point p) (.deescalate .watch)])
          ∧ (r.state = .watch → r'.state = .clear → alarm = [.alarmClear .silicaSi (.point p)])

/-- The brine floor at an update (R36, R37): a new SILICA value makes it FRESH at TIP's result and stops the
clock, a move into STALE holds it by the table of R37, and no other update touches it; the floor's alarm
changes and the SILICA_STALE clear come before all others of the update. -/
def Obligations.FloorFollowsSilica : Prop :=
  ∀ (u : Update) (s : State), (u.listsValue qSilica = true → u.intoStale qSilica = false) →
    ∃ t l, exec (.scmUpdate u) s = .next t ∧ Frame [.scm, .handed, .free] s t
      ∧ (∀ e ∈ l, (∀ a ch, e ≠ .alarmChange a .floor ch) ∧ (∀ a, e ≠ .alarmClear a .floor)
        ∧ ∀ b, e ≠ .hxcSilicaStale b)
      ∧ (u.newValue qSilica = none → u.intoStale qSilica = false →
        t.scm.floor = s.scm.floor ∧ t.handed = s.handed.erase (.scmUpdate u) ++ l)
      ∧ (∀ c, u.newValue qSilica = some c →
        ∃ target floor flag, inverse (s.tbl .silica) c (s.limit 4) = (target, floor, flag)
          ∧ t.scm.floor = ⟨.fresh, some floor, some target, flag, floor, none, false⟩
          ∧ t.handed = s.handed.erase (.scmUpdate u)
            ++ (if s.scm.floor.silicaStale then [.alarmClear .silicaStale .floor, .hxcSilicaStale false]
              else [])
            ++ (if flag = .unreachable then
                [.alarmChange .silicaFloorUnreachable .floor (.raise .alarm target)]
              else if s.scm.floor.flag = .unreachable then [.alarmClear .silicaFloorUnreachable .floor]
              else [])
            ++ l)
      ∧ (u.intoStale qSilica = true → t.handed = s.handed.erase (.scmUpdate u) ++ l
        ∧ (s.scm.floor.state = .fresh → ∀ f, s.scm.floor.last = some f → t.scm.floor =
          { s.scm.floor with
            state := .staleHeld, inUse := f + s.scaleSet .staleOffset, clock := some 0 })
        ∧ (s.scm.floor.state = .staleHeld → t.scm.floor = s.scm.floor)
        ∧ (s.scm.floor.state = .none → s.scm.floor.clock = none →
          t.scm.floor = { s.scm.floor with clock := some 0 })
        ∧ (s.scm.floor.state = .none → s.scm.floor.clock.isSome = true → t.scm.floor = s.scm.floor))

/-- The stale clock (R38, R39): a second advances it, saturating; at L6 minutes, or at once when L6 is lowered
below it, SILICA_STALE is raised once and handed to HXC; L5 is the floor in use in NONE. The exchanger's target
follows a change of its three settings at once (R55), and a minute in HEAT_LIMITED is counted once, whatever
brings its 60th second (R70). (What the rows of an expiry and of a 60th second do when their clock stands
elsewhere is log 4; the changes of settings and rows are those of the row SETTING_CHANGE_TAKEN, whose taking
within the write's step is log 33.) -/
def Obligations.StaleClockTargetAndMinutes : Prop :=
  (∀ (s : State) (n : Nat) (old : Int) (f : Floor), s.scm.floor = f →
      let raised := fun (t : State) (m : Nat) => { t with
        scm := { s.scm with floor := { f with clock := some m, silicaStale := true } }
        handed := t.handed ++ [.alarmChange .silicaStale .floor (.raise .alarm ((m / 60 : Nat) : Int)),
          .hxcSilicaStale true] }
      (f.clock = none → exec .staleClockSecond s = .next s ∧ exec .staleClockExpiry s = .next s
        ∧ exec (.settingChangeTaken (.limit 6) old) s = .next (s.took (.settingChangeTaken (.limit 6) old)))
      ∧ (f.silicaStale = true → f.clock = some n → n < 4294967295 →
        exec .staleClockSecond s
          = .next { s with scm := { s.scm with floor := { f with clock := some (n + 1) } } }
        ∧ exec .staleClockExpiry s = .next s
        ∧ exec (.settingChangeTaken (.limit 6) old) s = .next (s.took (.settingChangeTaken (.limit 6) old)))
      ∧ (f.clock = some 4294967295 → f.silicaStale = true → exec .staleClockSecond s = .next s)
      ∧ (f.silicaStale = false → f.clock = some n → n < 4294967295 →
        ((n : Int) + 1 < s.limit 6 * 60 → exec .staleClockSecond s
          = .next { s with scm := { s.scm with floor := { f with clock := some (n + 1) } } })
        ∧ (s.limit 6 * 60 ≤ (n : Int) + 1 → exec .staleClockSecond s = .next (raised s (n + 1)))
        ∧ (s.limit 6 * 60 ≤ (n : Int) → exec .staleClockExpiry s = .next (raised s n)
          ∧ exec (.settingChangeTaken (.limit 6) old) s
            = .next (raised (s.took (.settingChangeTaken (.limit 6) old)) n))
        ∧ ((n : Int) < s.limit 6 * 60 →
          exec .staleClockExpiry s = .next (raised s (s.limit 6 * 60).toNat)
          ∧ exec (.settingChangeTaken (.limit 6) old) s
            = .next (s.took (.settingChangeTaken (.limit 6) old))))
      ∧ (f.state = .none → exec (.settingChangeTaken (.limit 5) old) s
        = .next { s.took (.settingChangeTaken (.limit 5) old) with
          scm := { s.scm with floor := { f with inUse := s.limit 5 } } })
      ∧ (f.state ≠ .none → exec (.settingChangeTaken (.limit 5) old) s
        = .next (s.took (.settingChangeTaken (.limit 5) old))))
  ∧ (∀ (s : State) (old : Int),
      (∀ i : HxItem, ∃ base, (s.hxc.source = .fallback → base = s.hxSet .fallbackSupply)
        ∧ (s.hxc.source ≠ .fallback → base = s.hxc.curveBase.getD 0)
        ∧ (i = .supplyMin ∨ i = .supplyMax ∨ i = .fallbackSupply →
          exec (.settingChangeTaken (.item (.exchanger i)) old) s
            = .next { s.took (.settingChangeTaken (.item (.exchanger i)) old) with hxc := { s.hxc with
              target := max (s.hxSet .supplyMin) (min (s.hxSet .supplyMax) (base + s.hxc.offset)) } })
        ∧ (i ≠ .supplyMin → i ≠ .supplyMax → i ≠ .fallbackSupply →
          exec (.settingChangeTaken (.item (.exchanger i)) old) s
            = .next (s.took (.settingChangeTaken (.item (.exchanger i)) old))))
      ∧ (s.hxc.mode ≠ .heatLimited → exec .hxcSecondTimer s = .next s ∧ exec .heatLimitedMin s = .next s)
      ∧ (s.hxc.mode = .heatLimited → s.hxc.limitedSeconds < 59 → exec .hxcSecondTimer s
          = .next { s with hxc := { s.hxc with limitedSeconds := s.hxc.limitedSeconds + 1 } }
        ∧ exec .heatLimitedMin s = .next s)
      ∧ (s.hxc.mode = .heatLimited → s.hxc.limitedSeconds = 59 →
        exec .hxcSecondTimer s = .next { s with
          hxc := { s.hxc with limitedSeconds := 0 }
          handed := s.handed ++ [.counterIncrement [.heatLimitedMin]] }
        ∧ exec .heatLimitedMin s = exec .hxcSecondTimer s))

/-- An update from the station of a production well: the flash margin, FLASH_HOLD, the severity of CALCITE_RISK,
the inhibitor feed and the pump fouling, with every event handed and in order; the other wells and the exchanger
keep their records (R40, R41, R42, R44, R45; that a hold moves before the feed is evaluated is log 21, that a
short feed with CALCITE_RISK already raised changes nothing is log 29, when a lowered CALCITE_PERSIST acts is
log 35, and that nothing fixes the value an escalation carries while INHIB_FEED is neither VALID nor STALE is
log 14, and that the fouling step follows its table where the thresholds overlap is log 43). -/
def Obligations.WellWatchTakesAnUpdate : Prop :=
  ∀ (u : Update) (s : State) (c : WellNo), s.role c = .production →
    (∀ x ∈ u.values, x.1 ∈ stationQtys .well c) → (∀ x ∈ u.changes, x.1 ∈ stationQtys .well c) →
    ∃ (t : State) (margin hold move feed foul : List Instr) (held : Bool) (moved : WatchState),
      let r := s.scm.calcite.get c
      let r' := t.scm.calcite.get c
      let lost := u.outOfValid (qIntakeP c) || u.outOfValid (qWhTemp c)
      let fresh := u.listsValue (qIntakeP c) || u.listsValue (qWhTemp c)
      exec (.scmUpdate u) s = .next t ∧ Frame [.scm, .handed, .free] s t
      ∧ t.handed = s.handed.erase (.scmUpdate u) ++ margin ++ hold ++ move ++ feed ++ foul
      ∧ (∀ d, d ≠ c → t.scm.calcite.get d = s.scm.calcite.get d
        ∧ t.scm.fouling.get d = s.scm.fouling.get d)
      ∧ t.scm.hxFouling = s.scm.hxFouling ∧ r'.running = r.running ∧ r'.hold = held
      ∧ (lost = true → r'.margin = none ∧ r'.clamp = .none ∧ held = r.hold
        ∧ margin = if r.margin.isSome then [.wccFlashMargin c none] else [])
      ∧ (lost = false → fresh = false ∨ u.valid s (qIntakeP c) = none ∨ u.valid s (qWhTemp c) = none →
        r'.margin = r.margin ∧ r'.clamp = r.clamp ∧ held = r.hold ∧ margin = [])
      ∧ (∀ p x, lost = false → fresh = true → u.valid s (qIntakeP c) = some p →
        u.valid s (qWhTemp c) = some x → ∃ m f, forward .psat (s.tbl .psat) x = f ∧ m = p - f.1
          ∧ r'.margin = some m ∧ r'.clamp = f.2 ∧ margin = [.wccFlashMargin c (some m)]
          ∧ (r.hold = false → (held = true ↔ m < s.scaleSet .flashWatch))
          ∧ (r.hold = true → (held = false ↔ s.scaleSet .flashWatch + 50 ≤ m))
          ∧ (r.hold = false → held = true → hold = [.alarmChange .flashWatch (.well c) (.raise .watch m),
            .bbuFlashHold c true, .wccFlashHold c true]))
      ∧ (r.hold = true → held = false →
        hold = [.alarmClear .flashWatch (.well c), .bbuFlashHold c false, .wccFlashHold c false])
      ∧ (held = r.hold → hold = [] ∧ move = [] ∧ moved = r.state)
      ∧ (r.state = .none → move = [] ∧ moved = .none)
      ∧ (r.state ≠ .none → r.hold = false → held = true → moved = .alarm
        ∧ ∃ v, move = [.alarmChange .calciteRisk (.well c) (.escalate .alarm v)]
          ∧ (∀ w, u.valid s (qInhibFeed c) = some w → v = w)
          ∧ (u.stateOf s (qInhibFeed c) = .stale → u.valid s (qInhibFeed c) = none → v = -1))
      ∧ (r.state ≠ .none → r.hold = true → held = false → moved = .watch
        ∧ move = [.alarmChange .calciteRisk (.well c) (.deescalate .watch)])
      ∧ (r.running = false ∨ listsNothing u → r'.feedRun = r.feedRun ∧ r'.state = moved ∧ feed = [])
      ∧ (r.running = true → ¬listsNothing u →
        (∀ v, u.valid s (qInhibFeed c) = some v → s.wellSet c .inhibMin ≤ v →
          r'.feedRun = 0 ∧ r'.state = .none
          ∧ feed = if moved = WatchState.none then [] else [.alarmClear .calciteRisk (.well c)])
        ∧ (∀ v, (u.valid s (qInhibFeed c) = some v ∧ v < s.wellSet c .inhibMin)
            ∨ (u.valid s (qInhibFeed c) = none ∧ u.stateOf s (qInhibFeed c) = .stale ∧ v = -1) →
          (moved ≠ .none → r'.feedRun = r.feedRun ∧ r'.state = moved ∧ feed = [])
          ∧ (moved = .none → r'.feedRun = min (r.feedRun + 1) 15
            ∧ ((r'.feedRun : Int) < s.scaleSet .calcitePersist → r'.state = .none ∧ feed = [])
            ∧ (s.scaleSet .calcitePersist ≤ (r'.feedRun : Int) →
              r'.state = (if held then .alarm else .watch)
              ∧ feed = [.alarmChange .calciteRisk (.well c) (.raise (if held then .alarm else .watch) v)])))
        ∧ (u.valid s (qInhibFeed c) = none → u.stateOf s (qInhibFeed c) ≠ .stale →
          r'.feedRun = r.feedRun ∧ r'.state = moved ∧ feed = []))
      ∧ FoulingStep s u (qFlow c) (qPumpDp c) (s.wellSet c .ratedFlow) .pumpFouling (.well c)
        (s.scm.fouling.get c) (t.scm.fouling.get c) foul

/-- An update from the EXCHANGER station acts on the exchanger's fouling record and on no well's (R44, R45);
CAPTURE_BASELINE takes its checks in order, and on OK makes the reported pressure drop the baseline and clears
the target's fouling alarm (R46). That the fouling step follows its table where the thresholds overlap is log 43. -/
def Obligations.ExchangerFoulingAndBaselines : Prop :=
  (∀ (u : Update) (s : State), (∀ x ∈ u.values, x.1 ∈ stationQtys .exchanger 0) →
    (∀ x ∈ u.changes, x.1 ∈ stationQtys .exchanger 0) →
    ∃ t early foul, exec (.scmUpdate u) s = .next t
      ∧ t.handed = s.handed.erase (.scmUpdate u) ++ early ++ foul
      ∧ (u.listsValue qHxOutT = false → early = [])
      ∧ t.scm.calcite = s.scm.calcite ∧ t.scm.fouling = s.scm.fouling
      ∧ FoulingStep s u qHxBrineFlow qHxDp (s.hxSet .ratedBrineFlow) .hxFouling .exchanger s.scm.hxFouling
        t.scm.hxFouling foul)
  ∧ ∀ s : State, s.portIdle →
    s.onlyAnswers (.captureBaseline .other) 0x22 .badValue
    ∧ (∀ k : Nat, 16 ≤ k → s.onlyAnswers (.captureBaseline (.well k)) 0x22 .badValue)
    ∧ (∀ c : WellNo, s.role c ≠ .production → s.onlyAnswers (.captureBaseline (.well c)) 0x22 .badValue)
    ∧ ∀ (tgt : FoulTarget) (g : Group) (flowQ dpQ : QtyNo) (rated : Int),
      (tgt = .exchanger ∧ g = .exchanger ∧ flowQ = qHxBrineFlow ∧ dpQ = qHxDp
          ∧ rated = s.hxSet .ratedBrineFlow)
        ∨ (∃ c : WellNo, s.role c = .production ∧ tgt = .well c ∧ g = .well c ∧ flowQ = qFlow c
          ∧ dpQ = qPumpDp c ∧ rated = s.wellSet c .ratedFlow) →
      (s.ssl.storing.isSome = true → s.onlyAnswers (.captureBaseline tgt) 0x22 .busy)
      ∧ (s.ssl.storing = none → s.groupLocked g = true →
        s.onlyAnswers (.captureBaseline tgt) 0x22 .refusedLocked)
      ∧ (s.ssl.storing = none → s.groupLocked g = false →
        ((s.qtb.get flowQ).state ≠ .valid ∨ (s.qtb.get dpQ).state ≠ .valid
          ∨ s.scaleSet .foulBand * rated < |s.reported flowQ - rated| * 1000 ∨ s.reported dpQ = 0 →
          s.onlyAnswers (.captureBaseline tgt) 0x22 .refusedState)
        ∧ ((s.qtb.get flowQ).state = .valid → (s.qtb.get dpQ).state = .valid →
          |s.reported flowQ - rated| * 1000 ≤ s.scaleSet .foulBand * rated → s.reported dpQ ≠ 0 →
          (tgt = .exchanger → exec (.captureBaseline tgt) s
            = .next (({ s.deselect with
              scm := { s.scm with hxFouling := ⟨some (s.reported dpQ), some 1000, .none⟩ } }.hand
              (if s.scm.hxFouling.state = WatchState.none then []
                else [Instr.alarmClear .hxFouling .exchanger])).answer 0x22 .ok .none))
          ∧ ∀ c : WellNo, tgt = .well c → exec (.captureBaseline tgt) s
            = .next (({ s.deselect with scm := { s.scm with
                fouling := s.scm.fouling.set c ⟨some (s.reported dpQ), some 1000, .none⟩ } }.hand
              (if (s.scm.fouling.get c).state = WatchState.none then []
                else [Instr.alarmClear .pumpFouling (.well c)])).answer 0x22 .ok .none)))

/-- A channel's state as WCC reports it, with the clear of feed run and CALCITE_RISK when it leaves RUNNING
(R42), and the reset of the channel's records at a role other than PRODUCTION (R43); a change to PRODUCTION
leaves them. -/
def Obligations.WellReportsReachTheWatch : Prop :=
  ∀ (s : State) (c : WellNo) (old new : WellState) (k : Option WellCause) (role : Role), ∃ t u,
    let r := s.scm.calcite.get c
    let f := s.scm.fouling.get c
    exec (.scmWellState c (old, new) k) s = .next t ∧ Frame [.scm, .handed] s t
    ∧ exec (.scmRoleChange c role) s = .next u ∧ Frame [.scm, .handed] s u
    ∧ t.scm = { s.scm with calcite := t.scm.calcite }
    ∧ u.scm = { s.scm with calcite := u.scm.calcite, fouling := u.scm.fouling }
    ∧ (∀ d, d ≠ c → t.scm.calcite.get d = s.scm.calcite.get d ∧ u.scm.calcite.get d = s.scm.calcite.get d
      ∧ u.scm.fouling.get d = s.scm.fouling.get d)
    ∧ (old = .running → new ≠ .running →
      t.scm.calcite.get c = { r with running := false, feedRun := 0, state := .none }
      ∧ t.handed = s.handed.erase (.scmWellState c (old, new) k)
        ++ if r.state = WatchState.none then [] else [.alarmClear .calciteRisk (.well c)])
    ∧ (old ≠ .running ∨ new = .running →
      t.scm.calcite.get c = { r with running := decide (new = .running) }
      ∧ t.handed = s.handed.erase (.scmWellState c (old, new) k))
    ∧ (role = .production → u = s.took (.scmRoleChange c role))
    ∧ (role ≠ .production →
      u.scm.calcite.get c = ⟨none, .none, false, 0, .none, r.running⟩
      ∧ u.scm.fouling.get c = ⟨f.baseline, none, .none⟩
      ∧ u.handed = s.handed.erase (.scmRoleChange c role)
        ++ (if r.margin.isSome then [.wccFlashMargin c none] else [])
        ++ (if r.hold then [.bbuFlashHold c false, .wccFlashHold c false, .alarmClear .flashWatch (.well c)]
          else [])
        ++ (if r.state = WatchState.none then [] else [.alarmClear .calciteRisk (.well c)])
        ++ (if f.state = WatchState.none then [] else [.alarmClear .pumpFouling (.well c)]))

/-- The expiry of the trend interval appends a record for each point that was computed, in point order and
numbered on, keeps the newest 256, and starts the next interval with empty figures (R47, R48; that the number
after the last 32-bit one is 0 is log 23); READ_TREND starts at the record asked for or at the oldest, wraps
once and gives no record twice (R49; the N an empty log answers is a free value, log 14). -/
def Obligations.TrendLogKeepsAndGives : Prop :=
  (∀ s : State, ∃ t new, exec .trendIntervalExpiry s = .next t ∧ Frame [.scm] s t
    ∧ new.map Trend.point = pointNos.filter (fun p => decide ((s.scm.points.get p).figures.count ≠ 0))
    ∧ (∀ (j : Nat) (x : Trend), new[j]? = some x →
      ∃ r, r = s.scm.points.get x.point ∧ x.seq = s.scm.nextSeq + BitVec.ofNat 32 j
        ∧ x.interval = s.scm.interval ∧ x.state = r.state ∧ x.staleSeen = r.figures.staleSeen
        ∧ x.min = r.figures.min ∧ x.max = r.figures.max ∧ x.count = r.figures.count
        ∧ x.mean = (2 * r.figures.sum + r.figures.count) / (2 * r.figures.count)
        ∧ x.floorInUse = s.scm.floor.inUse)
    ∧ (s.scm.trend.length ≤ 256 →
      t.scm.trend = (s.scm.trend ++ new).drop ((s.scm.trend ++ new).length - 256))
    ∧ t.scm.nextSeq = s.scm.nextSeq + BitVec.ofNat 32 new.length
    ∧ t.scm.interval = s.scm.interval + 1
    ∧ t.scm.trendLeft = (s.scaleSet .trendInterval * 60).toNat
    ∧ (∀ p, t.scm.points.get p = { s.scm.points.get p with figures := ⟨0, 0, 0, 0, decide
        ((s.qtb.get qSilica).state = .stale ∨ (s.qtb.get (pointQty p)).state = .stale)⟩ })
    ∧ t.scm.floor = s.scm.floor ∧ t.scm.calcite = s.scm.calcite ∧ t.scm.fouling = s.scm.fouling
    ∧ t.scm.hxFouling = s.scm.hxFouling)
  ∧ ∀ (s : State) (first : U32) (count : Nat), s.portIdle →
    (count = 0 ∨ 8 < count → s.onlyAnswers (.readTrend first count) 0x21 .badValue)
    ∧ (1 ≤ count → count ≤ 8 → s.scm.trend = [] → ∃ n, exec (.readTrend first count) s
      = .next ({ s.deselect with free := s.free + 1 }.answer 0x21 .ok (.trend n 0 false [])))
    ∧ (1 ≤ count → count ≤ 8 → s.scm.trend ≠ [] →
      ∃ (start : Nat) (old : Bool) (l : List Trend), s.onlyAnswers (.readTrend first count) 0x21 .ok
          (.trend (s.scm.nextSeq - 1) s.scm.trend.length old l)
        ∧ l.length = min count s.scm.trend.length
        ∧ (∀ j, j < l.length → l[j]? = s.scm.trend[(start + j) % s.scm.trend.length]?)
        ∧ ((s.scm.nextSeq - 1 - first).toNat < s.scm.trend.length → old = false
          ∧ start = s.scm.trend.length - 1 - (s.scm.nextSeq - 1 - first).toNat)
        ∧ (s.scm.trend.length ≤ (s.scm.nextSeq - 1 - first).toNat → old = true ∧ start = 0))

/-! ## Heat exchange -/

/-- The supply target and the control step at an update that adds no isolation cause: the target of R55 and R56,
the change asked and clamped (R58), the floor check with its three lines (R59) and without a VALID outlet (R61),
the SET and the notice (R60, R66). Only the breach evaluation hands more (`breach`). The target before the step,
the SET before the change of mode and the breach after both are the model's order, log 21. -/
def Obligations.ControlStepsObeyTheFloor : Prop :=
  ∀ (u : Update) (s : State), u.intoStale qHxOutT = false ∨ s.hxc.causes.outletStale = true →
    ∃ t step breach, exec (.hxcUpdate u) s = .next t ∧ Frame [.hxc, .svp, .handed] s t
      ∧ t.handed = s.handed.erase (.hxcUpdate u) ++ step ++ breach
      ∧ (∀ e ∈ breach, (∃ v, e = .alarmChange .floorBreach .exchanger (.raise .alarm v))
        ∨ e = .alarmClear .floorBreach .exchanger ∨ e = .counterIncrement [.floorBreaches])
      ∧ t.hxc.offset = s.hxc.offset ∧ t.hxc.limitedSeconds = s.hxc.limitedSeconds
      ∧ t.hxc.causes = (if u.intoValid qHxOutT then { s.hxc.causes with outletStale := false }
        else s.hxc.causes)
      ∧ (∀ v, u.newValue qOutdoorT = some v → ∃ f, forward .curve (s.tbl .curve) v = f
        ∧ t.hxc.curveBase = some f.1 ∧ t.hxc.curveFlag = f.2 ∧ t.hxc.source = .curve
        ∧ t.hxc.target = max (s.hxSet .supplyMin) (min (s.hxSet .supplyMax) (f.1 + s.hxc.offset)))
      ∧ (u.newValue qOutdoorT = none → t.hxc.curveBase = s.hxc.curveBase
        ∧ t.hxc.curveFlag = s.hxc.curveFlag ∧ t.hxc.target = s.hxc.target
        ∧ t.hxc.source = (if u.outOfValid qOutdoorT = true ∧ s.hxc.source = .curve then .held
          else s.hxc.source))
      ∧ (u.newValue qNetSupplyT = none ∨ s.hxc.mode = .off ∨ s.hxc.mode = .isolated →
        t.hxc.mode = s.hxc.mode ∧ t.hxc.bypass = s.hxc.bypass ∧ step = [] ∧ t.svp = s.svp)
      ∧ ∀ v, u.newValue qNetSupplyT = some v → s.hxc.mode = .heating ∨ s.hxc.mode = .heatLimited →
        ∃ asked used : Int,
          asked = max (-(s.hxSet .maxStep))
            (min (s.hxSet .maxStep) (-(((t.hxc.target - v) * s.hxSet .kp).tdiv 100)))
          ∧ (u.valid s qHxOutT = none → used = max asked 0 ∧ t.hxc.mode = s.hxc.mode)
          ∧ (∀ x level, u.valid s qHxOutT = some x → level = s.scm.floor.inUse + s.hxSet .deadband →
            (x < level → used = max asked (s.hxSet .floorStep) ∧ t.hxc.mode = .heatLimited)
            ∧ (level ≤ x → x < level + s.hxSet .hyst → s.hxc.mode = .heatLimited →
              used = max asked 0 ∧ t.hxc.mode = .heatLimited)
            ∧ (level ≤ x → level + s.hxSet .hyst ≤ x ∨ s.hxc.mode = .heating →
              used = asked ∧ t.hxc.mode = .heating))
          ∧ t.hxc.bypass = max (s.hxSet .bypassMin) (min 1000 (s.hxc.bypass + used))
          ∧ step = (if t.hxc.bypass ≠ s.hxc.bypass ∧ (s.entryOfKind .exchanger).isSome then
              [.setPlaced (.exchanger t.hxc.bypass)] else [])
            ++ changed .exchanger (.exchanger s.hxc.mode) (.exchanger t.hxc.mode)
          ∧ t.svp = (s.noticed .exchanger (.exchanger s.hxc.mode) (.exchanger t.hxc.mode) none).svp

/-- The two heat figures at an update (R68, R69), and the floor breach at an update that adds no isolation cause
(R67): the breach is evaluated in the mode after the step, and its events come after the step's, which is the
model's order, log 21. -/
def Obligations.BreachAndHeatFigures : Prop :=
  ∀ (u : Update) (s : State), ∃ t, exec (.hxcUpdate u) s = .next t
    ∧ (u.intoStale qHxOutT = false ∨ s.hxc.causes.outletStale = true → ∃ before breach,
      t.handed = s.handed.erase (.hxcUpdate u) ++ before ++ breach
      ∧ (∀ e ∈ before, (∃ b, e = .setPlaced (.exchanger b)) ∨ ∃ a b, e = .sqrStateChange .exchanger a b)
      ∧ (u.newValue qHxOutT = none ∨ t.hxc.mode = .off ∨ t.hxc.mode = .isolated →
        t.hxc.breachRun = s.hxc.breachRun ∧ t.hxc.breach = s.hxc.breach ∧ breach = [])
      ∧ (∀ v, u.newValue qHxOutT = some v → t.hxc.mode = .heating ∨ t.hxc.mode = .heatLimited →
        (v < s.scm.floor.inUse → t.hxc.breachRun = min (s.hxc.breachRun + 1) 15
          ∧ (s.hxc.breach = true ∨ (t.hxc.breachRun : Int) < s.hxSet .breachPersist →
            t.hxc.breach = s.hxc.breach ∧ breach = [])
          ∧ (s.hxc.breach = false → s.hxSet .breachPersist ≤ (t.hxc.breachRun : Int) →
            t.hxc.breach = true ∧ breach = [.alarmChange .floorBreach .exchanger (.raise .alarm v),
              .counterIncrement [.floorBreaches]]))
        ∧ (v = s.scm.floor.inUse →
          t.hxc.breachRun = 0 ∧ t.hxc.breach = s.hxc.breach ∧ breach = [])
        ∧ (s.scm.floor.inUse < v → t.hxc.breachRun = 0 ∧ t.hxc.breach = false
          ∧ breach = if s.hxc.breach then [.alarmClear .floorBreach .exchanger] else [])))
    ∧ (u.outOfValid qHxBrineFlow = true ∨ u.outOfValid qHxInT = true → t.hxc.qmax = none)
    ∧ (u.outOfValid qHxBrineFlow = false → u.outOfValid qHxInT = false →
      (¬(u.listsValue qHxBrineFlow = true ∨ u.listsValue qHxInT = true)
          ∨ u.valid s qHxBrineFlow = none ∨ u.valid s qHxInT = none → t.hxc.qmax = s.hxc.qmax)
      ∧ ∀ f x, u.listsValue qHxBrineFlow = true ∨ u.listsValue qHxInT = true →
        u.valid s qHxBrineFlow = some f → u.valid s qHxInT = some x →
        t.hxc.qmax = some (f * s.hxSet .cpBrine
          * max (x - (s.scm.floor.inUse + s.hxSet .deadband)) 0 / 36000))
    ∧ (u.outOfValid qNetFlow = true ∨ u.outOfValid qNetSupplyT = true ∨ u.outOfValid qNetReturnT = true →
      t.hxc.heat = none)
    ∧ (u.outOfValid qNetFlow = false → u.outOfValid qNetSupplyT = false →
      u.outOfValid qNetReturnT = false →
      (¬(u.listsValue qNetFlow = true ∨ u.listsValue qNetSupplyT = true
            ∨ u.listsValue qNetReturnT = true)
          ∨ u.valid s qNetFlow = none ∨ u.valid s qNetSupplyT = none ∨ u.valid s qNetReturnT = none →
        t.hxc.heat = s.hxc.heat)
      ∧ ∀ f x y, u.listsValue qNetFlow = true ∨ u.listsValue qNetSupplyT = true
          ∨ u.listsValue qNetReturnT = true →
        u.valid s qNetFlow = some f → u.valid s qNetSupplyT = some x → u.valid s qNetReturnT = some y →
        t.hxc.heat = some (f * s.hxSet .cpWater * max (x - y) 0 / 36000))

/-- Every event that adds an isolation cause isolates by R63 unless the exchanger is ISOLATED already, and an
update that does so takes no control step and judges no breach; an event that removes a cause leaves the mode
(R61, R62, R63; that the order, the alarms and the counter precede the change of mode is log 21). The
LINK_LOST notice adds nothing. -/
def Obligations.IsolationIsLatched : Prop :=
  ∀ s : State,
    (∀ old, ∃ t l, exec (.hxcSp0Change old .alarm) s = .next t ∧ Frame [.hxc, .svp, .handed] s t
      ∧ Isolates .sp0Alarm s t l ∧ t.handed = s.handed.erase (.hxcSp0Change old .alarm) ++ l)
    ∧ (∃ t l, exec (.hxcSilicaStale true) s = .next t ∧ Frame [.hxc, .svp, .handed] s t
      ∧ Isolates .silicaStale s t l ∧ t.handed = s.handed.erase (.hxcSilicaStale true) ++ l)
    ∧ (s.portIdle → ∃ t l, exec .hxCmdIsolate s = .next (t.answer 0x28 .ok .none)
      ∧ Frame [.hxc, .svp, .handed] s.deselect t ∧ Isolates .host s.deselect t l
      ∧ t.handed = s.handed ++ l)
    ∧ (∀ u : Update, u.intoStale qHxOutT = true → s.hxc.causes.outletStale = false →
      ∃ t m l, exec (.hxcUpdate u) s = .next t ∧ Frame [.hxc, .svp, .handed] s t
        ∧ Isolates .outletStale s m l ∧ t.svp = m.svp ∧ t.handed = s.handed.erase (.hxcUpdate u) ++ l
        ∧ t.hxc = { m.hxc with
            curveBase := t.hxc.curveBase, curveFlag := t.hxc.curveFlag, source := t.hxc.source
            target := t.hxc.target, qmax := t.hxc.qmax, heat := t.hxc.heat })
    ∧ (∀ new, new ≠ .alarm → exec (.hxcSp0Change .alarm new) s
      = .next { s.took (.hxcSp0Change .alarm new) with
        hxc := { s.hxc with causes := { s.hxc.causes with sp0Alarm := false } } })
    ∧ (∀ old new, old ≠ .alarm → new ≠ .alarm → exec (.hxcSp0Change old new) s
      = .next (s.took (.hxcSp0Change old new)))
    ∧ exec (.hxcSilicaStale false) s = .next { s.took (.hxcSilicaStale false) with
        hxc := { s.hxc with causes := { s.hxc.causes with silicaStale := false } } }
    ∧ exec .hxcLinkLost s = .next (s.took .hxcLinkLost)

/-- HX_CMD ON, OFF, RESUME and OFFSET with their checks in order and their effects (R57, R60, R64, R65, R66);
an accepted OFF is handed to SQR with its origin (R157), after its change of mode (log 21). -/
def Obligations.ExchangerCommands : Prop :=
  ∀ (s : State) (v : Int), s.portIdle →
    ((s.claimant .exchanger).isSome = true →
      s.onlyAnswers .hxCmdOn 0x28 .refusedClaimed ∧ s.onlyAnswers .hxCmdResume 0x28 .refusedClaimed
      ∧ s.onlyAnswers (.hxCmdOffset v) 0x28 .refusedClaimed)
    ∧ (s.claimant .exchanger = none →
      (s.hxc.mode = .off → s.hxc.causes = ⟨false, false, false, false⟩ → exec .hxCmdOn s
        = .next ((({ s.deselect with hxc := { s.hxc with mode := .heating, breachRun := 0 } }.notify
          [.state .exchanger (.exchanger .off) (.exchanger .heating) none]).hand
          [.sqrStateChange .exchanger (.exchanger .off, .exchanger .heating) none]).answer 0x28 .ok .none))
      ∧ (s.hxc.mode ≠ .off ∨ s.hxc.causes ≠ ⟨false, false, false, false⟩ →
        s.onlyAnswers .hxCmdOn 0x28 .refusedState)
      ∧ (s.hxc.mode = .isolated → s.hxc.causes.sp0Alarm = false → s.hxc.causes.silicaStale = false →
        s.hxc.causes.outletStale = false → exec .hxCmdResume s
        = .next ((({ s.deselect with
            hxc := { s.hxc with mode := .heating, causes := ⟨false, false, false, false⟩ } }.notify
          [.state .exchanger (.exchanger .isolated) (.exchanger .heating) none]).hand
          [.alarmClear .hxIsolated .exchanger,
            .sqrStateChange .exchanger (.exchanger .isolated, .exchanger .heating) none]).answer 0x28 .ok
          .none))
      ∧ (s.hxc.mode ≠ .isolated ∨ s.hxc.causes.sp0Alarm = true ∨ s.hxc.causes.silicaStale = true
          ∨ s.hxc.causes.outletStale = true → s.onlyAnswers .hxCmdResume 0x28 .refusedState)
      ∧ ∃ o base, o = max (-200) (min 200 v)
        ∧ (s.hxc.source = .fallback → base = s.hxSet .fallbackSupply)
        ∧ (s.hxc.source ≠ .fallback → base = s.hxc.curveBase.getD 0)
        ∧ exec (.hxCmdOffset v) s = .next ({ s.deselect with hxc := { s.hxc with
            offset := o
            target := max (s.hxSet .supplyMin) (min (s.hxSet .supplyMax) (base + o)) } }.answer 0x28
          (if -200 ≤ v ∧ v ≤ 200 then .ok else .clamped) .none))
    ∧ ∃ t, exec .hxCmdOff s = .next (t.answer 0x28 .ok .none) ∧ Frame [.hxc, .svp, .handed] s.deselect t
      ∧ t.hxc = { s.hxc with
          mode := .off, causes := { s.hxc.causes with host := false }, bypass := 1000, breachRun := 0
          breach := false }
      ∧ t.svp = (s.deselect.noticed .exchanger (.exchanger s.hxc.mode) (.exchanger .off) none).svp
      ∧ t.handed = s.handed
        ++ (if s.hxc.bypass ≠ 1000 ∧ (s.entryOfKind .exchanger).isSome then
          [.setPlaced (.exchanger 1000)] else [])
        ++ (if s.hxc.breach then [.alarmClear .floorBreach .exchanger] else [])
        ++ (if s.hxc.mode = .isolated then [.alarmClear .hxIsolated .exchanger] else [])
        ++ changed .exchanger (.exchanger s.hxc.mode) (.exchanger .off)
        ++ [.sqrTargetTripStop .exchanger .stop (.command .host)]

/-! ## Well Channel Controller -/

/-- The commands of a channel with their checks in order and their effects: START, STOP, RESET_TRIP and
WEIGHT (R79, R80, R82, R84, R91, R95; the order of the takers of a change of state is log 21). -/
def Obligations.WellCommands : Prop :=
  ∀ (s : State) (v : Int), s.portIdle →
    (∀ k, 16 ≤ k → s.onlyAnswers (.wellCmdStart k) 0x30 .badValue
      ∧ s.onlyAnswers (.wellCmdStop k) 0x30 .badValue ∧ s.onlyAnswers (.wellCmdResetTrip k) 0x30 .badValue
      ∧ s.onlyAnswers (.wellCmdWeight k v) 0x30 .badValue)
    ∧ ∀ (c : WellNo) (w : Well), w = s.wcc.get c →
      ((s.claimant (.well c)).isSome = true → s.onlyAnswers (.wellCmdStart c) 0x30 .refusedClaimed
        ∧ s.onlyAnswers (.wellCmdResetTrip c) 0x30 .refusedClaimed
        ∧ s.onlyAnswers (.wellCmdWeight c v) 0x30 .refusedClaimed)
      ∧ (s.claimant (.well c) = none →
        (s.ssl.storeFault = true → s.onlyAnswers (.wellCmdStart c) 0x30 .refusedStore)
        ∧ (s.ssl.storeFault = false → w.state ≠ .off ∨ s.role c = .unused ∨ s.entryOfWell c = none
            ∨ (∃ e, s.entryOfWell c = some e ∧ (s.flc.stations.get e).status = .lost) →
          s.onlyAnswers (.wellCmdStart c) 0x30 .refusedState)
        ∧ (∀ e, s.ssl.storeFault = false → w.state = .off → s.role c ≠ .unused →
          s.entryOfWell c = some e → (s.flc.stations.get e).status ≠ .lost →
          exec (.wellCmdStart c) s = .next ((({ s.deselect with wcc := s.wcc.set c { w with
              state := .starting, ramp := true, startLeft := some (s.wellSet c .startTimeout).toNat
              ocRun := 0, flashRun := 0, dryRun := 0 } }.notify
            [.state (.well c) (.well .off) (.well .starting) none]).hand
            (.counterIncrement [.wellStarts c] :: wellMoves c .off .starting)).answer 0x30 .ok .none))
        ∧ (w.state ≠ .tripped → s.onlyAnswers (.wellCmdResetTrip c) 0x30 .refusedState (.seconds 0))
        ∧ (w.state = .tripped → w.cooldown ≠ 0 →
          s.onlyAnswers (.wellCmdResetTrip c) 0x30 .refusedState (.seconds w.cooldown))
        ∧ (w.state = .tripped → w.cooldown = 0 →
          exec (.wellCmdResetTrip c) s = .next ((({ s.deselect with wcc := s.wcc.set c { w with
              state := .off, ocRun := 0, flashRun := 0, dryRun := 0 } }.notify
            [.state (.well c) (.well .tripped) (.well .off) none]).hand
            (.alarmClear .wellTrip (.well c) :: wellMoves c .tripped .off)).answer 0x30 .ok .none))
        ∧ ∃ x, x = max 1 (min 100 v) ∧ exec (.wellCmdWeight c v) s = .next (({ s.deselect with
            wcc := s.wcc.set c { w with weight := x } }.hand
            (if x = w.weight then [] else [.bbuWellWeight c])).answer 0x30
            (if x = v then .ok else .clamped) .none))
      ∧ (w.state ≠ .starting → w.state ≠ .running → s.onlyAnswers (.wellCmdStop c) 0x30 .refusedState)
      ∧ (w.state = .starting ∨ w.state = .running →
        exec (.wellCmdStop c) s = .next ((({ s.deselect with wcc := s.wcc.set c { w with
            state := .stopping, startLeft := none, ocRun := 0, flashRun := 0, dryRun := 0 } }.notify
          [.state (.well c) (.well w.state) (.well .stopping) none]).hand
          (wellMoves c w.state .stopping
            ++ [Instr.sqrTargetTripStop (.well c) .stop (.command .host)])).answer 0x30 .ok .none))

/-- A lost link, a start that runs out and the operator trip a channel, with the record, the lockout and the
events of R89, R92 and R95; a trip by the operator and an unlock go out selected and operated (R81, R89, R90,
R92, R93; that the demand of 0 is issued even where it was 0 is log 12, the order of the takers log 21). -/
def Obligations.WellTripsAndLockout : Prop :=
  ∀ (s : State) (c : WellNo) (w : Well), w = s.wcc.get c →
    (w.state = .starting ∨ w.state = .running ∨ w.state = .stopping →
      (∃ t l, exec (.wccLinkLost c) s = .next t ∧ Frame [.wcc, .svp, .handed] s t
        ∧ WellTrips c .linkLost s t l ∧ t.handed = s.handed.erase (.wccLinkLost c) ++ l)
      ∧ (s.portIdle → s.svp.selection = some (.wellTrip, c.val) →
        ∃ t l, exec (.operateWellTrip c) s = .next (t.answer 0x04 .ok .none)
          ∧ Frame [.wcc, .svp, .handed] s.deselect t ∧ WellTrips c .operator s.deselect t l
          ∧ t.handed = s.handed ++ l))
    ∧ (w.state = .off ∨ w.state = .tripped ∨ w.state = .lockedOut →
      exec (.wccLinkLost c) s = .next (s.took (.wccLinkLost c))
      ∧ (s.portIdle → s.svp.selection = some (.wellTrip, c.val) →
        s.onlyAnswers (.operateWellTrip c) 0x04 .refusedState))
    ∧ (w.state = .starting → w.startLeft.isSome = true →
      ∃ t l, exec (.startTimerExpiry c) s = .next t ∧ Frame [.wcc, .svp, .handed] s t
        ∧ WellTrips c .startFail s t l ∧ t.handed = s.handed ++ l)
    ∧ (w.state ≠ .starting ∨ w.startLeft = none → exec (.startTimerExpiry c) s = .next s)
    ∧ (s.portIdle → s.svp.selection = some (.wellUnlock, c.val) →
      ((s.claimant (.well c)).isSome = true → s.onlyAnswers (.operateWellUnlock c) 0x04 .refusedClaimed)
      ∧ (s.claimant (.well c) = none → w.state ≠ .lockedOut →
        s.onlyAnswers (.operateWellUnlock c) 0x04 .refusedState)
      ∧ (s.claimant (.well c) = none → w.state = .lockedOut →
        exec (.operateWellUnlock c) s = .next ((({ s.deselect with wcc := s.wcc.set c { w with
            state := .off, history := [], cooldown := 0, ocRun := 0, flashRun := 0, dryRun := 0 } }.notify
          [.state (.well c) (.well .lockedOut) (.well .off) none]).hand
          ([Instr.alarmClear .wellLockout (.well c), .alarmClear .wellTrip (.well c)]
            ++ wellMoves c .lockedOut .off)).answer 0x04 .ok .none)))

/-- A ramp expiry moves the demand by at most the step toward what the state names, issues a demand that
moves, and ends a stop at 0 (R82, R83, R85, R95; the order of the takers is log 21). -/
def Obligations.RampsMoveTheDemand : Prop :=
  ∀ (s : State) (c : WellNo) (w : Well), w = s.wcc.get c →
    (w.ramp = false → exec (.rampTimerExpiry c) s = .next s)
    ∧ (w.ramp = true → ∃ d t, exec (.rampTimerExpiry c) s = .next t ∧ Frame [.wcc, .svp, .handed] s t
      ∧ (∀ step goal : Int, step = s.wellSet c .rampStep →
        (goal = s.wellSet c .minFlow → w.state = .starting → w.demand < goal →
          d = min (w.demand + step) goal)
        ∧ (goal = s.wellSet c .minFlow → w.state = .starting → goal ≤ w.demand →
          d = max (w.demand - step) goal)
        ∧ (w.state = .stopping → 0 ≤ w.demand → d = max (w.demand - step) 0)
        ∧ (w.state = .running → w.target = some goal → w.demand < goal →
          d = if w.flashHold then w.demand else min (w.demand + step) goal)
        ∧ (w.state = .running → w.target = some goal → goal < w.demand →
          d = max (w.demand - (if s.role c = .production ∧ s.bbu.fastDown = true then
            s.wellSet c .tripRampStep else step)) goal))
      ∧ (w.state = .running → w.target = none ∨ w.target = some w.demand ∧ 0 ≤ s.wellSet c .rampStep →
        d = w.demand)
      ∧ (∀ x, (w.state = .stopping ∧ d = 0 ↔ x = true) →
        t.wcc = s.wcc.set c { w with
          demand := d
          state := if x then .off else w.state
          ramp := !x
          ocRun := if x then 0 else w.ocRun
          flashRun := if x then 0 else w.flashRun
          dryRun := if x then 0 else w.dryRun }
        ∧ t.svp = (if x then s.notify [.state (.well c) (.well .stopping) (.well .off) none] else s).svp
        ∧ t.handed = s.handed
          ++ (if d = w.demand then [] else
            (if (s.entryOfWell c).isSome then [Instr.setPlaced (.well c d)] else [])
              ++ [.bbuWellDemand c, .tbcWellDemand c])
          ++ (if x then wellMoves c .stopping .off else [])))

/-- A status event stores the station's two bits, adopts the channel if it is the first since power-on, and
then decides its trip (R86, R88, R89, R95, R98; that a trip issues its 0 even where the demand was 0 is log 12,
the order of the takers log 21). -/
def Obligations.StatusEventAdoptsAndDecides : Prop :=
  ∀ (s : State) (e : WellStatus) (c : WellNo) (w : Well), c = e.channel → w = s.wcc.get c →
    ∃ m t la ld, exec (.wccStatusEvent e) s = .next t ∧ Frame [.wcc, .svp, .handed] s t
      ∧ Frame [.wcc, .svp, .handed] s m
      ∧ m.handed = s.handed.erase (.wccStatusEvent e) ++ la ∧ t.handed = m.handed ++ ld
      ∧ ReplyDecides c m t ld
      ∧ (w.adopting = false → la = [] ∧ m.svp = s.svp
        ∧ m.wcc = s.wcc.set c { w with run := some e.run, fault := some e.fault })
      ∧ (w.adopting = true →
        (w.state ≠ .off ∨ s.role c = .unused ∨ e.run = false → m.svp = s.svp
          ∧ m.wcc = s.wcc.set c { w with run := some e.run, fault := some e.fault, adopting := false }
          ∧ la = (if w.state = .lockedOut ∧ e.run = true ∧ (s.entryOfWell c).isSome then
            [.tripPlaced (.well c)] else []))
        ∧ (w.state = .off → s.role c ≠ .unused → e.run = true →
          ∃ d, d = (if e.flowQuality = .good then
              max (s.wellSet c .minFlow) (min (s.wellSet c .maxFlow) e.flow) else s.wellSet c .minFlow)
            ∧ m.wcc = s.wcc.set c { w with
                run := some true, fault := some e.fault, adopting := false, state := .running
                ramp := true, demand := d, ocRun := 0, flashRun := 0, dryRun := 0 }
            ∧ m.svp = (s.notify [.state (.well c) (.well .off) (.well .running) none]).svp
            ∧ la = (if (s.entryOfWell c).isSome then [Instr.setPlaced (.well c d)] else [])
              ++ [.bbuWellDemand c, .tbcWellDemand c] ++ wellMoves c .off .running))

/-- An update counts the overcurrent and the dry run and completes a start, channel by channel (R81, R87; the
order within a channel is log 13). What SCM and BBU hand a channel, and the second that counts its cooldown down
(R76, R87, R91, R133; the start timer's seconds are log 3, the order of the takers log 21). -/
def Obligations.WellTakesUpdatesAndHandedValues : Prop :=
  (∀ (u : Update) (s : State), ∃ (t : State) (starts : List WellNo),
      exec (.wccUpdate u) s = .next t ∧ Frame [.wcc, .svp, .handed] s t
      ∧ starts = wells.filter (fun c => decide ((s.wcc.get c).state = .starting)
          && (match u.newValue (qFlow c) with
            | some v => decide (s.wellSet c .startThreshold ≤ v) | none => false))
      ∧ t.svp = (s.notify (starts.map fun c =>
          .state (.well c) (.well .starting) (.well .running) none)).svp
      ∧ t.handed = s.handed.erase (.wccUpdate u) ++ starts.flatMap (fun c => wellMoves c .starting .running)
      ∧ ∀ (c : WellNo) (w w' : Well), w = s.wcc.get c → w' = t.wcc.get c →
        w' = { w with
          state := w'.state, startLeft := w'.startLeft, ocRun := w'.ocRun, dryRun := w'.dryRun }
        ∧ (c ∈ starts → w'.state = .running ∧ w'.startLeft = none ∧ w'.dryRun = 0)
        ∧ (c ∉ starts → w'.state = w.state ∧ w'.startLeft = w.startLeft)
        ∧ (u.newValue (qCurrent c) = none ∨ w.state ≠ .starting ∧ w.state ≠ .running →
          w'.ocRun = w.ocRun)
        ∧ (∀ v, u.newValue (qCurrent c) = some v → w.state = .starting ∨ w.state = .running →
          w'.ocRun = if s.wellLim c 0 < v then min (w.ocRun + 1) 15 else 0)
        ∧ (c ∉ starts → w.state ≠ .running ∨ s.role c ≠ .production
            ∨ u.listsValue (qFlow c) = false ∧ u.listsValue (qCurrent c) = false
            ∨ u.valid s (qFlow c) = none ∨ u.valid s (qCurrent c) = none → w'.dryRun = w.dryRun)
        ∧ (∀ f i, w.state = .running → s.role c = .production →
          u.listsValue (qFlow c) = true ∨ u.listsValue (qCurrent c) = true →
          u.valid s (qFlow c) = some f → u.valid s (qCurrent c) = some i →
          w'.dryRun = if f < s.wellLim c 2 ∧ i < s.wellSet c .dryCurrent then min (w.dryRun + 1) 15
            else 0))
  ∧ (∀ (s : State) (c : WellNo) (w : Well), w = s.wcc.get c →
      (∀ held, exec (.wccFlashHold c held) s
        = .next { s.took (.wccFlashHold c held) with wcc := s.wcc.set c { w with flashHold := held } })
      ∧ (∀ target, exec (.wccTarget c target) s
        = .next { s.took (.wccTarget c target) with wcc := s.wcc.set c { w with target := target } })
      ∧ exec (.wccFlashMargin c none) s
        = .next { s.took (.wccFlashMargin c none) with wcc := s.wcc.set c { w with margin := none } }
      ∧ (∀ m, (w.state = .starting ∨ w.state = .running) ∧ s.role c = .production →
        exec (.wccFlashMargin c (some m)) s
          = .next { s.took (.wccFlashMargin c (some m)) with wcc := s.wcc.set c { w with
            margin := some m, flashRun := if m < s.wellLim c 1 then min (w.flashRun + 1) 15 else 0 } })
      ∧ (∀ m, w.state ≠ .starting ∧ w.state ≠ .running ∨ s.role c ≠ .production →
        exec (.wccFlashMargin c (some m)) s
          = .next { s.took (.wccFlashMargin c (some m)) with wcc := s.wcc.set c { w with
            margin := some m } })
      ∧ ∃ t, exec .wccSecondTimer s = .next t ∧ Frame [.wcc] s t ∧ t.wcc.get c = { w with
          cooldown := w.cooldown - 1, startLeft := w.startLeft.map (· - 1) })

/-! ## Turbine Controller -/

/-- START, STOP and LOAD with their checks in order and their effects (R104, R107, R108, R110, R118), and the
order each state sends (R102; the order of the takers is log 21, the steam demand reckoned at once log 37, the
settle clock set to 0 by a STOP log 36, and the order that a STOP in LOADED sends when it ends an adoption hold
log 15). -/
def Obligations.TurbineCommands : Prop :=
  ∀ s : State, s.portIdle →
    (∀ r : Tbc, r.order = ⟨if r.state = .runup then .speed else if r.state = .syncWait then .sync
      else .valve, r.speed, r.load, if r.state = .runup ∨ r.state = .syncWait then 0 else r.admission,
      r.breakerOpen⟩)
    ∧ s.onlyAnswers (.turbCmdLoad none) 0x38 .badValue
    ∧ ((s.claimant .turbine).isSome = true → s.onlyAnswers .turbCmdStart 0x38 .refusedClaimed
      ∧ ∀ v, s.onlyAnswers (.turbCmdLoad (some v)) 0x38 .refusedClaimed)
    ∧ (s.claimant .turbine = none →
      (s.ssl.storeFault = true → s.onlyAnswers .turbCmdStart 0x38 .refusedStore)
      ∧ (s.ssl.storeFault = false → s.tbc.state ≠ .offline ∨ s.tbc.tripIn = true
          ∨ s.entryOfKind .turbine = none
          ∨ (∃ e, s.entryOfKind .turbine = some e ∧ (s.flc.stations.get e).status = .lost) →
        s.onlyAnswers .turbCmdStart 0x38 .refusedState)
      ∧ (∀ e, s.ssl.storeFault = false → s.tbc.state = .offline → s.tbc.tripIn = false →
        s.entryOfKind .turbine = some e → (s.flc.stations.get e).status ≠ .lost →
        ∃ t, exec .turbCmdStart s = .next (t.answer 0x38 .ok .none)
          ∧ TurbineTakes true [.counterIncrement [.turbStarts]] s.deselect
            { s.turbineInto .warming with
              stageLeft := some (s.turbSet .warmTime * 60).toNat, settle := 0
              admission := s.turbSet .warmPos } t)
      ∧ ∀ v, ∃ d t, d = max 0 (min (s.turbSet .ratedLoad) v)
        ∧ exec (.turbCmdLoad (some v)) s = .next (t.answer 0x38 (if d = v then .ok else .clamped) .none)
        ∧ TurbineTakes false [] s.deselect { s.tbc with loadDemand := d } t)
    ∧ (s.tbc.state = .offline ∨ s.tbc.state = .tripped → s.onlyAnswers .turbCmdStop 0x38 .refusedState)
    ∧ (s.tbc.state ≠ .offline → s.tbc.state ≠ .tripped →
      ∃ m, exec .turbCmdStop s = .next
          ((m.hand [.sqrTargetTripStop .turbine .stop (.command .host)]).answer 0x38 .ok .none)
        ∧ (s.tbc.state = .warming ∨ s.tbc.state = .runup ∨ s.tbc.state = .syncWait →
          TurbineTakes true s.shortfallClear s.deselect { s.turbineInto .offline with
            stageLeft := none, settle := 0, load := 0, speed := 0, admission := 0
            breakerOpen := false } m)
        ∧ (s.tbc.state = .loaded → TurbineTakes (decide (0 < s.tbc.hold)) [] s.deselect
          { s.tbc with state := .unloading, inletRun := 0, mismatch := none, hold := 0 } m)
        ∧ (s.tbc.state = .unloading → m = s.deselect))

/-- Every cause that has an event of its own trips the turbine in the states R112 lists, and TURBINE_RESET
takes a TRIPPED turbine to OFFLINE under the conditions of R115 (R103 to R106, R112 to R115; that the rows of
a timeout and of the mismatch act whenever their clock runs is log 4, that TRIP_IN asserted again does
nothing is log 15, the order and steam demand of every trip log 12, the order of the takers log 21, and that
TBC meets TURB_SPEED as it stood before an update it has not yet taken log 42). -/
def Obligations.TurbineTripsAndReset : Prop :=
  ∀ (s : State) (runs : Prop) (speed : QState × Int), TakerMeets tbcUpdateOf s qTurbSpeed speed →
    (runs ↔ s.tbc.state = .warming ∨ s.tbc.state = .runup ∨ s.tbc.state = .syncWait
      ∨ s.tbc.state = .loaded ∨ s.tbc.state = .unloading) →
    (s.tbc.tripIn = true → exec .tripInAsserted s = .next s)
    ∧ (s.tbc.tripIn = false → runs → ∃ t, exec .tripInAsserted s = .next t
      ∧ TurbineTrips .external { s with tbc := { s.tbc with tripIn := true } } t)
    ∧ (s.tbc.tripIn = false → ¬runs →
      exec .tripInAsserted s = .next { s with tbc := { s.tbc with tripIn := true } })
    ∧ exec .tripInCleared s = .next { s with tbc := { s.tbc with tripIn := false } }
    ∧ (runs → ∃ t, exec .tbcLinkLost s = .next t ∧ TurbineTrips .linkLost (s.took .tbcLinkLost) t)
    ∧ (¬runs → exec .tbcLinkLost s = .next (s.took .tbcLinkLost))
    ∧ (s.tbc.state = .runup → s.tbc.stageLeft.isSome = true →
      ∃ t, exec .runupTimeout s = .next t ∧ TurbineTrips .runupFail s t)
    ∧ (s.tbc.state ≠ .runup → exec .runupTimeout s = .next s)
    ∧ (s.tbc.state = .syncWait → s.tbc.stageLeft.isSome = true →
      ∃ t, exec .syncTimeout s = .next t ∧ TurbineTrips .syncFail s t)
    ∧ (s.tbc.state ≠ .syncWait → exec .syncTimeout s = .next s)
    ∧ (s.tbc.mismatch.isSome = true →
      s.tbc.state = .warming ∨ s.tbc.state = .loaded ∨ s.tbc.state = .unloading →
      ∃ t, exec .valveMismatch s = .next t ∧ TurbineTrips .valveMismatch s t)
    ∧ (s.tbc.mismatch = none → exec .valveMismatch s = .next s)
    ∧ (s.portIdle → s.svp.selection = some (.turbineTrip, 0) →
      (runs → ∃ t, exec (.operateTurbineTrip 0) s = .next (t.answer 0x04 .ok .none)
        ∧ TurbineTrips .operator s.deselect t)
      ∧ (¬runs → s.onlyAnswers (.operateTurbineTrip 0) 0x04 .refusedState))
    ∧ (s.portIdle → s.svp.selection = some (.turbineReset, 0) →
      ((s.claimant .turbine).isSome = true →
        s.onlyAnswers (.operateTurbineReset 0) 0x04 .refusedClaimed)
      ∧ (s.claimant .turbine = none → s.tbc.state ≠ .tripped ∨ s.tbc.tripIn = true
          ∨ speed.1 ≠ .valid ∨ s.turbSet .resetSpeed ≤ speed.2 ∨ s.entryOfKind .turbine = none
          ∨ (∃ e, s.entryOfKind .turbine = some e ∧ (s.flc.stations.get e).status ≠ .online) →
        s.onlyAnswers (.operateTurbineReset 0) 0x04 .refusedState)
      ∧ (∀ e, s.claimant .turbine = none → s.tbc.state = .tripped → s.tbc.tripIn = false →
        speed.1 = .valid → speed.2 < s.turbSet .resetSpeed →
        s.entryOfKind .turbine = some e → (s.flc.stations.get e).status = .online →
        ∃ t, exec (.operateTurbineReset 0) s = .next (t.answer 0x04 .ok .none)
          ∧ TurbineTakes true [.alarmClear .turbTrip .turbine] s.deselect
            { s.turbineInto .offline with
              tripOut := false, breakerOpen := false, load := 0, speed := 0, admission := 0 } t))

/-- The moves through the starting states, the breaker changes and the adoption (R104, R105, R106, R108, R116,
R117; the row of the settle clock is log 4, its return to 0 at OFFLINE log 36, the admission demand reported
without a VALID ADM_POS log 15, the adopted record log 16). -/
def Obligations.TurbineStagesAndBreaker : Prop :=
  ∀ (s : State) (admission : Int),
    ((s.qtb.get qAdmPos).state = .valid → admission = s.reported qAdmPos) →
    ((s.qtb.get qAdmPos).state ≠ .valid → admission = s.tbc.admission) →
    (s.tbc.state = .warming → s.tbc.stageLeft.isSome = true →
      ∃ t, exec .stageTimerExpiry s = .next t ∧ TurbineTakes true [] s { s.turbineInto .runup with
        stageLeft := some (s.turbSet .runupTimeout).toNat, settle := 0, admission := admission
        speed := if (s.qtb.get qTurbSpeed).state = .valid then s.reported qTurbSpeed else 0 } t)
    ∧ (s.tbc.state ≠ .warming → exec .stageTimerExpiry s = .next s)
    ∧ (s.tbc.state = .runup → s.tbc.inBand = true → s.tbc.speed = s.turbSet .ratedSpeed →
      ∃ t, exec .settleComplete s = .next t
        ∧ TurbineTakes true s.shortfallClear s { s.turbineInto .syncWait with
          stageLeft := some (s.turbSet .syncTimeout).toNat, speed := s.turbSet .ratedSpeed, load := 0
          admission := admission } t)
    ∧ (s.tbc.state ≠ .runup → exec .settleComplete s = .next s)
    ∧ (s.tbc.state = .loaded → 0 < s.tbc.hold → ∃ t, exec .adoptHoldEnd s = .next t
      ∧ TurbineTakes true [] s { s.tbc with hold := 0 } t)
    ∧ (s.tbc.state ≠ .loaded ∨ s.tbc.hold = 0 → exec .adoptHoldEnd s = .next s)
    ∧ ∀ (e : TurbStatus) (m : State), m = { s.took (.tbcStatusEvent e) with
        tbc := { s.tbc with breaker := some e.breaker, adopting := false } } →
      ∃ t, exec (.tbcStatusEvent e) s = .next t
        ∧ (s.tbc.adopting = true → s.tbc.state = .offline →
          (e.breaker = true → ∃ d load a, d = (if e.loadQuality = .good then
                max 0 (min (s.turbSet .ratedLoad) e.load) else 0)
              ∧ load = max 0 (min s.tbc.ceiling d)
              ∧ TurbineTakes true [] m { m.tbc with
                state := .loaded, inletRun := 0, mismatch := none, loadDemand := d, load := load
                speed := s.turbSet .ratedSpeed, breakerOpen := false
                hold := (s.turbSet .adoptHold).toNat
                admission := min (s.turbSet .admNoload
                  + (1000 - s.turbSet .admNoload) * load / s.turbSet .ratedLoad) 1000 } a
              ∧ (s.tbc.tripIn = true → TurbineTrips .external a t) ∧ (s.tbc.tripIn = false → t = a))
          ∧ (e.breaker = false → e.speedQuality = .good → s.turbSet .resetSpeed < e.speed →
            TurbineTrips .adopt m t)
          ∧ (e.breaker = false → e.speedQuality ≠ .good ∨ e.speed ≤ s.turbSet .resetSpeed → t = m))
        ∧ (s.tbc.adopting = false ∨ s.tbc.state ≠ .offline →
          (s.tbc.state = .syncWait → e.breaker = true → TurbineTakes true [] m { m.tbc with
            state := .loaded, inletRun := 0, mismatch := none, hold := 0, stageLeft := none
            speed := s.turbSet .ratedSpeed, load := 0
            admission := min (s.turbSet .admNoload) 1000 } t)
          ∧ (s.tbc.state = .loaded → e.breaker = false →
            TurbineTakes true s.shortfallClear m { m.turbineInto .syncWait with
              stageLeft := some (s.turbSet .syncTimeout).toNat, speed := s.turbSet .ratedSpeed, load := 0
              admission := admission } t)
          ∧ (s.tbc.state = .unloading → e.breaker = false →
            TurbineTakes true s.shortfallClear m { m.turbineInto .offline with
              stageLeft := none, settle := 0, load := 0, speed := 0, admission := 0
              breakerOpen := false } t)
          ∧ (¬(s.tbc.state = .syncWait ∧ e.breaker = true)
            → ¬((s.tbc.state = .loaded ∨ s.tbc.state = .unloading) ∧ e.breaker = false) → t = m))

/-- TBC's second (R105, R106, R107, R108, R113, R117; the warm timer's seconds are log 3, and the admission
demand kept at SYNC_WAIT without a VALID ADM_POS is log 15, and the steam demand reckoned anew at each ramp step
log 37). -/
def Obligations.TurbineSecond : Prop :=
  ∀ s : State, ∃ t, exec .tbcSecondTimer s = .next t
    ∧ (s.tbc.state = .offline ∨ s.tbc.state = .tripped → t = s)
    ∧ (s.tbc.state = .runup → ∃ speed a n b,
      (s.tbc.speed < s.turbSet .ratedSpeed →
        speed = min (s.tbc.speed + s.turbSet .runupRate) (s.turbSet .ratedSpeed))
      ∧ (s.turbSet .ratedSpeed ≤ s.tbc.speed → speed = s.turbSet .ratedSpeed)
      ∧ TurbineTakes false [] s { s.tbc with speed := speed } a
      ∧ n = (if speed = s.turbSet .ratedSpeed ∧ s.tbc.inBand = true then s.tbc.settle + 1 else 0)
      ∧ b = { a with tbc := { a.tbc with settle := n } }
      ∧ (s.turbSet .settleTime ≤ n → ∃ admission,
        ((s.qtb.get qAdmPos).state = .valid → admission = s.reported qAdmPos)
        ∧ ((s.qtb.get qAdmPos).state ≠ .valid → admission = s.tbc.admission)
        ∧ TurbineTakes true s.shortfallClear b { b.turbineInto .syncWait with
          stageLeft := some (s.turbSet .syncTimeout).toNat, speed := s.turbSet .ratedSpeed, load := 0
          admission := admission } t)
      ∧ (n < s.turbSet .settleTime → (s.tbc.stageLeft = none → t = b)
        ∧ (∀ k, s.tbc.stageLeft = some k → 1 < k →
          t = { b with tbc := { b.tbc with stageLeft := some (k - 1) } })
        ∧ (∀ k, s.tbc.stageLeft = some k → k ≤ 1 → TurbineTrips .runupFail b t)))
    ∧ (s.tbc.state = .syncWait → (s.tbc.stageLeft = none → t = s)
      ∧ (∀ k, s.tbc.stageLeft = some k → 1 < k →
        t = { s with tbc := { s.tbc with stageLeft := some (k - 1) } })
      ∧ (∀ k, s.tbc.stageLeft = some k → k ≤ 1 → TurbineTrips .syncFail s t))
    ∧ (s.tbc.state = .warming ∨ s.tbc.state = .loaded ∨ s.tbc.state = .unloading →
      (∀ n, s.tbc.mismatch = some n → s.turbSet .mismatchTime ≤ n + 1 → TurbineTrips .valveMismatch s t)
      ∧ ∀ m, (s.tbc.mismatch = none → m = s) → (∀ n, s.tbc.mismatch = some n →
          m = { s with tbc := { s.tbc with mismatch := some (n + 1) } }) →
        (∀ n, s.tbc.mismatch = some n → (n : Int) + 1 < s.turbSet .mismatchTime) →
        (s.tbc.state = .warming →
          t = { m with tbc := { m.tbc with stageLeft := s.tbc.stageLeft.map (· - 1) } })
        ∧ (s.tbc.state = .loaded → 1 < s.tbc.hold →
          t = { m with tbc := { m.tbc with hold := s.tbc.hold - 1 } })
        ∧ (s.tbc.state = .loaded → s.tbc.hold = 1 →
          TurbineTakes true [] m { m.tbc with hold := 0 } t)
        ∧ (s.tbc.state = .loaded → s.tbc.hold = 0 → ∃ goal, goal = min s.tbc.loadDemand s.tbc.ceiling
          ∧ (s.tbc.load < goal → TurbineTakes false [] m
            (s.turbineAt (min (s.tbc.load + s.turbSet .loadRate) goal) m.tbc) t)
          ∧ (goal ≤ s.tbc.load → TurbineTakes false [] m
            (s.turbineAt (max (s.tbc.load - s.turbSet .loadRate) goal) m.tbc) t))
        ∧ (s.tbc.state = .unloading → ∃ a opens,
          TurbineTakes false [] m (s.turbineAt (max (s.tbc.load - s.turbSet .unloadRate) 0) m.tbc) a
          ∧ (opens ↔ s.tbc.breakerOpen = false ∧ (a.tbc.load = 0
            ∨ (s.qtb.get qGenLoad).state = .valid ∧ s.reported qGenLoad ≤ s.turbSet .minLoad))
          ∧ (opens → TurbineTakes true [] a { a.tbc with breakerOpen := true } t) ∧ (¬opens → t = a)))

/-- An update as TBC takes it: the trip tests with the higher cause first, the band, the admission demand, the
mismatch test, the shortfall and the breaker test (R102, R105, R108, R109, R111, R112, R113; that they come in
this order is log 21, and that steam available is found anew with the ceiling while STEAM_SHORTFALL stays
raised is log 37). -/
def Obligations.TurbineTakesAnUpdate : Prop :=
  ∀ (u : Update) (s : State), ∃ a b c d t, exec (.tbcUpdate u) s = .next t
    ∧ (∃ run, a = { s.took (.tbcUpdate u) with tbc := { s.tbc with inletRun := run } }
      ∧ (∀ counts : Prop, (counts ↔ s.tbc.state = .runup ∨ s.tbc.state = .syncWait
          ∨ s.tbc.state = .loaded ∨ s.tbc.state = .unloading) →
        (¬counts ∨ u.newValue qInletP = none → run = s.tbc.inletRun)
        ∧ (∀ v, counts → u.newValue qInletP = some v →
          run = if v < s.limit 1 then min (s.tbc.inletRun + 1) 15 else 0)
        ∧ ∀ fast low : Prop,
          (fast ↔ s.tbc.state ≠ .tripped ∧ ∃ v, u.newValue qTurbSpeed = some v ∧ s.limit 0 < v) →
          (low ↔ counts ∧ u.newValue qInletP ≠ none ∧ s.turbSet .inletPersist ≤ run) →
          (fast → TurbineTrips .overspeed a b) ∧ (¬fast → low → TurbineTrips .lowInlet a b)
          ∧ (¬fast → ¬low → b = a)))
    ∧ (∃ band adm clock, c = { b with tbc := { b.tbc with
          inBand := band, admission := adm, mismatch := clock } }
      ∧ (∀ v, u.newValue qTurbSpeed = some v → (band = true ↔
        s.turbSet .ratedSpeed - s.turbSet .speedBand ≤ v
          ∧ v ≤ s.turbSet .ratedSpeed + s.turbSet .speedBand))
      ∧ (u.newValue qTurbSpeed = none → band = (s.tbc.inBand && !u.outOfValid qTurbSpeed))
      ∧ (u.newValue qAdmPos = none → adm = b.tbc.admission
        ∧ clock = if u.outOfValid qAdmPos then none else b.tbc.mismatch)
      ∧ ∀ v, u.newValue qAdmPos = some v →
        (b.tbc.state = .runup ∨ b.tbc.state = .syncWait → adm = v ∧ clock = b.tbc.mismatch)
        ∧ (b.tbc.state ≠ .runup → b.tbc.state ≠ .syncWait → adm = b.tbc.admission)
        ∧ (b.tbc.state = .offline ∨ b.tbc.state = .tripped ∨ 0 < b.tbc.hold → clock = b.tbc.mismatch)
        ∧ (b.tbc.state = .warming ∨ b.tbc.state = .loaded ∨ b.tbc.state = .unloading → b.tbc.hold = 0 →
          clock = if s.limit 2 < |v - b.tbc.admission| then some (b.tbc.mismatch.getD 0) else none))
    ∧ (u.newValue qSteamFlow = none ∨ (c.tbc.state ≠ .loaded ∧ c.tbc.state ≠ .unloading) → d = c)
    ∧ (∀ v, u.newValue qSteamFlow = some v → c.tbc.state = .loaded ∨ c.tbc.state = .unloading →
      (c.tbc.steamAvail * (1000 - s.turbSet .shortfallMargin) ≤ v * 1000 →
        (c.tbc.shortfall = false → d = { c with tbc := { c.tbc with shortRun := 0 } })
        ∧ (c.tbc.shortfall = true → TurbineTakes false [.alarmClear .steamShortfall .turbine] c
          (s.turbineUnder { c.tbc with
            shortRun := 0, shortfall := false, steamAvail := s.steamAvailable
            ceiling := s.steamAvailable * s.turbSet .steamRate }) d))
      ∧ (v * 1000 < c.tbc.steamAvail * (1000 - s.turbSet .shortfallMargin) →
        ∃ run under, run = min (c.tbc.shortRun + 1) 15
          ∧ under = s.turbineUnder { c.tbc with
            shortRun := run, shortfall := true, steamAvail := s.steamAvailable
            ceiling := v * s.turbSet .steamRate }
          ∧ (c.tbc.shortfall = true → TurbineTakes false [] c under d)
          ∧ (c.tbc.shortfall = false → s.turbSet .shortfallPersist ≤ run →
            TurbineTakes false [.alarmChange .steamShortfall .turbine (.raise .alarm v)] c under d)
          ∧ (c.tbc.shortfall = false → run < s.turbSet .shortfallPersist →
            d = { c with tbc := { c.tbc with shortRun := run } })))
    ∧ ∃ opens, (opens ↔ d.tbc.state = .unloading ∧ d.tbc.breakerOpen = false
        ∧ ∃ v, u.newValue qGenLoad = some v ∧ (d.tbc.load = 0 ∨ v ≤ s.turbSet .minLoad))
      ∧ (opens → TurbineTakes true [] d { d.tbc with breakerOpen := true } t) ∧ (¬opens → t = d)

/-- Steam available and the ceiling are found anew at the demands of production wells, at their moves into and
out of RUNNING and at the settings they rest on, and a ceiling below the setpoint pulls it down at once; no
other change of a well's state concerns TBC (R101, R109, R110; log 18, and log 37 for the steam demand
reckoned at once). -/
def Obligations.CeilingFollowsTheWells : Prop :=
  ∀ (s : State) (r : Tbc),
    s.steamAvailable = (wells.map fun c => if s.role c = .production ∧ (s.wcc.get c).state = .running
        then (s.wcc.get c).demand else 0).sum * s.balSet .steamFraction / 1000 ∧
    (r = s.ceilingFound →
      (∀ c old new k, ∀ moves : Prop,
        (moves ↔ s.role c = .production ∧ ¬(old = .running ↔ new = .running)) →
        (moves → ∃ t, exec (.tbcWellState c (old, new) k) s = .next t
          ∧ TurbineTakes false [] (s.took (.tbcWellState c (old, new) k)) r t)
        ∧ (¬moves → exec (.tbcWellState c (old, new) k) s = .next (s.took (.tbcWellState c (old, new) k))))
      ∧ (∀ c, s.role c = .production → ∃ t, exec (.tbcWellDemand c) s = .next t
        ∧ TurbineTakes false [] (s.took (.tbcWellDemand c)) r t)
      ∧ (∀ c, s.role c ≠ .production → exec (.tbcWellDemand c) s = .next (s.took (.tbcWellDemand c)))
      ∧ ∀ old, ∃ t, exec (.settingChangeTaken (.item (.turbine .steamRate)) old) s = .next t
        ∧ TurbineTakes false [] (s.took (.settingChangeTaken (.item (.turbine .steamRate)) old)) r t)
    ∧ (∀ old, ∃ t, exec (.settingChangeTaken (.item (.turbine .ratedLoad)) old) s = .next t
      ∧ TurbineTakes false [] (s.took (.settingChangeTaken (.item (.turbine .ratedLoad)) old))
        { s.tbc with loadDemand := min s.tbc.loadDemand (s.turbSet .ratedLoad) } t)
    ∧ ∀ old, ∃ t, exec (.settingChangeTaken (.item (.turbine .warmSteam)) old) s = .next t
      ∧ TurbineTakes false [] (s.took (.settingChangeTaken (.item (.turbine .warmSteam)) old)) s.tbc t

/-! ## Brine Balance Unit -/

/-- BAL_CMD, the steam demand, the turbine's changes of state and the production demands as BBU takes them: the
requirement, AFTER_TRIP and FAST_DOWN, and the ceiling and allocation they bring (R123, R124, R125, R134). -/
def Obligations.RequirementAndFastDown : Prop :=
  ∀ s : State, s.wellsLegal → s.ssl.settings.inOrder →
    (s.portIdle → s.onlyAnswers (.balCmdMode none) 0x40 .badValue
      ∧ ((s.claimant .balance).isSome = true → (∀ m, s.onlyAnswers (.balCmdMode (some m)) 0x40
          .refusedClaimed) ∧ ∀ v, s.onlyAnswers (.balCmdFixedTarget v) 0x40 .refusedClaimed)
      ∧ (s.claimant .balance = none →
        (∀ m, ∃ a b t, exec (.balCmdMode (some m)) s = .next (t.answer 0x40 .ok .none)
          ∧ a = { s.deselect with
            bbu := { s.bbu with mode := m, afterTrip := false }
            svp := (s.deselect.noticed .balance (.balance s.bbu.mode) (.balance m) none).svp
            handed := s.handed ++ changed .balance (.balance s.bbu.mode) (.balance m) }
          ∧ Reckons a b ∧ RecomputesCeiling b t)
        ∧ ∀ v, ∃ f b t, f = max 0 (min (overWells fun c =>
            if s.role c = .production then s.wellSet c .maxFlow else 0) v)
          ∧ exec (.balCmdFixedTarget v) s
            = .next (t.answer 0x40 (if f = v then .ok else .clamped) .none)
          ∧ Reckons { s.deselect with bbu := { s.bbu with fixedTarget := f } } b
          ∧ RecomputesCeiling b t))
    ∧ (∀ d, ∃ t, exec (.bbuSteamDemand d) s = .next t
      ∧ ReckonsAtTurbine { s.took (.bbuSteamDemand d) with bbu := { s.bbu with steam := d } } t)
    ∧ (∀ old k, s.bbu.mode = .power → ∃ t, exec (.bbuTurbineState (old, .tripped) k) s = .next t
      ∧ ReckonsAtTurbine { s.took (.bbuTurbineState (old, .tripped) k) with
        bbu := { s.bbu with afterTrip := true, fastDown := true } } t)
    ∧ (∀ old k, ∃ t, exec (.bbuTurbineState (old, .loaded) k) s = .next t
      ∧ ReckonsAtTurbine { s.took (.bbuTurbineState (old, .loaded) k) with
        bbu := { s.bbu with afterTrip := false } } t)
    ∧ (∀ old new k, new ≠ .loaded → new ≠ .tripped ∨ s.bbu.mode ≠ .power →
      exec (.bbuTurbineState (old, new) k) s = .next (s.took (.bbuTurbineState (old, new) k)))
    ∧ ∀ c, exec (.bbuWellDemand c) s = .next (if s.role c = .production
        ∧ s.productionDemand ≤ s.bbu.tReq then
        { s.took (.bbuWellDemand c) with bbu := { s.bbu with fastDown := false } }
      else s.took (.bbuWellDemand c))

/-- The events that bring an allocation alone, and those that first compute the ceiling anew (R126, R129, R130,
R131, R132, R133; BBU takes a role change as log 18 says). -/
def Obligations.AllocationEvents : Prop :=
  ∀ (s : State) (c : WellNo), s.wellsLegal → s.ssl.settings.inOrder →
    (∀ old new k, old = new ∨ s.role c = .reinjection →
      ∃ t, exec (.bbuWellState c (old, new) k) s = .next t
        ∧ RecomputesCeiling (s.took (.bbuWellState c (old, new) k)) t)
    ∧ (∀ old new k, old ≠ new → s.role c = .production →
      ∃ t, exec (.bbuWellState c (old, new) k) s = .next t
        ∧ Allocates (s.took (.bbuWellState c (old, new) k)) t)
    ∧ (∀ old new k, old ≠ new → s.role c = .unused →
      exec (.bbuWellState c (old, new) k) s = .next (s.took (.bbuWellState c (old, new) k)))
    ∧ (s.role c ≠ .unused → ∃ t, exec (.bbuWellWeight c) s = .next t
      ∧ Allocates (s.took (.bbuWellWeight c)) t)
    ∧ (s.role c = .unused → exec (.bbuWellWeight c) s = .next (s.took (.bbuWellWeight c)))
    ∧ (∀ held m, m = { s.took (.bbuFlashHold c held) with bbu := { s.bbu with
        caps := s.bbu.caps.set c (if held then some (s.wcc.get c).demand else none) } } →
      (s.role c = .production → ∃ t, exec (.bbuFlashHold c held) s = .next t ∧ Allocates m t)
      ∧ (s.role c ≠ .production → exec (.bbuFlashHold c held) s = .next m))
    ∧ ∀ (old : Int) (i : WellItem) (m : State),
      m = s.took (.settingChangeTaken (.item (.well c i)) old) →
      (s.role c = .production → i = .minFlow ∨ i = .maxFlow →
        ∃ t, exec (.settingChangeTaken (.item (.well c i)) old) s = .next t ∧ Allocates m t)
      ∧ (s.role c = .reinjection → i = .maxFlow →
        ∃ t, exec (.settingChangeTaken (.item (.well c i)) old) s = .next t ∧ RecomputesCeiling m t)
      ∧ (i ≠ .role → i ≠ .maxFlow → i ≠ .minFlow ∨ s.role c ≠ .production →
        exec (.settingChangeTaken (.item (.well c i)) old) s = .next m)

/-- The allocation that follows the new ceiling of a reinjection well's change of state keeps its promises:
every production target lies between the well's MIN_FLOW and MAX_FLOW and under its flash cap, and the brine
of the production flow stays within the reinjection capacity unless BRINE_OVER is raised and every ACTIVE well
is at its MIN_FLOW (R132). -/
def Obligations.BrineStaysWithinCapacity : Prop :=
  ∀ (s : State) (c : WellNo) (old new : WellState) (k : Option WellCause), s.wellsLegal →
    s.ssl.settings.inOrder →
    s.ssl.settings.inRange → s.role c = .reinjection →
    ∃ t, exec (.bbuWellState c (old, new) k) s = .next t
      ∧ (∀ w v, s.role w = .production → (t.bbu.rows.get w).target = some v →
        s.wellSet w .minFlow ≤ v ∧ v ≤ s.wellSet w .maxFlow
        ∧ ∀ cap, s.bbu.caps.get w = some cap → (s.wcc.get w).state = .running → v ≤ cap)
      ∧ (t.bbu.brineOver = false →
        (t.bbu.production * (1000 - s.balSet .steamFraction) + 999) / 1000 ≤ t.bbu.capacity)
      ∧ (t.bbu.brineOver = true → ∀ w v, s.role w = .production → (t.bbu.rows.get w).target = some v →
        v = s.wellSet w .minFlow)

/-- The tank hold follows TANK_LEVEL through NORMAL, HOLD and FROZEN, and its timer lowers the hold ceiling
while the level is high (R127, R128; the timer compares with the TANK_XOFF of the last TANK_LEVEL value, log 38,
and finds the level as it stood before an update not yet taken, log 42). -/
def Obligations.TankHoldFollowsTheLevel : Prop :=
  ∀ (s : State) (u : Update) (level : QState × Int), TakerMeets bbuUpdateOf s qTankLevel level →
    s.wellsLegal → s.ssl.settings.inOrder →
    ∃ t, exec (.bbuTankUpdate u) s = .next t
    ∧ ∀ m r step, r = s.took (.bbuTankUpdate u) → step = s.balSet .holdStep →
      m = { r with bbu := { s.bbu with
        tankXoff := if (u.newValue qTankLevel).isSome then s.balSet .tankXoff else s.bbu.tankXoff } } →
      (u.newValue qTankLevel = none → u.intoStale qTankLevel = false ∨ s.bbu.hold = .frozen → t = m)
      ∧ (u.newValue qTankLevel = none → u.intoStale qTankLevel = true → s.bbu.hold ≠ .frozen →
        ∃ h, (s.bbu.holdCeiling = none → h = s.productionDemand)
          ∧ (∀ x, s.bbu.holdCeiling = some x → h = min s.productionDemand x)
          ∧ HoldBecomes .frozen (some h) s.bbu.tankHigh [] m t)
      ∧ (∀ v, u.newValue qTankLevel = some v →
        (s.bbu.hold = .normal → v < s.balSet .tankXoff → t = m)
        ∧ (s.bbu.hold = .hold → s.balSet .tankXon < v → t = m)
        ∧ (s.bbu.hold = .frozen → s.balSet .tankXon < v → v < s.balSet .tankXoff →
          HoldBecomes .hold s.bbu.holdCeiling s.bbu.tankHigh [] m t)
        ∧ (s.bbu.hold ≠ .normal → v ≤ s.balSet .tankXon → HoldBecomes .normal none false
          (if s.bbu.tankHigh then [.alarmClear .tankHigh .balance] else []) m t)
        ∧ (s.bbu.hold ≠ .hold → s.balSet .tankXoff ≤ v → ∃ h,
          (s.bbu.hold = .normal ∨ s.bbu.holdCeiling = none →
            h = max (s.productionDemand - step) s.leastProduction)
          ∧ (∀ x, s.bbu.hold = .frozen → s.bbu.holdCeiling = some x →
            h = max (min (s.productionDemand - step) x) s.leastProduction)
          ∧ HoldBecomes .hold (some h) true (if s.bbu.tankHigh then [] else
            [.alarmChange .tankHigh .balance (.raise .alarm v)]) m t))
      ∧ (s.bbu.hold ≠ .hold ∨ s.bbu.holdTimer = false ∨ level.1 ≠ .valid
          ∨ level.2 < s.bbu.tankXoff ∨ s.bbu.holdCeiling = none
          ∨ (∃ x, s.bbu.holdCeiling = some x ∧ (x ≤ s.leastProduction ∨ step = 0)) →
        exec .holdTimerExpiry s = .next s)
      ∧ ∀ x, s.bbu.hold = .hold → s.bbu.holdTimer = true → level.1 = .valid →
        s.bbu.tankXoff ≤ level.2 → s.bbu.holdCeiling = some x →
        s.leastProduction < x → 0 < step →
        ∃ r, exec .holdTimerExpiry s = .next r ∧ RecomputesCeiling { s with bbu := { s.bbu with
          holdCeiling := some (max (x - step) s.leastProduction) } } r

/-! ## Field Link Controller -/

/-- SETs and TRIPs placed, the slot's end with its skipped polls and its new poll list, and a retirement: what
each does to the queues, before the arbiter chooses (R137, R138, R139, R140, R141; a retirement that waits is
log 19). -/
def Obligations.QueuesAndSlots : Prop :=
  ∀ s : State,
    (∀ o, s.entryOfOrder o = none → exec (.setPlaced o) s = .next (s.took (.setPlaced o)))
    ∧ (∀ o e, s.entryOfOrder o = some e → ∃ q t, exec (.setPlaced o) s = .next t
      ∧ ((∀ x ∈ s.flc.setQ, x.entry ≠ e) → q = s.flc.setQ ++ [⟨e, o, false, false⟩])
      ∧ (∀ before x after, s.flc.setQ = before ++ x :: after → x.entry = e →
        (∀ y ∈ before, y.entry ≠ e) →
        q = before ++ { x with order := o, replaced := x.inFlight } :: after)
      ∧ Arbitrates { s.took (.setPlaced o) with flc := { s.flc with
        setQ := q
        stations := s.flc.stations.set e { s.flc.stations.get e with lastDemand := some o } } } t)
    ∧ (∀ x, s.entryOfTrip x = none → exec (.tripPlaced x) s = .next (s.took (.tripPlaced x)))
    ∧ (∀ x e, s.entryOfTrip x = some e → ∃ q t, exec (.tripPlaced x) s = .next t
      ∧ ((∀ y ∈ s.flc.tripQ, y.entry ≠ e) → q = s.flc.tripQ ++ [⟨e, 0⟩])
      ∧ (∀ before y after, s.flc.tripQ = before ++ y :: after → y.entry = e →
        (∀ z ∈ before, z.entry ≠ e) → q = before ++ ⟨e, 0⟩ :: after)
      ∧ Arbitrates { s.took (.tripPlaced x) with flc := { s.flc with tripQ := q } } t)
    ∧ (∃ pos polls t, exec .slotExpiry s = .next t
      ∧ pos = (s.flc.position + 1) % (s.fieldSet .patternLength).toNat
      ∧ (∀ e, e ∈ polls ↔ (s.station e).kind ≠ .none
        ∧ (s.entrySet e .pollMask).toNat.testBit pos = true)
      ∧ polls.Nodup ∧ polls.Pairwise (fun a b => (s.station a).address ≤ (s.station b).address)
      ∧ ∀ st : EntryNo → Station, (∀ e, st e = (s.flc.retiring.lookup e).getD (s.station e)) →
        Arbitrates { s with
          flc := { s.flc with position := pos, started := 0, burst := 0, pollList := polls }
          handed := s.handed ++ s.flc.pollList.flatMap fun e =>
            [.qtbDelivery ⟨(st e).kind, (st e).channel,
              (stationQtys (st e).kind (st e).channel).map fun q => (q, .erasure), none⟩,
              .counterIncrement [.deferredPolls e], .counterIncrement [.scanOverruns]] } t)
    ∧ ∀ e old, (∀ f, s.flc.flight = some f → f.entry = e → exec (.stationRetire e old) s
        = .next { s.took (.stationRetire e old) with flc := { s.flc with
          retiring := s.flc.retiring ++ [(e, old)] } })
      ∧ ((∀ f, s.flc.flight = some f → f.entry ≠ e) → ∃ t, exec (.stationRetire e old) s = .next t
        ∧ Retires e old (s.took (.stationRetire e old)) t)

/-- The first complete frame, or the timeout, ends the exchange in flight in the first outcome of R142 that
holds; bytes with no exchange in flight or without a complete frame change nothing (R142, R143, R144; bytes that
change nothing are log 24, the retirements that wait log 19, and the arbiter's choice after them and the TRIP
placed again log 20). -/
def Obligations.ExchangesEndInOneOutcome : Prop :=
  ∀ s : State,
    (∀ l, s.flc.flight = none → exec (.fieldReplyReceived l) s = .next s ∧ exec .replyTimeout s = .next s)
    ∧ ∀ f, s.flc.flight = some f →
      (∃ t, exec .replyTimeout s = .next t ∧ ExchangeEnds f .noReply [] 0 s t)
      ∧ (∀ l, l.length < 3 → exec (.fieldReplyReceived l) s = .next s)
      ∧ (∀ a k n rest, rest.length < n.toNat + 2 →
        exec (.fieldReplyReceived (a :: k :: n :: rest)) s = .next s)
      ∧ ∀ (a k n c d : Byte) (body more : List Byte), body.length = n.toNat →
        ∃ o values t,
          exec (.fieldReplyReceived (a :: k :: n :: body ++ c :: d :: more)) s = .next t
          ∧ ExchangeEnds f o values (body.getD (5 * (stationQtys f.station.kind 0).length) 0) s t
          ∧ ∀ (check form : Prop), (check ↔ crcBytes (a :: k :: n :: body) = [c, d]) →
            (form ↔ (k, n.toNat) = answerDue f.exchange f.station.kind
              ∧ (f.exchange = .poll → ∀ j, j < (stationQtys f.station.kind 0).length →
                (body.getD (5 * j + 4) 0).toNat ≤ 2)) →
            (¬check → o = .badCheck) ∧ (check → a.toNat ≠ f.station.address → o = .wrongAddr)
            ∧ (check → a.toNat = f.station.address → ¬form → o = .badForm)
            ∧ (check → a.toNat = f.station.address → form → o = .good
              ∧ (f.exchange = .poll → values.length = (stationQtys f.station.kind 0).length
                ∧ ∀ (j : Nat) (v : Int) (q : Quality), values[j]? = some (v, q) →
                  v = (body.getD (5 * j) 0 ++ body.getD (5 * j + 1) 0 ++ body.getD (5 * j + 2) 0
                    ++ body.getD (5 * j + 3) 0 : BitVec 32).toInt
                  ∧ (body.getD (5 * j + 4) 0).toNat
                    = (match q with | .good => 0 | .suspect => 1 | .fault => 2)))

/-- The frames of R146, both ways: the bytes of each SET, and for every kind of station a POLL_REPLY built by
its table from any values and qualities is read as GOOD with exactly those values and qualities and its extra
byte, whatever follows it. -/
def Obligations.PollRepliesAreReadBack : Prop :=
  (∀ (c : WellNo) (v : Int), setBody (.well c v) = be16 v ∧ setBody (.exchanger v) = be16 v)
  ∧ (∀ o : TurbOrder, setBody (.turbine o)
    = ([match o.control with | .valve => 0 | .speed => 1 | .sync => 2] : List Byte) ++ be16 o.speed
      ++ be32 o.load ++ be16 o.admission ++ [if o.breakerOpen then 1 else 0])
  ∧ (∀ (a : Nat) (k : Byte) (body : List Byte), ∃ inner : List Byte,
    inner = BitVec.ofNat 8 a :: k :: BitVec.ofNat 8 body.length :: body
      ∧ fieldFrame a k body = inner ++ crcBytes inner)
  ∧ ∀ (s : State) (f : Flight) (values : List (Int × Quality)) (extra : Byte) (body more : List Byte),
    s.flc.flight = some f → f.exchange = .poll → f.station.kind ≠ .none → f.station.address < 256 →
    values.length = (stationQtys f.station.kind 0).length →
    (∀ v q, (v, q) ∈ values → -2147483648 ≤ v ∧ v < 2147483648) →
    body = (values.flatMap fun x => be32 x.1
      ++ ([match x.2 with | .good => 0 | .suspect => 1 | .fault => 2] : List Byte))
      ++ (if f.station.kind = .well ∨ f.station.kind = .turbine ∨ f.station.kind = .analyser then
        [extra] else []) →
    ∃ t, exec (.fieldReplyReceived (fieldFrame f.station.address 0x91 body ++ more)) s = .next t
      ∧ ∃ x, ExchangeEnds f .good values x s t
        ∧ (f.station.kind = .well ∨ f.station.kind = .turbine ∨ f.station.kind = .analyser → x = extra)

/-! ## Sequence Runner -/

/-- The five requests of SQR: their checks in order, and what each does to the slot (R151, R152, R158, R159;
that a RESUME which applies a failure gives both notices, the pointer a failure's notice carries and the
dropping of an earlier step's event are log 31). -/
def Obligations.SequenceRequests : Prop :=
  ∀ s : State, s.portIdle →
    (∀ n, 4 ≤ n → (∀ l, s.onlyAnswers (.seqLoad n l) 0x50 .badValue)
      ∧ s.onlyAnswers (.seqRun n) 0x51 .badValue ∧ s.onlyAnswers (.seqSuspend n) 0x52 .badValue
      ∧ s.onlyAnswers (.seqResume n) 0x53 .badValue ∧ s.onlyAnswers (.seqAbort n) 0x54 .badValue)
    ∧ ∀ (k : SlotNo) (r : Slot), r = s.sqr.get k →
      (∀ l : List Step,
        (r.runs → s.onlyAnswers (.seqLoad k l) 0x50 .refusedState)
        ∧ (¬r.runs → l = [] ∨ 32 < l.length → s.onlyAnswers (.seqLoad k l) 0x50 .badValue)
        ∧ (¬r.runs → l.length ≤ 32 → ∀ before st after, l = before ++ st :: after →
          (∀ x ∈ before, StepFits l.length x) → ¬StepFits l.length st →
          s.onlyAnswers (.seqLoad k l) 0x50 .badValue (.badIndex before.length))
        ∧ (¬r.runs → l ≠ [] → l.length ≤ 32 → (∀ x ∈ l, StepFits l.length x) →
          ∃ t, exec (.seqLoad k l) s = .next (t.answer 0x50 .ok .none)
            ∧ SlotMoves k { r with
              state := .loaded, steps := l, ptr := 0, timer := .stopped, suspendedFrom := none
              pendingFailure := none, lastFailure := none } s.deselect t))
      ∧ (r.runs ∨ r.state = .empty → s.onlyAnswers (.seqRun k) 0x51 .refusedState)
      ∧ (∀ meets : Prop, (meets ↔ ∃ j x, j ≠ k ∧ (s.sqr.get j).runs ∧ x ∈ (s.sqr.get j).claims
          ∧ ∃ st ∈ r.steps, StepClaims st x) → ¬r.runs → r.state ≠ .empty →
        (meets → s.onlyAnswers (.seqRun k) 0x51 .refusedClaimed)
        ∧ (¬meets → ∃ claims a t, exec (.seqRun k) s = .next (t.answer 0x51 .ok .none)
          ∧ (∀ x, x ∈ claims ↔ ∃ st ∈ r.steps, StepClaims st x)
          ∧ SlotMoves k { r with
            state := .running, ptr := 0, timer := .stopped, suspendedFrom := none
            pendingFailure := none, claims := claims } s.deselect a
          ∧ StepIsNext k a t))
      ∧ (r.state = .running → ∃ t, exec (.seqSuspend k) s = .next (t.answer 0x52 .ok .none)
        ∧ SlotMoves k { r with state := .suspended, suspendedFrom := some .running } s.deselect t)
      ∧ (r.state = .waiting → ∃ t, exec (.seqSuspend k) s = .next (t.answer 0x52 .ok .none)
        ∧ SlotMoves k { r with
          state := .suspended, suspendedFrom := some .waiting
          timer := match r.timer with
            | .running n => .frozen n | .stopped => .stopped | .frozen n => .frozen n } s.deselect t)
      ∧ (r.state = .suspended → s.onlyAnswers (.seqSuspend k) 0x52 .ok)
      ∧ (¬r.runs → s.onlyAnswers (.seqSuspend k) 0x52 .refusedState)
      ∧ (r.state ≠ .suspended → s.onlyAnswers (.seqResume k) 0x53 .refusedState)
      ∧ (r.state = .suspended → ∃ t, exec (.seqResume k) s = .next (t.answer 0x53 .ok .none)
        ∧ (∀ x what, r.pendingFailure = some (x, what) →
          StepFails k (match what with | .trip => .targetTrip x | .stop => .targetStop x)
            { s.deselect with sqr := s.sqr.set k { r with pendingFailure := none } } t)
        ∧ (r.pendingFailure = none →
          (r.suspendedFrom = some .running ∨ r.suspendedFrom = none → RunsAt k r.ptr s.deselect t)
          ∧ (r.suspendedFrom = some .pause → MovesOn k s.deselect t)
          ∧ (r.suspendedFrom = some .waiting → ∀ held : Prop,
            (held ↔ ∃ st, r.steps[r.ptr]? = some st ∧ s.waitMet st) →
            (held → MovesOn k s.deselect t)
            ∧ (¬held → SlotMoves k { r with
              state := .waiting, suspendedFrom := none
              timer := match r.timer with
                | .frozen n => .running n | .stopped => .stopped | .running n => .running n }
              s.deselect t))))
      ∧ (r.runs → ∃ t, exec (.seqAbort k) s = .next (t.answer 0x54 .ok .none)
        ∧ SlotMoves k { r with
          state := .aborted, timer := .stopped, suspendedFrom := none, pendingFailure := none
          claims := [], lastFailure := some ⟨r.ptr, .aborted, s.svp.plantTime⟩ } s.deselect t)
      ∧ (¬r.runs → s.onlyAnswers (.seqAbort k) 0x54 .refusedState)

/-- The four events by which a RUNNING slot's current step is taken, and what the owner does with a command
step's command, whose origin is the slot (R150, R153, R154, R155, R160; the notice of a handled failure and
the dropping of an earlier step's event are log 31). -/
def Obligations.StepsAreTaken : Prop :=
  ∀ (s : State) (k : SlotNo) (st : Step), (s.sqr.get k).state = .running →
    (s.sqr.get k).steps[(s.sqr.get k).ptr]? = some st → StepFits (s.sqr.get k).steps.length st →
    (CommandKind st.kind → ∃ a reply t, exec (.seqCommandStep k) s = .next t
      ∧ OwnerTakes k st (s.took (.seqCommandStep k)) a reply
      ∧ (reply = .ok ∨ reply = .clamped → MovesOn k a t)
      ∧ (reply ≠ .ok → reply ≠ .clamped → StepFails k (.refused reply) a t))
    ∧ (st.kind = .waitQty ∨ st.kind = .waitState ∨ st.kind = .delay →
      ∃ t, exec (.seqWaitStep k) s = .next t
        ∧ (s.waitMet st → MovesOn k (s.took (.seqWaitStep k)) t)
        ∧ (¬s.waitMet st → ∃ n : Nat, (st.kind ≠ .delay → st.timeout = some n)
          ∧ (st.kind = .delay → st.value = some (.num n))
          ∧ SlotMoves k { s.sqr.get k with state := .waiting, timer := .running n }
            (s.took (.seqWaitStep k)) t))
    ∧ (st.kind = .pause → ∃ t, exec (.seqPauseStep k) s = .next t
      ∧ SlotMoves k { s.sqr.get k with state := .suspended, suspendedFrom := some .pause }
        (s.took (.seqPauseStep k)) t)
    ∧ (st.kind = .fin → ∃ t, exec (.seqEndStep k) s = .next t
      ∧ Finishes k (s.took (.seqEndStep k)) t)

/-- Waits that a quantity, a state change or the timer ends, and the trips and stops of claimed targets, slot
by slot (R154, R156, R157; the timer's own events are log 4, the notice of a handled failure log 31 and the
order of the slots log 40). -/
def Obligations.WaitsEndAndStepsFail : Prop :=
  ∀ s : State,
    (∀ u : Update, ∃ t, exec (.sqrQtyUpdate u) s = .next t
      ∧ OverSlots (fun k a b => ∀ met : Prop, (met ↔ ∃ (st : Step) (q : QtyNo) (c : Cmp) (v l : Int),
          a.waitsOn k st ∧ st.kind = .waitQty ∧ st.target = some (.qty q.val)
          ∧ st.value = some (.compare c l) ∧ u.newValue q = some v ∧ Meets c v l) →
        (met → MovesOn k a b) ∧ (¬met → b = a)) (s.took (.sqrQtyUpdate u)) t)
    ∧ (∀ x old new cause, ∃ t, exec (.sqrStateChange x (old, new) cause) s = .next t
      ∧ OverSlots (fun k a b => ∀ met : Prop, (met ↔ ∃ st, a.waitsOn k st ∧ st.kind = .waitState
          ∧ NamesTarget st x ∧ st.value = some (.state new)
          ∧ ¬(TripState new ∧ x ∈ (a.sqr.get k).claims)) →
        (met → MovesOn k a b) ∧ (¬met → b = a)) (s.took (.sqrStateChange x (old, new) cause)) t)
    ∧ (∀ x what origin, ∃ t, exec (.sqrTargetTripStop x what origin) s = .next t
      ∧ OverSlots (fun k a b => ∀ (r : Slot) (hit : Prop), r = a.sqr.get k →
        (hit ↔ x ∈ r.claims ∧ ¬(what = .stop ∧ origin = .command (.slot k))) →
        (hit → r.state = .running ∨ r.state = .waiting →
          StepFails k (match what with | .trip => .targetTrip x | .stop => .targetStop x) a b)
        ∧ (hit → r.state = .suspended → r.pendingFailure = none →
          b = { a with sqr := a.sqr.set k { r with pendingFailure := some (x, what) } })
        ∧ (¬hit ∨ ¬r.runs ∨ r.state = .suspended ∧ r.pendingFailure ≠ none → b = a))
        (s.took (.sqrTargetTripStop x what origin)) t)
    ∧ (∃ t, exec .sqrSecondTimer s = .next t
      ∧ OverSlots (fun k a b => ((∀ n, (a.sqr.get k).timer ≠ .running n) → b = a)
        ∧ ∀ n m, (a.sqr.get k).timer = .running n →
          m = { a with sqr := a.sqr.set k { a.sqr.get k with timer := .running (n - 1) } } →
          (1 < n → b = m)
          ∧ (n ≤ 1 → (∀ st, a.waitsOn k st → (st.kind = .delay → MovesOn k m b)
              ∧ (st.kind ≠ .delay → StepFails k .timeout m b))
            ∧ ((∀ st, ¬a.waitsOn k st) → b = m))) s t)
    ∧ ∀ k st n, s.waitsOn k st → (s.sqr.get k).timer = .running n →
      (st.kind ≠ .delay → exec (.delayExpiry k) s = .next s
        ∧ ∃ t, exec (.waitTimeout k) s = .next t ∧ StepFails k .timeout s t)
      ∧ (st.kind = .delay → exec (.waitTimeout k) s = .next s
        ∧ ∃ t, exec (.delayExpiry k) s = .next t ∧ MovesOn k s t)

/-! ## Alarm Table and Counter Bank -/

/-- The owners' changes and clears, by the entry that stands and the room in the table (R164, R165, R167, R168,
R169; a change no owner hands is log 17, and what a NOT_ENTERED notice carries log 32). -/
def Obligations.AlarmChangesAndClears : Prop :=
  ∀ (s : State) (code : AlarmCode) (source : Source), s.alt.legal → ∀ now ovf table,
    now = s.svp.plantTime → ovf = s.alt.overflow → table = s.alt.table →
    (∃ t, exec (.alarmClear code source) s = .next t ∧ ∀ m, m = s.took (.alarmClear code source) →
      ((∀ e ∈ table, e.code = code → e.source ≠ source) → t = m)
      ∧ ∀ before e after, table = before ++ e :: after → e.code = code → e.source = source →
        (e.state = .clearedUnacked → t = m)
        ∧ (e.state = .activeAcked → AlarmsBecome (before ++ after) false [.alarm e .removed] m t)
        ∧ (e.state = .activeUnacked → ∃ e', e' = { e with state := .clearedUnacked, lastChange := now }
          ∧ AlarmsBecome (before ++ e' :: after) ovf [.alarm e' .cleared] m t))
    ∧ ∀ (ch : AlarmChange) (sev : Severity) (val : Option Int),
      (∀ x v, ch = .raise x v ∨ ch = .escalate x v → sev = x ∧ val = some v) →
      (∀ x, ch = .deescalate x → sev = x ∧ val = none) →
      ∃ t, exec (.alarmChange code source ch) s = .next t ∧ ∀ m, m = s.took (.alarmChange code source ch) →
      ((∀ e ∈ table, e.code = code → e.source ≠ source) →
        ∃ new : AlarmEntry, new = ⟨code, source, sev, .activeUnacked, now, now, 1, val.getD 0⟩
        ∧ (table.length < 64 → AlarmsBecome (table ++ [new]) ovf [.alarm new .raised] m t)
        ∧ (table.length = 64 → ∀ before old after, table = before ++ old :: after →
          old.state = .clearedUnacked → (∀ e ∈ before, e.state ≠ .clearedUnacked) →
          AlarmsBecome (before ++ after ++ [new]) false [.alarm old .evicted, .alarm new .raised] m t)
        ∧ (table.length = 64 → (∀ e ∈ table, e.state ≠ .clearedUnacked) →
          AlarmsBecome table true [.alarm { new with occurrences := 0 } .notEntered] m t))
      ∧ ∀ before e after, table = before ++ e :: after → e.code = code → e.source = source →
        (e.state = .clearedUnacked → ∃ e', e' = { e with
            severity := sev, state := .activeUnacked, occurrences := min (e.occurrences + 1) 65535
            value := val.getD e.value, lastChange := now }
          ∧ AlarmsBecome (before ++ e' :: after) ovf [.alarm e' .raised] m t)
        ∧ (e.state ≠ .clearedUnacked →
          (∀ v, val = some v → Below e.severity sev → ∃ e', e' = { e with
              severity := sev, state := .activeUnacked, value := v, lastChange := now }
            ∧ AlarmsBecome (before ++ e' :: after) ovf [.alarm e' .escalated] m t)
          ∧ (∀ v, val = some v → sev = e.severity →
            (v = e.value → t = m) ∧ (v ≠ e.value → AlarmsBecome
              (before ++ { e with value := v, lastChange := now } :: after) ovf [] m t))
          ∧ (Below sev e.severity → ∃ e', e' = { e with severity := sev, lastChange := now }
            ∧ AlarmsBecome (before ++ e' :: after) ovf [.alarm e' .deescalated] m t)
          ∧ (val = none → ¬Below sev e.severity → t = m))

/-- ACK and ACK_ALL, the increments of one event, and READ_AND_CLEAR (R166, R167, R168, R171, R172). -/
def Obligations.AcknowledgementsAndCounters : Prop :=
  ∀ s : State,
    (∀ cs : List Counter, ∃ b, exec (.counterIncrement cs) s
        = .next { s.took (.counterIncrement cs) with alt := { s.alt with counters := b } }
      ∧ ∀ (o : CounterOwner) (j : Nat), (b.of o)[j]? = ((s.alt.counters.of o)[j]?).map fun v =>
        v + BitVec.ofNat 32 (cs.filter fun c => decide (counterAt c = (o, j))).length)
    ∧ (s.portIdle →
      s.onlyAnswers (.readAndClear none) 0x64 .badValue
      ∧ (∀ o, ∃ b, exec (.readAndClear (some o)) s
          = .next ({ s.deselect with alt := { s.alt with counters := b } }.answer 0x64 .ok
            (.counters (s.alt.counters.of o) s.alt.retention))
        ∧ (∀ v ∈ b.of o, v = 0) ∧ (b.of o).length = (s.alt.counters.of o).length
        ∧ ∀ p, p ≠ o → b.of p = s.alt.counters.of p)
      ∧ (∀ x, s.onlyAnswers (.ack none x) 0x60 .badValue)
      ∧ (∀ code, s.onlyAnswers (.ack (some code) none) 0x60 .badValue)
      ∧ (∀ code source, codeNames code source = false →
        s.onlyAnswers (.ack (some code) (some source)) 0x60 .badValue)
      ∧ (∀ code source, codeNames code source = true →
        (∀ e ∈ s.alt.table, e.code = code → e.source ≠ source) →
        s.onlyAnswers (.ack (some code) (some source)) 0x60 .notFound)
      ∧ (s.alt.legal → ∀ before e after, s.alt.table = before ++ e :: after →
        codeNames e.code e.source = true → ∃ t, exec (.ack (some e.code) (some e.source)) s
            = .next (t.answer 0x60 .ok .none)
          ∧ (e.state = .activeAcked → t = s.deselect)
          ∧ (e.state = .activeUnacked → AlarmsBecome (before ++ { e with
              state := .activeAcked, lastChange := s.svp.plantTime } :: after) s.alt.overflow []
            s.deselect t)
          ∧ (e.state = .clearedUnacked → AlarmsBecome (before ++ after) false [] s.deselect t))
      ∧ ∃ (t : State) (acked removed : Nat) (ovf : Bool),
        exec .ackAll s = .next (t.answer 0x61 .ok (.acked acked removed))
        ∧ acked = (s.alt.table.filter fun e => decide (e.state = .activeUnacked)).length
        ∧ removed = (s.alt.table.filter fun e => decide (e.state = .clearedUnacked)).length
        ∧ (ovf = true ↔ s.alt.overflow = true ∧ removed = 0)
        ∧ AlarmsBecome ((s.alt.table.filter fun e => decide (e.state ≠ .clearedUnacked)).map fun e =>
          if e.state = .activeUnacked then
            { e with state := .activeAcked, lastChange := s.svp.plantTime } else e)
          ovf [] s.deselect t)

/-! ## Settings and Limits -/

/-- SET_PARAM, SET_LIMIT and the group locks: the checks in order, the value in force at once, the change taken by
the block that reads it (`ItemActs`, `RowActs`) and an old station retired (R18, R38, R39, R137, R174, R176, R177; a
write of the present value is log 11, the retirement taken or waiting log 19, and the change taken within the step
of its write log 33). -/
def Obligations.SettingsLimitsAndLocks : Prop :=
  ∀ s : State, s.portIdle →
    (∀ g i v, (∀ x, i = some x → g ≠ some (itemGroup x)) → s.onlyAnswers (.setParam g i v) 0x70 .badValue)
    ∧ (∀ (i : Item) (v : Int) (fits locked off : Prop),
      (fits ↔ (itemRange i).lo ≤ v ∧ v ≤ (itemRange i).hi ∧ (s.setting i v).itemOrder i) →
      (locked ↔ s.isLocked (itemGroup i)) →
      (off ↔ ∀ c, i = .well c .role → (s.wcc.get c).state = .off) →
      (¬fits → s.onlyAnswers (.setParam (some (itemGroup i)) (some i) v) 0x70 .badValue)
      ∧ (fits → s.ssl.storing ≠ none →
        s.onlyAnswers (.setParam (some (itemGroup i)) (some i) v) 0x70 .busy)
      ∧ (fits → s.ssl.storing = none → locked →
        s.onlyAnswers (.setParam (some (itemGroup i)) (some i) v) 0x70 .refusedLocked)
      ∧ (fits → s.ssl.storing = none → ¬locked → ¬off →
        s.onlyAnswers (.setParam (some (itemGroup i)) (some i) v) 0x70 .refusedState)
      ∧ (fits → s.ssl.storing = none → ¬locked → off → ∃ table : Settings,
        (∀ j, table.read j = if j = i then v else s.ssl.settings.read j)
        ∧ ∃ m n t : State, exec (.setParam (some (itemGroup i)) (some i) v) s = .next (t.answer 0x70 .ok .none)
          ∧ m = { s.deselect with ssl := { s.ssl with settings := table } } ∧ ItemActs i m n
          ∧ (∀ e, i = .entry e .kind ∨ i = .entry e .address ∨ i = .entry e .channel →
            (s.station e).kind ≠ .none →
            (∀ f, s.flc.flight = some f → f.entry = e → t = { n with flc := { n.flc with
              retiring := n.flc.retiring ++ [(e, s.station e)] } })
            ∧ ((∀ f, s.flc.flight = some f → f.entry ≠ e) → Retires e (s.station e) n t))
          ∧ ((∀ e, i = .entry e .kind ∨ i = .entry e .address ∨ i = .entry e .channel →
            (s.station e).kind = .none) → t = n)))
    ∧ (∀ n v, 55 ≤ n → s.onlyAnswers (.setLimit n v) 0x74 .badValue)
    ∧ (∀ (l : RowNo) (v : Int) (fits : Prop), (fits ↔ (limitRange l).lo ≤ v ∧ v ≤ (limitRange l).hi) →
      (¬fits → s.onlyAnswers (.setLimit l v) 0x74 .badValue)
      ∧ (fits → s.ssl.storing ≠ none → s.onlyAnswers (.setLimit l v) 0x74 .busy)
      ∧ (fits → s.ssl.storing = none → l.val < s.ssl.boundary →
        s.onlyAnswers (.setLimit l v) 0x74 .refusedProtected)
      ∧ (fits → s.ssl.storing = none → s.ssl.boundary ≤ l.val → ∃ t : State,
        exec (.setLimit l v) s = .next (t.answer 0x74 .ok .none)
        ∧ RowActs l { s.deselect with ssl := { s.ssl with limits := s.ssl.limits.set l v } } t))
    ∧ s.onlyAnswers (.lockGroup none) 0x72 .badValue ∧ s.onlyAnswers (.unlockGroup none) 0x73 .badValue
    ∧ ∀ g, exec (.lockGroup (some g)) s = .next ({ s.deselect with
          ssl := { s.ssl with hostLocks := s.ssl.hostLocks.set (groupNo g) true } }.answer 0x72 .ok .none)
      ∧ exec (.unlockGroup (some g)) s = .next ({ s.deselect with
          ssl := { s.ssl with hostLocks := s.ssl.hostLocks.set (groupNo g) false } }.answer 0x73 .ok .none)

/-- OPERATE of SET_BOUNDARY and of COMMISSION_LOCK, STORE and its completion (R178, R179, R180; that the
commissioning record keeps all 55 rows is log 32, and that a copy which fails its read-back is dropped for good
log 7). -/
def Obligations.CommissioningAndStore : Prop :=
  ∀ s : State,
    (s.portIdle →
      (∀ p, p ≤ 55 → s.svp.selection = some (.setBoundary, p) →
        (s.ssl.locked = true → s.onlyAnswers (.operateSetBoundary p) 0x04 .refusedProtected)
        ∧ (s.ssl.locked = false → exec (.operateSetBoundary p) s
          = .next ({ s.deselect with ssl := { s.ssl with boundary := p } }.answer 0x04 .ok .none)))
      ∧ (s.svp.selection = some (.commissionLock, 0) →
        (s.ssl.locked = true → s.onlyAnswers (.operateCommissionLock 0) 0x04 .refusedState)
        ∧ (s.ssl.locked = false → exec (.operateCommissionLock 0) s
          = .next ({ s.deselect with ssl := { s.ssl with
            record := some ⟨s.ssl.boundary, s.ssl.limits⟩, locked := true } }.answer 0x04 .ok .none)))
      ∧ (s.ssl.storing ≠ none → s.onlyAnswers .store 0x76 .busy)
      ∧ (s.ssl.storing = none → ∃ copy : StoredCopy, exec .store s
          = .next ({ s.deselect with ssl := { s.ssl with storing := some copy } }.answer 0x76 .ok .none)
        ∧ copy.settings = s.ssl.settings ∧ copy.limits = s.ssl.limits
        ∧ copy.silica = s.tip.silica.entries ∧ copy.psat = s.tip.psat.entries
        ∧ copy.curve = s.tip.curve.entries ∧ copy.boundary = s.ssl.boundary
        ∧ copy.locked = s.ssl.locked ∧ copy.hxBaseline = s.scm.hxFouling.baseline
        ∧ ∀ c, copy.baselines.get c = (s.scm.fouling.get c).baseline))
    ∧ (s.ssl.storing = none → ∀ ok, exec (.storeComplete ok) s = .next s)
    ∧ ∀ copy, s.ssl.storing = some copy →
      exec (.storeComplete true) s = .next { s with
        ssl := { s.ssl with storing := none, copy := some copy, storeFault := false }
        tip := ⟨{ s.tip.silica with origin := .stored }, { s.tip.psat with origin := .stored },
          { s.tip.curve with origin := .stored }⟩
        handed := s.handed ++ if s.ssl.storeFault then [.alarmClear .storeFault .store] else [] }
      ∧ exec (.storeComplete false) s = .next { s with
        ssl := { s.ssl with storing := none, copy := none, storeFault := true }
        svp := { s.svp with storeFaultSeen := true }
        handed := s.handed ++ [.alarmChange .storeFault .store (.raise .alarm 2)] }

/-- SETTING_CHANGE_TAKEN: every setting and every limit row as the block that reads it takes a change (`ItemActs`,
`RowActs`; R18, R38, R39, R55, R73, R77, R101, R109, R110, R122, R126, R129, R174, R177; BBU takes a role change as
log 18 says, and the one row of STEAM_FRACTION acts at TBC and then at BBU, log 39; the same taking within
SET_PARAM and SET_LIMIT is log 33). -/
def Obligations.SettingsReachTheirReaders : Prop :=
  ∀ (s : State) (old : Int),
    (∀ i, ∃ t, exec (.settingChangeTaken (.item i) old) s = .next t
      ∧ ItemActs i (s.took (.settingChangeTaken (.item i) old)) t)
    ∧ ∀ l, ∃ t, exec (.settingChangeTaken (.limit l) old) s = .next t
      ∧ RowActs l (s.took (.settingChangeTaken (.limit l) old)) t

/-! ## Invariants -/

/-- Every step keeps what the chapters lay down of the records: TRIP_OUT and the tripped turbine's orders (R100,
R114), the bypass fully open outside HEATING and HEAT_LIMITED (R54, R60), every channel record (R76, R80, R82,
R84, R85, R89), every quantity record (R15), and claims held by active slots alone and by one slot each (R149,
R152). -/
def Obligations.RecordsStayLegal : Prop :=
  Kept State.turbineSafe ∧ Kept State.bypassSafe ∧ Kept State.wellsLegal ∧ Kept State.quantitiesLegal
    ∧ Kept State.claimsLegal

/-- Every step keeps the settings, limit rows and tables ones the chapters allow (R3, R174, R177), the
commissioning record in force but for a power-on that finds both its copies failing (R179, log 7), the alarm
table one entry to a code and source with ALARM_OUT as R168
states (R163), the stores within their sizes (R48, R187) and each station to one SET and one TRIP (R140,
R141). -/
def Obligations.StoresStayLegal : Prop :=
  Kept (fun s => s.ssl.legal) ∧ Kept State.tablesLegal
  ∧ (∀ (r : CommRecord) (s t : State), s.ssl.commissioned r → step s = .next t →
      (∀ straps tripIn store kept, (s.pending ++ s.handed).head? = some (.powerOn straps tripIn store kept) →
        store.firstRecord = true ∨ store.secondRecord = true) →
      t.ssl.commissioned r)
    ∧ Kept (fun s => s.alt.legal) ∧ Kept State.storesBounded ∧ Kept fun s => s.flc.queuesLegal

/-- The state after reset meets every invariant of `RecordsStayLegal` and `StoresStayLegal` (the reset tables
of the chapters) but that of a commissioning record, which the part does not hold after reset (R179). -/
def Obligations.ResetMeetsEveryInvariant : Prop :=
  State.reset.turbineSafe ∧ State.reset.bypassSafe ∧ State.reset.wellsLegal
    ∧ State.reset.quantitiesLegal ∧ State.reset.claimsLegal ∧ State.reset.ssl.legal
    ∧ State.reset.tablesLegal ∧ State.reset.alt.legal ∧ State.reset.storesBounded
    ∧ State.reset.flc.queuesLegal ∧ State.reset.ssl.record = none
end

