-- ==== Sys2Proof/Laws/State.lean ====
section
/-! SUPPORT. What each update of the state leaves as it was: one lemma per update and part, true by rfl, so
that no later proof unfolds a record update. -/

namespace Sys2Proof.Machine

variable (s : State)

/-! ### State.hand -/

@[simp] theorem State.hand_pending {l} : (s.hand l).pending = s.pending := rfl
@[simp] theorem State.hand_svp {l} : (s.hand l).svp = s.svp := rfl
@[simp] theorem State.hand_flc {l} : (s.hand l).flc = s.flc := rfl
@[simp] theorem State.hand_qtb {l} : (s.hand l).qtb = s.qtb := rfl
@[simp] theorem State.hand_tip {l} : (s.hand l).tip = s.tip := rfl
@[simp] theorem State.hand_scm {l} : (s.hand l).scm = s.scm := rfl
@[simp] theorem State.hand_hxc {l} : (s.hand l).hxc = s.hxc := rfl
@[simp] theorem State.hand_wcc {l} : (s.hand l).wcc = s.wcc := rfl
@[simp] theorem State.hand_tbc {l} : (s.hand l).tbc = s.tbc := rfl
@[simp] theorem State.hand_bbu {l} : (s.hand l).bbu = s.bbu := rfl
@[simp] theorem State.hand_sqr {l} : (s.hand l).sqr = s.sqr := rfl
@[simp] theorem State.hand_alt {l} : (s.hand l).alt = s.alt := rfl
@[simp] theorem State.hand_ssl {l} : (s.hand l).ssl = s.ssl := rfl
@[simp] theorem State.hand_free {l} : (s.hand l).free = s.free := rfl

/-! ### State.took -/

@[simp] theorem State.took_pending {i} : (s.took i).pending = s.pending := rfl
@[simp] theorem State.took_svp {i} : (s.took i).svp = s.svp := rfl
@[simp] theorem State.took_flc {i} : (s.took i).flc = s.flc := rfl
@[simp] theorem State.took_qtb {i} : (s.took i).qtb = s.qtb := rfl
@[simp] theorem State.took_tip {i} : (s.took i).tip = s.tip := rfl
@[simp] theorem State.took_scm {i} : (s.took i).scm = s.scm := rfl
@[simp] theorem State.took_hxc {i} : (s.took i).hxc = s.hxc := rfl
@[simp] theorem State.took_wcc {i} : (s.took i).wcc = s.wcc := rfl
@[simp] theorem State.took_tbc {i} : (s.took i).tbc = s.tbc := rfl
@[simp] theorem State.took_bbu {i} : (s.took i).bbu = s.bbu := rfl
@[simp] theorem State.took_sqr {i} : (s.took i).sqr = s.sqr := rfl
@[simp] theorem State.took_alt {i} : (s.took i).alt = s.alt := rfl
@[simp] theorem State.took_ssl {i} : (s.took i).ssl = s.ssl := rfl
@[simp] theorem State.took_free {i} : (s.took i).free = s.free := rfl

/-! ### State.useFree -/

@[simp] theorem State.useFree_pending : s.useFree.pending = s.pending := rfl
@[simp] theorem State.useFree_handed : s.useFree.handed = s.handed := rfl
@[simp] theorem State.useFree_svp : s.useFree.svp = s.svp := rfl
@[simp] theorem State.useFree_flc : s.useFree.flc = s.flc := rfl
@[simp] theorem State.useFree_qtb : s.useFree.qtb = s.qtb := rfl
@[simp] theorem State.useFree_tip : s.useFree.tip = s.tip := rfl
@[simp] theorem State.useFree_scm : s.useFree.scm = s.scm := rfl
@[simp] theorem State.useFree_hxc : s.useFree.hxc = s.hxc := rfl
@[simp] theorem State.useFree_wcc : s.useFree.wcc = s.wcc := rfl
@[simp] theorem State.useFree_tbc : s.useFree.tbc = s.tbc := rfl
@[simp] theorem State.useFree_bbu : s.useFree.bbu = s.bbu := rfl
@[simp] theorem State.useFree_sqr : s.useFree.sqr = s.sqr := rfl
@[simp] theorem State.useFree_alt : s.useFree.alt = s.alt := rfl
@[simp] theorem State.useFree_ssl : s.useFree.ssl = s.ssl := rfl

/-! ### State.notify -/

@[simp] theorem State.notify_pending {l} : (s.notify l).pending = s.pending := rfl
@[simp] theorem State.notify_handed {l} : (s.notify l).handed = s.handed := rfl
@[simp] theorem State.notify_flc {l} : (s.notify l).flc = s.flc := rfl
@[simp] theorem State.notify_qtb {l} : (s.notify l).qtb = s.qtb := rfl
@[simp] theorem State.notify_tip {l} : (s.notify l).tip = s.tip := rfl
@[simp] theorem State.notify_scm {l} : (s.notify l).scm = s.scm := rfl
@[simp] theorem State.notify_hxc {l} : (s.notify l).hxc = s.hxc := rfl
@[simp] theorem State.notify_wcc {l} : (s.notify l).wcc = s.wcc := rfl
@[simp] theorem State.notify_tbc {l} : (s.notify l).tbc = s.tbc := rfl
@[simp] theorem State.notify_bbu {l} : (s.notify l).bbu = s.bbu := rfl
@[simp] theorem State.notify_sqr {l} : (s.notify l).sqr = s.sqr := rfl
@[simp] theorem State.notify_alt {l} : (s.notify l).alt = s.alt := rfl
@[simp] theorem State.notify_ssl {l} : (s.notify l).ssl = s.ssl := rfl
@[simp] theorem State.notify_free {l} : (s.notify l).free = s.free := rfl

/-! ### State.alarmChange -/

@[simp] theorem State.alarmChange_pending {code src ch} : (s.alarmChange code src ch).pending = s.pending := rfl
@[simp] theorem State.alarmChange_handed {code src ch} : (s.alarmChange code src ch).handed = s.handed := rfl
@[simp] theorem State.alarmChange_flc {code src ch} : (s.alarmChange code src ch).flc = s.flc := rfl
@[simp] theorem State.alarmChange_qtb {code src ch} : (s.alarmChange code src ch).qtb = s.qtb := rfl
@[simp] theorem State.alarmChange_tip {code src ch} : (s.alarmChange code src ch).tip = s.tip := rfl
@[simp] theorem State.alarmChange_scm {code src ch} : (s.alarmChange code src ch).scm = s.scm := rfl
@[simp] theorem State.alarmChange_hxc {code src ch} : (s.alarmChange code src ch).hxc = s.hxc := rfl
@[simp] theorem State.alarmChange_wcc {code src ch} : (s.alarmChange code src ch).wcc = s.wcc := rfl
@[simp] theorem State.alarmChange_tbc {code src ch} : (s.alarmChange code src ch).tbc = s.tbc := rfl
@[simp] theorem State.alarmChange_bbu {code src ch} : (s.alarmChange code src ch).bbu = s.bbu := rfl
@[simp] theorem State.alarmChange_sqr {code src ch} : (s.alarmChange code src ch).sqr = s.sqr := rfl
@[simp] theorem State.alarmChange_ssl {code src ch} : (s.alarmChange code src ch).ssl = s.ssl := rfl
@[simp] theorem State.alarmChange_free {code src ch} : (s.alarmChange code src ch).free = s.free := rfl

/-! ### State.alarmClear -/

@[simp] theorem State.alarmClear_pending {code src} : (s.alarmClear code src).pending = s.pending := rfl
@[simp] theorem State.alarmClear_handed {code src} : (s.alarmClear code src).handed = s.handed := rfl
@[simp] theorem State.alarmClear_flc {code src} : (s.alarmClear code src).flc = s.flc := rfl
@[simp] theorem State.alarmClear_qtb {code src} : (s.alarmClear code src).qtb = s.qtb := rfl
@[simp] theorem State.alarmClear_tip {code src} : (s.alarmClear code src).tip = s.tip := rfl
@[simp] theorem State.alarmClear_scm {code src} : (s.alarmClear code src).scm = s.scm := rfl
@[simp] theorem State.alarmClear_hxc {code src} : (s.alarmClear code src).hxc = s.hxc := rfl
@[simp] theorem State.alarmClear_wcc {code src} : (s.alarmClear code src).wcc = s.wcc := rfl
@[simp] theorem State.alarmClear_tbc {code src} : (s.alarmClear code src).tbc = s.tbc := rfl
@[simp] theorem State.alarmClear_bbu {code src} : (s.alarmClear code src).bbu = s.bbu := rfl
@[simp] theorem State.alarmClear_sqr {code src} : (s.alarmClear code src).sqr = s.sqr := rfl
@[simp] theorem State.alarmClear_ssl {code src} : (s.alarmClear code src).ssl = s.ssl := rfl
@[simp] theorem State.alarmClear_free {code src} : (s.alarmClear code src).free = s.free := rfl

/-! ### State.overrun -/

@[simp] theorem State.overrun_pending : s.overrun.pending = s.pending := rfl
@[simp] theorem State.overrun_handed : s.overrun.handed = s.handed := rfl
@[simp] theorem State.overrun_flc : s.overrun.flc = s.flc := rfl
@[simp] theorem State.overrun_qtb : s.overrun.qtb = s.qtb := rfl
@[simp] theorem State.overrun_tip : s.overrun.tip = s.tip := rfl
@[simp] theorem State.overrun_scm : s.overrun.scm = s.scm := rfl
@[simp] theorem State.overrun_hxc : s.overrun.hxc = s.hxc := rfl
@[simp] theorem State.overrun_wcc : s.overrun.wcc = s.wcc := rfl
@[simp] theorem State.overrun_tbc : s.overrun.tbc = s.tbc := rfl
@[simp] theorem State.overrun_bbu : s.overrun.bbu = s.bbu := rfl
@[simp] theorem State.overrun_sqr : s.overrun.sqr = s.sqr := rfl
@[simp] theorem State.overrun_alt : s.overrun.alt = s.alt := rfl
@[simp] theorem State.overrun_ssl : s.overrun.ssl = s.ssl := rfl
@[simp] theorem State.overrun_free : s.overrun.free = s.free := rfl

/-! ### State.deselect -/

@[simp] theorem State.deselect_pending : s.deselect.pending = s.pending := rfl
@[simp] theorem State.deselect_handed : s.deselect.handed = s.handed := rfl
@[simp] theorem State.deselect_flc : s.deselect.flc = s.flc := rfl
@[simp] theorem State.deselect_qtb : s.deselect.qtb = s.qtb := rfl
@[simp] theorem State.deselect_tip : s.deselect.tip = s.tip := rfl
@[simp] theorem State.deselect_scm : s.deselect.scm = s.scm := rfl
@[simp] theorem State.deselect_hxc : s.deselect.hxc = s.hxc := rfl
@[simp] theorem State.deselect_wcc : s.deselect.wcc = s.wcc := rfl
@[simp] theorem State.deselect_tbc : s.deselect.tbc = s.tbc := rfl
@[simp] theorem State.deselect_bbu : s.deselect.bbu = s.bbu := rfl
@[simp] theorem State.deselect_sqr : s.deselect.sqr = s.sqr := rfl
@[simp] theorem State.deselect_alt : s.deselect.alt = s.alt := rfl
@[simp] theorem State.deselect_ssl : s.deselect.ssl = s.ssl := rfl
@[simp] theorem State.deselect_free : s.deselect.free = s.free := rfl

/-! ### State.answer -/

@[simp] theorem State.answer_pending {k st c} : (s.answer k st c).pending = s.pending := rfl
@[simp] theorem State.answer_handed {k st c} : (s.answer k st c).handed = s.handed := rfl
@[simp] theorem State.answer_flc {k st c} : (s.answer k st c).flc = s.flc := rfl
@[simp] theorem State.answer_qtb {k st c} : (s.answer k st c).qtb = s.qtb := rfl
@[simp] theorem State.answer_tip {k st c} : (s.answer k st c).tip = s.tip := rfl
@[simp] theorem State.answer_scm {k st c} : (s.answer k st c).scm = s.scm := rfl
@[simp] theorem State.answer_hxc {k st c} : (s.answer k st c).hxc = s.hxc := rfl
@[simp] theorem State.answer_wcc {k st c} : (s.answer k st c).wcc = s.wcc := rfl
@[simp] theorem State.answer_tbc {k st c} : (s.answer k st c).tbc = s.tbc := rfl
@[simp] theorem State.answer_bbu {k st c} : (s.answer k st c).bbu = s.bbu := rfl
@[simp] theorem State.answer_sqr {k st c} : (s.answer k st c).sqr = s.sqr := rfl
@[simp] theorem State.answer_alt {k st c} : (s.answer k st c).alt = s.alt := rfl
@[simp] theorem State.answer_ssl {k st c} : (s.answer k st c).ssl = s.ssl := rfl
@[simp] theorem State.answer_free {k st c} : (s.answer k st c).free = s.free := rfl

/-! ### State.setWell -/

@[simp] theorem State.setWell_pending {c w} : (s.setWell c w).pending = s.pending := rfl
@[simp] theorem State.setWell_handed {c w} : (s.setWell c w).handed = s.handed := rfl
@[simp] theorem State.setWell_svp {c w} : (s.setWell c w).svp = s.svp := rfl
@[simp] theorem State.setWell_flc {c w} : (s.setWell c w).flc = s.flc := rfl
@[simp] theorem State.setWell_qtb {c w} : (s.setWell c w).qtb = s.qtb := rfl
@[simp] theorem State.setWell_tip {c w} : (s.setWell c w).tip = s.tip := rfl
@[simp] theorem State.setWell_scm {c w} : (s.setWell c w).scm = s.scm := rfl
@[simp] theorem State.setWell_hxc {c w} : (s.setWell c w).hxc = s.hxc := rfl
@[simp] theorem State.setWell_tbc {c w} : (s.setWell c w).tbc = s.tbc := rfl
@[simp] theorem State.setWell_bbu {c w} : (s.setWell c w).bbu = s.bbu := rfl
@[simp] theorem State.setWell_sqr {c w} : (s.setWell c w).sqr = s.sqr := rfl
@[simp] theorem State.setWell_alt {c w} : (s.setWell c w).alt = s.alt := rfl
@[simp] theorem State.setWell_ssl {c w} : (s.setWell c w).ssl = s.ssl := rfl
@[simp] theorem State.setWell_free {c w} : (s.setWell c w).free = s.free := rfl

/-! ### State.setCalcite -/

@[simp] theorem State.setCalcite_pending {c r} : (s.setCalcite c r).pending = s.pending := rfl
@[simp] theorem State.setCalcite_handed {c r} : (s.setCalcite c r).handed = s.handed := rfl
@[simp] theorem State.setCalcite_svp {c r} : (s.setCalcite c r).svp = s.svp := rfl
@[simp] theorem State.setCalcite_flc {c r} : (s.setCalcite c r).flc = s.flc := rfl
@[simp] theorem State.setCalcite_qtb {c r} : (s.setCalcite c r).qtb = s.qtb := rfl
@[simp] theorem State.setCalcite_tip {c r} : (s.setCalcite c r).tip = s.tip := rfl
@[simp] theorem State.setCalcite_hxc {c r} : (s.setCalcite c r).hxc = s.hxc := rfl
@[simp] theorem State.setCalcite_wcc {c r} : (s.setCalcite c r).wcc = s.wcc := rfl
@[simp] theorem State.setCalcite_tbc {c r} : (s.setCalcite c r).tbc = s.tbc := rfl
@[simp] theorem State.setCalcite_bbu {c r} : (s.setCalcite c r).bbu = s.bbu := rfl
@[simp] theorem State.setCalcite_sqr {c r} : (s.setCalcite c r).sqr = s.sqr := rfl
@[simp] theorem State.setCalcite_alt {c r} : (s.setCalcite c r).alt = s.alt := rfl
@[simp] theorem State.setCalcite_ssl {c r} : (s.setCalcite c r).ssl = s.ssl := rfl
@[simp] theorem State.setCalcite_free {c r} : (s.setCalcite c r).free = s.free := rfl

/-! ### State.setClock -/

@[simp] theorem State.setClock_pending {n} : (s.setClock n).pending = s.pending := rfl
@[simp] theorem State.setClock_handed {n} : (s.setClock n).handed = s.handed := rfl
@[simp] theorem State.setClock_svp {n} : (s.setClock n).svp = s.svp := rfl
@[simp] theorem State.setClock_flc {n} : (s.setClock n).flc = s.flc := rfl
@[simp] theorem State.setClock_qtb {n} : (s.setClock n).qtb = s.qtb := rfl
@[simp] theorem State.setClock_tip {n} : (s.setClock n).tip = s.tip := rfl
@[simp] theorem State.setClock_hxc {n} : (s.setClock n).hxc = s.hxc := rfl
@[simp] theorem State.setClock_wcc {n} : (s.setClock n).wcc = s.wcc := rfl
@[simp] theorem State.setClock_tbc {n} : (s.setClock n).tbc = s.tbc := rfl
@[simp] theorem State.setClock_bbu {n} : (s.setClock n).bbu = s.bbu := rfl
@[simp] theorem State.setClock_sqr {n} : (s.setClock n).sqr = s.sqr := rfl
@[simp] theorem State.setClock_alt {n} : (s.setClock n).alt = s.alt := rfl
@[simp] theorem State.setClock_ssl {n} : (s.setClock n).ssl = s.ssl := rfl
@[simp] theorem State.setClock_free {n} : (s.setClock n).free = s.free := rfl

/-! ### State.setSlot -/

@[simp] theorem State.setSlot_pending {k r} : (s.setSlot k r).pending = s.pending := rfl
@[simp] theorem State.setSlot_handed {k r} : (s.setSlot k r).handed = s.handed := rfl
@[simp] theorem State.setSlot_svp {k r} : (s.setSlot k r).svp = s.svp := rfl
@[simp] theorem State.setSlot_flc {k r} : (s.setSlot k r).flc = s.flc := rfl
@[simp] theorem State.setSlot_qtb {k r} : (s.setSlot k r).qtb = s.qtb := rfl
@[simp] theorem State.setSlot_tip {k r} : (s.setSlot k r).tip = s.tip := rfl
@[simp] theorem State.setSlot_scm {k r} : (s.setSlot k r).scm = s.scm := rfl
@[simp] theorem State.setSlot_hxc {k r} : (s.setSlot k r).hxc = s.hxc := rfl
@[simp] theorem State.setSlot_wcc {k r} : (s.setSlot k r).wcc = s.wcc := rfl
@[simp] theorem State.setSlot_tbc {k r} : (s.setSlot k r).tbc = s.tbc := rfl
@[simp] theorem State.setSlot_bbu {k r} : (s.setSlot k r).bbu = s.bbu := rfl
@[simp] theorem State.setSlot_alt {k r} : (s.setSlot k r).alt = s.alt := rfl
@[simp] theorem State.setSlot_ssl {k r} : (s.setSlot k r).ssl = s.ssl := rfl
@[simp] theorem State.setSlot_free {k r} : (s.setSlot k r).free = s.free := rfl

/-! ### State.setStation -/

@[simp] theorem State.setStation_pending {e f} : (s.setStation e f).pending = s.pending := rfl
@[simp] theorem State.setStation_handed {e f} : (s.setStation e f).handed = s.handed := rfl
@[simp] theorem State.setStation_svp {e f} : (s.setStation e f).svp = s.svp := rfl
@[simp] theorem State.setStation_qtb {e f} : (s.setStation e f).qtb = s.qtb := rfl
@[simp] theorem State.setStation_tip {e f} : (s.setStation e f).tip = s.tip := rfl
@[simp] theorem State.setStation_scm {e f} : (s.setStation e f).scm = s.scm := rfl
@[simp] theorem State.setStation_hxc {e f} : (s.setStation e f).hxc = s.hxc := rfl
@[simp] theorem State.setStation_wcc {e f} : (s.setStation e f).wcc = s.wcc := rfl
@[simp] theorem State.setStation_tbc {e f} : (s.setStation e f).tbc = s.tbc := rfl
@[simp] theorem State.setStation_bbu {e f} : (s.setStation e f).bbu = s.bbu := rfl
@[simp] theorem State.setStation_sqr {e f} : (s.setStation e f).sqr = s.sqr := rfl
@[simp] theorem State.setStation_alt {e f} : (s.setStation e f).alt = s.alt := rfl
@[simp] theorem State.setStation_ssl {e f} : (s.setStation e f).ssl = s.ssl := rfl
@[simp] theorem State.setStation_free {e f} : (s.setStation e f).free = s.free := rfl

/-! ### State.dropCause -/

@[simp] theorem State.dropCause_pending {k} : (s.dropCause k).pending = s.pending := rfl
@[simp] theorem State.dropCause_handed {k} : (s.dropCause k).handed = s.handed := rfl
@[simp] theorem State.dropCause_svp {k} : (s.dropCause k).svp = s.svp := rfl
@[simp] theorem State.dropCause_flc {k} : (s.dropCause k).flc = s.flc := rfl
@[simp] theorem State.dropCause_qtb {k} : (s.dropCause k).qtb = s.qtb := rfl
@[simp] theorem State.dropCause_tip {k} : (s.dropCause k).tip = s.tip := rfl
@[simp] theorem State.dropCause_scm {k} : (s.dropCause k).scm = s.scm := rfl
@[simp] theorem State.dropCause_wcc {k} : (s.dropCause k).wcc = s.wcc := rfl
@[simp] theorem State.dropCause_tbc {k} : (s.dropCause k).tbc = s.tbc := rfl
@[simp] theorem State.dropCause_bbu {k} : (s.dropCause k).bbu = s.bbu := rfl
@[simp] theorem State.dropCause_sqr {k} : (s.dropCause k).sqr = s.sqr := rfl
@[simp] theorem State.dropCause_alt {k} : (s.dropCause k).alt = s.alt := rfl
@[simp] theorem State.dropCause_ssl {k} : (s.dropCause k).ssl = s.ssl := rfl
@[simp] theorem State.dropCause_free {k} : (s.dropCause k).free = s.free := rfl

/-! ### State.retarget -/

@[simp] theorem State.retarget_pending : s.retarget.pending = s.pending := rfl
@[simp] theorem State.retarget_handed : s.retarget.handed = s.handed := rfl
@[simp] theorem State.retarget_svp : s.retarget.svp = s.svp := rfl
@[simp] theorem State.retarget_flc : s.retarget.flc = s.flc := rfl
@[simp] theorem State.retarget_qtb : s.retarget.qtb = s.qtb := rfl
@[simp] theorem State.retarget_tip : s.retarget.tip = s.tip := rfl
@[simp] theorem State.retarget_scm : s.retarget.scm = s.scm := rfl
@[simp] theorem State.retarget_wcc : s.retarget.wcc = s.wcc := rfl
@[simp] theorem State.retarget_tbc : s.retarget.tbc = s.tbc := rfl
@[simp] theorem State.retarget_bbu : s.retarget.bbu = s.bbu := rfl
@[simp] theorem State.retarget_sqr : s.retarget.sqr = s.sqr := rfl
@[simp] theorem State.retarget_alt : s.retarget.alt = s.alt := rfl
@[simp] theorem State.retarget_ssl : s.retarget.ssl = s.ssl := rfl
@[simp] theorem State.retarget_free : s.retarget.free = s.free := rfl

/-! ### State.endBreach -/

@[simp] theorem State.endBreach_pending : s.endBreach.pending = s.pending := rfl
@[simp] theorem State.endBreach_svp : s.endBreach.svp = s.svp := rfl
@[simp] theorem State.endBreach_flc : s.endBreach.flc = s.flc := rfl
@[simp] theorem State.endBreach_qtb : s.endBreach.qtb = s.qtb := rfl
@[simp] theorem State.endBreach_tip : s.endBreach.tip = s.tip := rfl
@[simp] theorem State.endBreach_scm : s.endBreach.scm = s.scm := rfl
@[simp] theorem State.endBreach_wcc : s.endBreach.wcc = s.wcc := rfl
@[simp] theorem State.endBreach_tbc : s.endBreach.tbc = s.tbc := rfl
@[simp] theorem State.endBreach_bbu : s.endBreach.bbu = s.bbu := rfl
@[simp] theorem State.endBreach_sqr : s.endBreach.sqr = s.sqr := rfl
@[simp] theorem State.endBreach_alt : s.endBreach.alt = s.alt := rfl
@[simp] theorem State.endBreach_ssl : s.endBreach.ssl = s.ssl := rfl
@[simp] theorem State.endBreach_free : s.endBreach.free = s.free := rfl

/-! ### State.setTankHigh -/

@[simp] theorem State.setTankHigh_pending {v} : (s.setTankHigh v).pending = s.pending := rfl
@[simp] theorem State.setTankHigh_handed {v} : (s.setTankHigh v).handed = s.handed := rfl
@[simp] theorem State.setTankHigh_svp {v} : (s.setTankHigh v).svp = s.svp := rfl
@[simp] theorem State.setTankHigh_flc {v} : (s.setTankHigh v).flc = s.flc := rfl
@[simp] theorem State.setTankHigh_qtb {v} : (s.setTankHigh v).qtb = s.qtb := rfl
@[simp] theorem State.setTankHigh_tip {v} : (s.setTankHigh v).tip = s.tip := rfl
@[simp] theorem State.setTankHigh_scm {v} : (s.setTankHigh v).scm = s.scm := rfl
@[simp] theorem State.setTankHigh_hxc {v} : (s.setTankHigh v).hxc = s.hxc := rfl
@[simp] theorem State.setTankHigh_wcc {v} : (s.setTankHigh v).wcc = s.wcc := rfl
@[simp] theorem State.setTankHigh_tbc {v} : (s.setTankHigh v).tbc = s.tbc := rfl
@[simp] theorem State.setTankHigh_sqr {v} : (s.setTankHigh v).sqr = s.sqr := rfl
@[simp] theorem State.setTankHigh_alt {v} : (s.setTankHigh v).alt = s.alt := rfl
@[simp] theorem State.setTankHigh_ssl {v} : (s.setTankHigh v).ssl = s.ssl := rfl
@[simp] theorem State.setTankHigh_free {v} : (s.setTankHigh v).free = s.free := rfl

/-! ### State.withItem -/

@[simp] theorem State.withItem_pending {i v} : (s.withItem i v).pending = s.pending := rfl
@[simp] theorem State.withItem_handed {i v} : (s.withItem i v).handed = s.handed := rfl
@[simp] theorem State.withItem_svp {i v} : (s.withItem i v).svp = s.svp := rfl
@[simp] theorem State.withItem_flc {i v} : (s.withItem i v).flc = s.flc := rfl
@[simp] theorem State.withItem_qtb {i v} : (s.withItem i v).qtb = s.qtb := rfl
@[simp] theorem State.withItem_tip {i v} : (s.withItem i v).tip = s.tip := rfl
@[simp] theorem State.withItem_scm {i v} : (s.withItem i v).scm = s.scm := rfl
@[simp] theorem State.withItem_hxc {i v} : (s.withItem i v).hxc = s.hxc := rfl
@[simp] theorem State.withItem_wcc {i v} : (s.withItem i v).wcc = s.wcc := rfl
@[simp] theorem State.withItem_tbc {i v} : (s.withItem i v).tbc = s.tbc := rfl
@[simp] theorem State.withItem_bbu {i v} : (s.withItem i v).bbu = s.bbu := rfl
@[simp] theorem State.withItem_sqr {i v} : (s.withItem i v).sqr = s.sqr := rfl
@[simp] theorem State.withItem_alt {i v} : (s.withItem i v).alt = s.alt := rfl
@[simp] theorem State.withItem_free {i v} : (s.withItem i v).free = s.free := rfl

/-! ### State.planned -/

@[simp] theorem State.planned_pending {p} : (s.planned p).pending = s.pending := rfl
@[simp] theorem State.planned_handed {p} : (s.planned p).handed = s.handed := rfl
@[simp] theorem State.planned_svp {p} : (s.planned p).svp = s.svp := rfl
@[simp] theorem State.planned_flc {p} : (s.planned p).flc = s.flc := rfl
@[simp] theorem State.planned_qtb {p} : (s.planned p).qtb = s.qtb := rfl
@[simp] theorem State.planned_tip {p} : (s.planned p).tip = s.tip := rfl
@[simp] theorem State.planned_scm {p} : (s.planned p).scm = s.scm := rfl
@[simp] theorem State.planned_hxc {p} : (s.planned p).hxc = s.hxc := rfl
@[simp] theorem State.planned_wcc {p} : (s.planned p).wcc = s.wcc := rfl
@[simp] theorem State.planned_tbc {p} : (s.planned p).tbc = s.tbc := rfl
@[simp] theorem State.planned_sqr {p} : (s.planned p).sqr = s.sqr := rfl
@[simp] theorem State.planned_alt {p} : (s.planned p).alt = s.alt := rfl
@[simp] theorem State.planned_ssl {p} : (s.planned p).ssl = s.ssl := rfl
@[simp] theorem State.planned_free {p} : (s.planned p).free = s.free := rfl

/-! ### State.moveSlot -/

@[simp] theorem State.moveSlot_pending {k r} : (s.moveSlot k r).pending = s.pending := rfl
@[simp] theorem State.moveSlot_handed {k r} : (s.moveSlot k r).handed = s.handed := rfl
@[simp] theorem State.moveSlot_flc {k r} : (s.moveSlot k r).flc = s.flc := rfl
@[simp] theorem State.moveSlot_qtb {k r} : (s.moveSlot k r).qtb = s.qtb := rfl
@[simp] theorem State.moveSlot_tip {k r} : (s.moveSlot k r).tip = s.tip := rfl
@[simp] theorem State.moveSlot_scm {k r} : (s.moveSlot k r).scm = s.scm := rfl
@[simp] theorem State.moveSlot_hxc {k r} : (s.moveSlot k r).hxc = s.hxc := rfl
@[simp] theorem State.moveSlot_wcc {k r} : (s.moveSlot k r).wcc = s.wcc := rfl
@[simp] theorem State.moveSlot_tbc {k r} : (s.moveSlot k r).tbc = s.tbc := rfl
@[simp] theorem State.moveSlot_bbu {k r} : (s.moveSlot k r).bbu = s.bbu := rfl
@[simp] theorem State.moveSlot_alt {k r} : (s.moveSlot k r).alt = s.alt := rfl
@[simp] theorem State.moveSlot_ssl {k r} : (s.moveSlot k r).ssl = s.ssl := rfl
@[simp] theorem State.moveSlot_free {k r} : (s.moveSlot k r).free = s.free := rfl

/-! ### State.issueDemand -/

@[simp] theorem State.issueDemand_pending {c d} : (s.issueDemand c d).pending = s.pending := rfl
@[simp] theorem State.issueDemand_svp {c d} : (s.issueDemand c d).svp = s.svp := rfl
@[simp] theorem State.issueDemand_flc {c d} : (s.issueDemand c d).flc = s.flc := rfl
@[simp] theorem State.issueDemand_qtb {c d} : (s.issueDemand c d).qtb = s.qtb := rfl
@[simp] theorem State.issueDemand_tip {c d} : (s.issueDemand c d).tip = s.tip := rfl
@[simp] theorem State.issueDemand_scm {c d} : (s.issueDemand c d).scm = s.scm := rfl
@[simp] theorem State.issueDemand_hxc {c d} : (s.issueDemand c d).hxc = s.hxc := rfl
@[simp] theorem State.issueDemand_tbc {c d} : (s.issueDemand c d).tbc = s.tbc := rfl
@[simp] theorem State.issueDemand_bbu {c d} : (s.issueDemand c d).bbu = s.bbu := rfl
@[simp] theorem State.issueDemand_sqr {c d} : (s.issueDemand c d).sqr = s.sqr := rfl
@[simp] theorem State.issueDemand_alt {c d} : (s.issueDemand c d).alt = s.alt := rfl
@[simp] theorem State.issueDemand_ssl {c d} : (s.issueDemand c d).ssl = s.ssl := rfl
@[simp] theorem State.issueDemand_free {c d} : (s.issueDemand c d).free = s.free := rfl

/-! ### State.placeWellTrip -/

@[simp] theorem State.placeWellTrip_pending {c} : (s.placeWellTrip c).pending = s.pending := rfl
@[simp] theorem State.placeWellTrip_svp {c} : (s.placeWellTrip c).svp = s.svp := rfl
@[simp] theorem State.placeWellTrip_flc {c} : (s.placeWellTrip c).flc = s.flc := rfl
@[simp] theorem State.placeWellTrip_qtb {c} : (s.placeWellTrip c).qtb = s.qtb := rfl
@[simp] theorem State.placeWellTrip_tip {c} : (s.placeWellTrip c).tip = s.tip := rfl
@[simp] theorem State.placeWellTrip_scm {c} : (s.placeWellTrip c).scm = s.scm := rfl
@[simp] theorem State.placeWellTrip_hxc {c} : (s.placeWellTrip c).hxc = s.hxc := rfl
@[simp] theorem State.placeWellTrip_wcc {c} : (s.placeWellTrip c).wcc = s.wcc := rfl
@[simp] theorem State.placeWellTrip_tbc {c} : (s.placeWellTrip c).tbc = s.tbc := rfl
@[simp] theorem State.placeWellTrip_bbu {c} : (s.placeWellTrip c).bbu = s.bbu := rfl
@[simp] theorem State.placeWellTrip_sqr {c} : (s.placeWellTrip c).sqr = s.sqr := rfl
@[simp] theorem State.placeWellTrip_alt {c} : (s.placeWellTrip c).alt = s.alt := rfl
@[simp] theorem State.placeWellTrip_ssl {c} : (s.placeWellTrip c).ssl = s.ssl := rfl
@[simp] theorem State.placeWellTrip_free {c} : (s.placeWellTrip c).free = s.free := rfl

/-! ### State.commit -/

@[simp] theorem State.commit_pending {f m l k x} : (s.commit f m l k x).pending = s.pending := rfl
@[simp] theorem State.commit_flc {f m l k x} : (s.commit f m l k x).flc = s.flc := rfl
@[simp] theorem State.commit_qtb {f m l k x} : (s.commit f m l k x).qtb = s.qtb := rfl
@[simp] theorem State.commit_tip {f m l k x} : (s.commit f m l k x).tip = s.tip := rfl
@[simp] theorem State.commit_scm {f m l k x} : (s.commit f m l k x).scm = s.scm := rfl
@[simp] theorem State.commit_hxc {f m l k x} : (s.commit f m l k x).hxc = s.hxc := rfl
@[simp] theorem State.commit_wcc {f m l k x} : (s.commit f m l k x).wcc = s.wcc := rfl
@[simp] theorem State.commit_bbu {f m l k x} : (s.commit f m l k x).bbu = s.bbu := rfl
@[simp] theorem State.commit_sqr {f m l k x} : (s.commit f m l k x).sqr = s.sqr := rfl
@[simp] theorem State.commit_alt {f m l k x} : (s.commit f m l k x).alt = s.alt := rfl
@[simp] theorem State.commit_ssl {f m l k x} : (s.commit f m l k x).ssl = s.ssl := rfl
@[simp] theorem State.commit_free {f m l k x} : (s.commit f m l k x).free = s.free := rfl

/-! ### What the updates write -/

@[simp] theorem State.hand_handed {l} : (s.hand l).handed = s.handed ++ l := rfl
@[simp] theorem State.took_handed {i} : (s.took i).handed = s.handed.erase i := rfl
@[simp] theorem State.useFree_free : s.useFree.free = s.free + 1 := rfl
@[simp] theorem State.hand_nil : s.hand [] = s := by simp [State.hand]
@[simp] theorem State.notify_nil : s.notify [] = s := rfl
theorem State.hand_append {l m} : s.hand (l ++ m) = (s.hand l).hand m := by simp [State.hand]
theorem State.notify_append {l m} : s.notify (l ++ m) = (s.notify l).notify m := by
  simp [State.notify]
@[simp] theorem State.setWell_wcc {c w} : (s.setWell c w).wcc = s.wcc.set c w := rfl
@[simp] theorem State.setSlot_sqr {k r} : (s.setSlot k r).sqr = s.sqr.set k r := rfl
@[simp] theorem State.moveSlot_sqr {k r} : (s.moveSlot k r).sqr = s.sqr.set k r := rfl
@[simp] theorem State.commit_tbc {f m l k x} :
    (s.commit f m l k x).tbc = { x with steam := s.steamDemand x } := rfl
@[simp] theorem State.answer_reply {k st c} :
    (s.answer k st c).svp.reply = some ⟨k, st, s.portFlags, c⟩ := rfl
@[simp] theorem State.deselect_selection : s.deselect.svp.selection = none := rfl
@[simp] theorem State.deselect_reply : s.deselect.svp.reply = s.svp.reply := rfl
@[simp] theorem State.overrun_reply : s.overrun.svp.reply = s.svp.reply := rfl

end Sys2Proof.Machine

namespace Sys2Proof.Bank

/-! ### Banks -/

variable {α : Type} {n : Nat}

theorem get_eq (b : Bank α n) (i : Fin n) : b.get i = b.rows[i.val]'(by simp [b.size]) := rfl

@[simp] theorem get_set_self (b : Bank α n) (i : Fin n) (a : α) : (b.set i a).get i = a := by
  rw [get_eq]; exact List.getElem_set_self ..

@[simp] theorem get_set_ne (b : Bank α n) {i j : Fin n} (a : α) (h : i ≠ j) :
    (b.set i a).get j = b.get j := by
  rw [get_eq, get_eq]; exact List.getElem_set_ne (fun e => h (Fin.ext e)) ..

theorem get_set (b : Bank α n) (i j : Fin n) (a : α) :
    (b.set i a).get j = if i = j then a else b.get j := by
  split
  · subst_vars; simp
  · simp [*]

@[simp] theorem get_modify_self (b : Bank α n) (i : Fin n) (f : α → α) :
    (b.modify i f).get i = f (b.get i) := by simp [modify]

@[simp] theorem get_modify_ne (b : Bank α n) {i j : Fin n} (f : α → α) (h : i ≠ j) :
    (b.modify i f).get j = b.get j := by simp [modify, h]

theorem get_modify (b : Bank α n) (i j : Fin n) (f : α → α) :
    (b.modify i f).get j = if i = j then f (b.get i) else b.get j := by
  simp [modify, get_set]

@[simp] theorem get_ofFn (f : Fin n → α) (i : Fin n) : (Bank.ofFn f).get i = f i := by
  rw [get_eq]; exact List.getElem_ofFn ..

@[simp] theorem get_fill (a : α) (i : Fin n) : (Bank.fill n a).get i = a := by
  rw [get_eq]; exact List.getElem_replicate ..

@[simp] theorem get_mapIdx (b : Bank α n) (f : Fin n → α → α) (i : Fin n) :
    (b.mapIdx f).get i = f i (b.get i) := by simp [mapIdx]

/-- Two banks with equal records are equal. -/
theorem ext_get {a b : Bank α n} (h : ∀ i, a.get i = b.get i) : a = b := by
  obtain ⟨l, hl⟩ := a
  obtain ⟨m, hm⟩ := b
  congr
  apply List.ext_getElem (by rw [hl, hm])
  intro k h₁ h₂
  exact h ⟨k, by rw [← hl]; exact h₁⟩

/-- A record put back where it stands. -/
theorem set_get_self (b : Bank α n) (i : Fin n) : b.set i (b.get i) = b := by
  apply ext_get; intro j
  by_cases h : i = j
  · subst h; rw [get_set_self]
  · rw [get_set_ne _ _ h]

end Sys2Proof.Bank
end

