-- ==== Sys2Proof/Laws/Alarms.lean ====
section
/-! SUPPORT. What the operations of the alarm table and of the counter bank can do (R164 to R171). -/

namespace Sys2Proof.Laws

open Sys2Proof.Machine

/-- An entry is for one code and source. -/
theorem isFor_iff (c s e) : AlarmEntry.isFor c s e = true ↔ e.code = c ∧ e.source = s :=
    by unfold AlarmEntry.isFor; exact decide_eq_true_iff

/-- In a legal table no other entry has the code and source of an entry. -/
theorem legal_split {a : Alt} (h : a.legal) {before after : List AlarmEntry} {e} (he : a.table =
    before ++ e :: after) :
    (∀ x ∈ before, x.isFor e.code e.source = false) ∧ (∀ x ∈ after,
        x.isFor e.code e.source = false) := by
  have := h.2.1
  rw [he, List.pairwise_append, List.pairwise_cons] at this
  obtain ⟨_, ⟨h1, _⟩, h2⟩ := this
  refine ⟨fun x hx => ?_, fun x hx => ?_⟩
  · have := h2 x hx e (List.mem_cons_self ..)
    rw [Bool.eq_false_iff]; intro hh; exact this ((isFor_iff _ _ _).1 hh)
  · have := h1 x hx
    rw [Bool.eq_false_iff]; intro hh; obtain ⟨p, q⟩ := (isFor_iff _ _ _).1 hh; exact this ⟨p.symm,
        q.symm⟩

/-- The entry for the code and source of an entry of a legal table is that entry. -/
theorem entry_some {a : Alt} (h : a.legal) {before after : List AlarmEntry} {e} (he : a.table =
    before ++ e :: after) : a.entry e.code e.source = some e := by
  unfold Alt.entry
  rw [he, List.find?_append, List.find?_eq_none.2 (fun x hx =>
      by rw [(legal_split h he).1 x hx]; simp)]
  simp [(isFor_iff e.code e.source e).2 ⟨rfl, rfl⟩]

/-- A table with no entry for a code and source has none to find. -/
theorem entry_none {a : Alt} {c s} (h : ∀ e ∈ a.table, e.code = c →
    e.source ≠ s) : a.entry c s = none := by
  unfold Alt.entry
  rw [List.find?_eq_none]; intro x hx hh
  obtain ⟨p, q⟩ := (isFor_iff _ _ _).1 hh; exact h x hx p q

/-- An entry of a legal table replaced in its place. -/
theorem put_eq {a : Alt} (h : a.legal) {before after : List AlarmEntry} {e} (he : a.table = before
    ++ e :: after) (e' : AlarmEntry) (hc : e'.code = e.code) (hs : e'.source = e.source) :
    a.put e' = { a with table := before ++ e' :: after } := by
  unfold Alt.put
  have h1 : ∀ l : List AlarmEntry, (∀ x ∈ l, x.isFor e.code e.source = false) → (l.map fun x =>
      if x.isFor e'.code e'.source then e' else x) = l := by
    intro l hl
    conv_rhs => rw [← List.map_id l]
    apply List.map_congr_left; intro x hx; rw [hc, hs, hl x hx]; rfl
  obtain ⟨p, q⟩ := legal_split h he
  rw [he, List.map_append, List.map_cons, h1 _ p, h1 _ q, hc, hs,
      if_pos ((isFor_iff e.code e.source e).2 ⟨rfl, rfl⟩)]

/-- An entry of a legal table removed, which clears TABLE_OVERFLOW (R167). -/
theorem remove_eq {a : Alt} (h : a.legal) {before after : List AlarmEntry} {e} (he : a.table =
    before ++ e :: after) :
    a.remove e.code e.source = { a with table := before ++ after, overflow := false } := by
  unfold Alt.remove
  have h1 : ∀ l : List AlarmEntry, (∀ x ∈ l, x.isFor e.code e.source = false) → (l.filter fun x =>
      !x.isFor e.code e.source) = l := by
    intro l hl
    rw [List.filter_eq_self]; intro x hx; rw [hl x hx]; rfl
  obtain ⟨p, q⟩ := legal_split h he
  rw [he, List.filter_append, List.filter_cons, h1 _ p, h1 _ q,
      (isFor_iff e.code e.source e).2 ⟨rfl, rfl⟩]; simp

/-- When ALARM_OUT is driven (R168). -/
theorem alarmOutOf_iff (table ovf) : alarmOutOf table ovf = true ↔ ovf = true ∨ ∃ e ∈ table,
    e.state = .activeUnacked
      ∨ e.state = .activeAcked ∧ (e.severity = .alarm ∨ e.severity = .trip) := by
  unfold alarmOutOf AlarmEntry.active
  simp only [Bool.or_eq_true, List.any_eq_true, decide_eq_true_eq, Bool.and_eq_true]
  have hsev : ∀ e : AlarmEntry, e.severity ≠ .watch ↔ e.severity = .alarm ∨ e.severity = .trip := by
    intro e; cases e.severity <;> simp
  simp only [hsev]
  constructor
  · rintro ((⟨e, he, h⟩ | ⟨e, he, h | h, h2⟩) | h)
    · exact .inr ⟨e, he, .inl h⟩
    · exact .inr ⟨e, he, .inl h⟩
    · exact .inr ⟨e, he, .inr ⟨h, h2⟩⟩
    · exact .inl h
  · rintro (h | ⟨e, he, h | ⟨h, h2⟩⟩)
    · exact .inr h
    · exact .inl (.inl ⟨e, he, h⟩)
    · exact .inl (.inr ⟨e, he, .inr h, h2⟩)

/-- A table evaluated anew, and its notices queued. -/
theorem evaluate_becomes (s : State) (a : Alt) (l) (h1 : a.counters = s.alt.counters)
    (h2 : a.retention = s.alt.retention) : AlarmsBecome a.table a.overflow l s
    ({ s with alt := a.evaluate }.notify l) := by
  refine ⟨_, alarmOutOf_iff _ _, ?_⟩
  obtain ⟨ta, ov, out, co, re⟩ := a
  simp only at h1 h2; subst h1 h2; rfl

/-- Evaluating a legal table anew changes nothing. -/
theorem evaluate_legal {s : State} (h : s.alt.legal) : ({ s with alt := s.alt.evaluate }.notify [])
    = s := by
  have : s.alt.evaluate = s.alt := by unfold Alt.evaluate; rw [← h.2.2]
  rw [this]; rfl

/-- The ranks of the severities are their order. -/
theorem rank_lt_iff (a b : Severity) : a.rank < b.rank ↔ Below a b :=
    by cases a <;> cases b <;> simp [Severity.rank, Below]

/-- The oldest CLEARED_UNACKED entry is the one a full table evicts (R167). -/
theorem evict_first {l before after : List AlarmEntry} {old : AlarmEntry} (h : l = before ++
    old :: after) (h2 : old.state = .clearedUnacked) (h3 : ∀ e ∈ before,
    e.state ≠ .clearedUnacked) :
   l.find? (fun x => decide (x.state = .clearedUnacked)) = some old ∧ l.eraseP (fun x =>
       decide (x.state = .clearedUnacked)) = before ++ after := by
  subst h
  refine ⟨?_, ?_⟩
  · rw [List.find?_append, List.find?_eq_none.2 (fun x hx => by simpa using h3 x hx)]; simp [h2]
  · rw [List.eraseP_append_right _ (fun x hx => by simpa using h3 x hx)]; simp [h2]

/-- One increment moves one counter by 1. -/
theorem bump_of (b : Counters) (c : Counter) (o : CounterOwner) (j : Nat) : ((b.bump c).of o)[j]? =
    ((b.of o)[j]?).map fun v => v + if counterAt c = (o, j) then 1 else 0 := by
  have bank : ∀ {n} (x : Bank U32 n) (i : Fin n) (j : Nat),
      ((x.modify i (· + 1)).rows)[j]? = (x.rows[j]?).map fun v => v + if i.val = j then 1 else 0 :=
      by
    intro n x i j
    by_cases hj : j < n
    · have g := Bank.get_modify x i ⟨j, hj⟩ (· + 1)
      rw [Bank.get_eq, Bank.get_eq, Bank.get_eq] at g
      rw [List.getElem?_eq_getElem (by rw [Bank.size]; exact hj),
          List.getElem?_eq_getElem (by rw [Bank.size]; exact hj), g]
      by_cases hi : i.val = j
      · subst hi; simp
      · rw [if_neg (fun h => hi (by rw [h]))]; simp [hi]
    · rw [List.getElem?_eq_none (by rw [Bank.size]; omega),
          List.getElem?_eq_none (by rw [Bank.size]; omega)]; rfl
  have same : ∀ (l : List U32), l[j]? = l[j]?.map fun v => v + 0 := by intro l; simp
  cases c <;> cases o <;> simp only [Counters.bump, Counters.of, counterAt, Prod.mk.injEq,
      reduceCtorEq, false_and, if_false, CounterOwner.well.injEq, CounterOwner.entry.injEq,
      true_and] <;> first | exact same _ | skip
  case wellStarts.well c d =>
    rw [Bank.get_modify]; by_cases h : c = d
    · subst h; rw [if_pos rfl, bank]; simp
    · rw [if_neg h]; simp [h]
  case wellTrips.well c k d =>
    rw [Bank.get_modify]; by_cases h : c = d
    · subst h; rw [if_pos rfl, bank]; cases k <;> simp [wellCauseNo] <;> congr
    · rw [if_neg h]; simp [h]
  case turbStarts.turbine => rw [bank]; simp
  case turbTrips.turbine k => rw [bank]; cases k <;> simp [turbCauseNo] <;> congr
  case heatLimitedMin.exchanger => rw [bank]; simp
  case isolations.exchanger => rw [bank]; simp
  case floorBreaches.exchanger => rw [bank]; simp
  case exchanges.entry c d =>
    rw [Bank.get_modify]; by_cases h : c = d
    · subst h; rw [if_pos rfl, bank]; simp
    · rw [if_neg h]; simp [h]
  case outcomes.entry c k d =>
    rw [Bank.get_modify]; by_cases h : c = d
    · subst h; rw [if_pos rfl, bank]; cases k <;> simp [outcomeNo] <;> congr
    · rw [if_neg h]; simp [h]
  case deferredPolls.entry c d =>
    rw [Bank.get_modify]; by_cases h : c = d
    · subst h; rw [if_pos rfl, bank]; simp
    · rw [if_neg h]; simp [h]
  case scanOverruns.device => rw [bank]; simp

/-- A list of increments moves each counter by the increments that name it. -/
theorem bumps_of (cs : List Counter) : ∀ (b : Counters) (o : CounterOwner) (j : Nat),
    ((cs.foldl Counters.bump b).of o)[j]? = ((b.of o)[j]?).map fun v =>
    v + BitVec.ofNat 32 (cs.filter fun c => decide (counterAt c = (o, j))).length := by
  induction cs with
  | nil => intro b o j; simp
  | cons c l ih =>
    intro b o j
    rw [List.foldl_cons, ih, bump_of, Option.map_map]
    congr 1; funext v; simp only [Function.comp, List.filter_cons]
    by_cases h : counterAt c = (o, j)
    · simp only [h, if_true, decide_true, List.length_cons]
      rw [BitVec.add_assoc]; congr 1; rw [Nat.add_comm, BitVec.ofNat_add]; rfl
    · simp only [h, if_false, decide_false, Bool.false_eq_true]
      simp

/-! ## Clears of many entries (R165, R169) -/

/-- The code and source of an entry. -/
def pairOf (e : AlarmEntry) : AlarmCode × Source := (e.code, e.source)

/-- What a clear leaves of one entry (R165). -/
def clearedEntry (now : U32) (e : AlarmEntry) : List AlarmEntry :=
  match e.state with
  | .activeUnacked => [{ e with state := .clearedUnacked, lastChange := now }]
  | .activeAcked => []
  | .clearedUnacked => [e]

/-- The notice of the clear of one entry (R169). -/
def clearedNotice (now : U32) (e : AlarmEntry) : List Notice :=
  match e.state with
  | .activeUnacked => [.alarm { e with state := .clearedUnacked, lastChange := now } .cleared]
  | .activeAcked => [.alarm e .removed]
  | .clearedUnacked => []

theorem clearedTable_cons (p : AlarmEntry → Bool) (now e l) : clearedTable p now (e :: l)
    = (if p e then [e] else clearedEntry now e) ++ clearedTable p now l := by
  unfold clearedTable clearedEntry
  rw [List.filter_cons]
  cases hp : p e <;> cases hs : e.state <;> simp [hp, hs]

theorem clearNotices_cons (p : AlarmEntry → Bool) (now e l) : clearNotices p now (e :: l)
    = (if p e then [] else clearedNotice now e) ++ clearNotices p now l := by
  unfold clearNotices clearedNotice
  rw [List.filter_cons]
  cases hp : p e <;> cases hs : e.state <;> simp [hp, hs]

/-- Clears of two sets of entries, one after the other. -/
theorem clearedTable_twice (p q : AlarmCode × Source → Bool) (now : U32) (l : List AlarmEntry) :
    clearedTable (p ∘ pairOf) now (clearedTable (q ∘ pairOf) now l)
      = clearedTable (fun e => p (pairOf e) && q (pairOf e)) now l := by
  induction l with
  | nil => rfl
  | cons e l ih =>
    rw [clearedTable_cons, clearedTable_cons, ← ih]
    simp only [Function.comp]
    have hx : ∀ x : AlarmEntry, pairOf x = pairOf e → ∀ l, clearedTable (p ∘ pairOf) now (x :: l) =
        (if p (pairOf e) then [x] else clearedEntry now x) ++ clearedTable (p ∘ pairOf) now l := by
      intro x hx l; rw [clearedTable_cons]; simp only [Function.comp, hx]
    rcases Bool.eq_false_or_eq_true (q (pairOf e)) with hq | hq
    rotate_left
    · simp only [hq, Bool.false_eq_true, if_false, Bool.and_false]
      unfold clearedEntry
      cases hs : e.state
      · show clearedTable _ _ ({ e with state := .clearedUnacked, lastChange := now } :: _) = _
        rw [hx { e with state := .clearedUnacked, lastChange := now } rfl]; unfold clearedEntry
        rcases Bool.eq_false_or_eq_true (p (pairOf e)) with hp | hp <;> rw [hp] <;> rfl
      · rfl
      · show clearedTable _ _ (_ :: _) = _
        rw [hx _ rfl]; unfold clearedEntry; simp only [hs]
        rcases Bool.eq_false_or_eq_true (p (pairOf e)) with hp | hp <;> rw [hp] <;> rfl
    · simp only [hq, if_true, Bool.and_true]
      show clearedTable _ _ (_ :: _) = _
      rw [hx _ rfl]; rfl

/-- The notices of those clears. -/
theorem clearNotices_twice (p q : AlarmCode × Source → Bool) (now : U32) (l : List AlarmEntry) :
    (clearNotices (q ∘ pairOf) now l
      ++ clearNotices (p ∘ pairOf) now (clearedTable (q ∘ pairOf) now l)).Perm
      (clearNotices (fun e => p (pairOf e) && q (pairOf e)) now l) := by
  induction l with
  | nil => exact List.Perm.refl _
  | cons e l ih =>
    rw [clearedTable_cons, clearNotices_cons, clearNotices_cons]
    simp only [Function.comp]
    have hx : ∀ x : AlarmEntry, pairOf x = pairOf e → ∀ l, clearNotices (p ∘ pairOf) now (x :: l) =
        (if p (pairOf e) then [] else clearedNotice now x) ++ clearNotices (p ∘ pairOf) now l := by
      intro x hx l; rw [clearNotices_cons]; simp only [Function.comp, hx]
    rcases Bool.eq_false_or_eq_true (q (pairOf e)) with hq | hq
    rotate_left
    · simp only [hq, Bool.false_eq_true, if_false, Bool.and_false]
      unfold clearedEntry
      cases hs : e.state
      · show (_ ++ clearNotices _ _
            ({ e with state := .clearedUnacked, lastChange := now } :: _)).Perm _
        rw [hx { e with state := .clearedUnacked, lastChange := now } rfl, List.append_assoc]
        refine List.Perm.append_left _ ?_
        unfold clearedNotice; rcases Bool.eq_false_or_eq_true (p (pairOf e)) with hp | hp
            <;> rw [hp] <;> exact ih
      · rw [List.append_assoc]; exact List.Perm.append_left _ ih
      · show (_ ++ clearNotices _ _ (_ :: _)).Perm _
        rw [hx _ rfl, List.append_assoc]
        refine List.Perm.append_left _ ?_
        unfold clearedNotice; simp only [hs]
        rcases Bool.eq_false_or_eq_true (p (pairOf e)) with hp | hp <;> rw [hp] <;> exact ih
    · simp only [hq, if_true, Bool.and_true]
      show (_ ++ clearNotices _ _ (_ :: _)).Perm _
      rw [hx _ rfl, List.nil_append]
      rcases Bool.eq_false_or_eq_true (p (pairOf e)) with hp | hp
      rotate_left
      · simp only [hp, Bool.false_eq_true, if_false]
        exact (List.perm_append_comm_assoc _ _ _).trans (List.Perm.append_left _ ih)
      · simpa [hp] using ih

theorem clearedTable_pairs (p : AlarmEntry → Bool) (now : U32) (l : List AlarmEntry) :
    (clearedTable p now l).map pairOf =
        (l.filter fun e => p e || decide (e.state ≠ .activeAcked)).map pairOf := by
  unfold clearedTable
  rw [List.map_map]
  apply List.map_congr_left
  intro e _; simp only [Function.comp]; split <;> rfl

/-- Clears leave the pairs of a table distinct. -/
theorem clearedTable_distinct {p : AlarmEntry → Bool} {now : U32} {l : List AlarmEntry}
    (h : (l.map pairOf).Nodup) : ((clearedTable p now l).map pairOf).Nodup := by
  rw [clearedTable_pairs]
  exact h.sublist ((List.filter_sublist).map _)

/-- A clear of nothing. -/
theorem clearedTable_all (p : AlarmEntry → Bool) (now : U32) (l : List AlarmEntry) (h : ∀ e ∈ l,
    p e = true) :
    clearedTable p now l = l ∧ clearNotices p now l = [] := by
  induction l with
  | nil => exact ⟨rfl, rfl⟩
  | cons e l ih =>
    obtain ⟨i1, i2⟩ := ih (fun x hx => h x (by simp [hx]))
    rw [clearedTable_cons, clearNotices_cons, h e (by simp), i1, i2]; exact ⟨rfl, rfl⟩

/-- One clear (R165, R169). -/
theorem clear_clears (a : Alt) (now : U32) (x : AlarmCode × Source) (h : (a.table.map pairOf).Nodup)
    (ho : a.overflow = false) :
    a.clear now x.1 x.2 =
      ({ a with table := clearedTable ((fun y => decide (y ≠ x)) ∘ pairOf) now a.table },
      clearNotices ((fun y => decide (y ≠ x)) ∘ pairOf) now a.table) := by
  have key : ∀ e, AlarmEntry.isFor x.1 x.2 e = true ↔ pairOf e = x := by
    intro e; unfold AlarmEntry.isFor pairOf; simp [Prod.ext_iff]
  unfold Alt.clear Alt.entry
  cases hf : a.table.find? (AlarmEntry.isFor x.1 x.2) with
  | none =>
    have hall : ∀ e ∈ a.table, ((fun y => decide (y ≠ x)) ∘ pairOf) e = true := by
      intro e he
      have := List.find?_eq_none.1 hf e he
      simp only [Function.comp, decide_eq_true_eq]
      intro hh; exact this ((key e).2 hh)
    obtain ⟨h1, h2⟩ := clearedTable_all _ now a.table hall
    rw [h1, h2]
  | some e =>
    obtain ⟨hk, before, after, he, hb⟩ := List.find?_eq_some_iff_append.1 hf
    have hex := (key e).1 hk
    rw [he, List.map_append, List.map_cons, List.nodup_append] at h
    obtain ⟨n1, n2, n3⟩ := h
    rw [List.nodup_cons] at n2
    have hbef : ∀ y ∈ before, pairOf y ≠ x := by
      intro y hy hyx; have := hb y hy; rw [(key y).2 hyx] at this; cases this
    have haft : ∀ y ∈ after, pairOf y ≠ x := by
      intro y hy hyx; exact n2.1 (List.mem_map.2 ⟨y, hy, hyx.trans hex.symm⟩)
    have app : ∀ l m : List AlarmEntry, ∀ p,
        clearedTable p now (l ++ m) = clearedTable p now l ++ clearedTable p now m := by
      intro l m p; unfold clearedTable; rw [List.filter_append, List.map_append]
    have app2 : ∀ l m : List AlarmEntry, ∀ p,
        clearNotices p now (l ++ m) = clearNotices p now l ++ clearNotices p now m := by
      intro l m p; unfold clearNotices; rw [List.filter_append, List.map_append]
    obtain ⟨b1, b2⟩ := clearedTable_all ((fun y => decide (y ≠ x)) ∘ pairOf) now before (fun y hy =>
        by simpa using hbef y hy)
    obtain ⟨a1, a2⟩ := clearedTable_all ((fun y => decide (y ≠ x)) ∘ pairOf) now after (fun y hy =>
        by simpa using haft y hy)
    have hne : ((fun y => decide (y ≠ x)) ∘ pairOf) e = false := by simp [hex]
    rw [he, app, app2, b1, b2, clearedTable_cons, clearNotices_cons, a1, a2, hne]
    simp only [Bool.false_eq_true, if_false, List.append_nil, List.nil_append]
    have hput : ∀ e', e'.code = e.code → e'.source = e.source → a.put e' = { a with table :=
        before ++ e' :: after } := by
      intro e' h1 h2
      unfold Alt.put
      have k2 : ∀ y, AlarmEntry.isFor e'.code e'.source y = AlarmEntry.isFor x.1 x.2 y := by
        intro y; rw [h1, h2]; have : (e.code, e.source) = x := hex; rw [← this]
      rw [he]; congr 1
      rw [List.map_append, List.map_cons]
      rw [k2, if_pos hk]
      congr 1
      · conv => rhs; rw [← List.map_id before]
        apply List.map_congr_left; intro y hy
        rw [k2, if_neg (fun hh => hbef y hy ((key y).1 hh))]; rfl
      · congr 1
        conv => rhs; rw [← List.map_id after]
        apply List.map_congr_left; intro y hy
        rw [k2, if_neg (fun hh => haft y hy ((key y).1 hh))]; rfl
    unfold clearedEntry clearedNotice
    cases hs : e.state
    · simp only; rw [hput { e with state := .clearedUnacked, lastChange := now } rfl rfl]; rfl
    · simp only; unfold Alt.remove; rw [he, List.filter_append, List.filter_cons]
      rw [hk]; simp only [Bool.not_true, Bool.false_eq_true, if_false]
      rw [List.filter_eq_self.2, List.filter_eq_self.2]
      · rw [ho]; rfl
      · intro y hy; simp only [Bool.not_eq_true']; rw [← Bool.not_eq_true]
        exact fun hh => haft y hy ((key y).1 hh)
      · intro y hy; simp only [Bool.not_eq_true']; rw [← Bool.not_eq_true]
        exact fun hh => hbef y hy ((key y).1 hh)
    · simp only; rw [← List.singleton_append] at he; rw [← he]

/-- Every clear of a list, one after the other: what they leave of the table, and the notices (R165,
    R169). -/
theorem clearAll_clears : ∀ (l : List (AlarmCode × Source)) (s : State),
    (s.alt.table.map pairOf).Nodup →
    s.alt.overflow = false →
    ∃ clears : List Notice,
      clears.Perm (clearNotices ((fun y => decide (y ∉ l)) ∘ pairOf) s.svp.plantTime s.alt.table)
      ∧ ∃ out, (l ≠ [] → out = alarmOutOf (clearedTable ((fun y => decide (y ∉ l)) ∘ pairOf)
          s.svp.plantTime s.alt.table) s.alt.overflow)
        ∧ s.clearAll l = { s with
          alt := { s.alt with
            table := clearedTable ((fun y => decide (y ∉ l)) ∘ pairOf) s.svp.plantTime s.alt.table
            alarmOut := out }
          svp := (s.notify clears).svp } := by
  intro l
  induction l with
  | nil =>
    intro s h ho
    obtain ⟨h1, h2⟩ := clearedTable_all ((fun y => decide (y ∉ ([] : List (AlarmCode × Source)))) ∘
        pairOf) s.svp.plantTime s.alt.table (by simp)
    refine ⟨[], by rw [h2], s.alt.alarmOut, fun h => absurd rfl h, ?_⟩
    rw [h1]; rfl
  | cons x l ih =>
    intro s h ho
    have h1 := clear_clears s.alt s.svp.plantTime x h ho
    let z : State := s.alarmClear x.1 x.2
    let p1 : AlarmCode × Source → Bool := fun y => decide (y ≠ x)
    let p2 : AlarmCode × Source → Bool := fun y => decide (y ∉ l)
    have hz : z = { s with
        alt := ({ s.alt with table := clearedTable (p1 ∘ pairOf) s.svp.plantTime s.alt.table } :
            Alt).evaluate
        svp := (s.notify (clearNotices (p1 ∘ pairOf) s.svp.plantTime s.alt.table)).svp } := by
      show s.alarmClear x.1 x.2 = _
      unfold State.alarmClear; rw [h1]; rfl
    have hzt : z.alt.table = clearedTable (p1 ∘ pairOf) s.svp.plantTime s.alt.table := by rw [hz]; rfl
    have hpt : ∀ (c : List Notice) (v : Svp), (c.foldl Svp.queue v).plantTime = v.plantTime := by
      intro c; induction c with
      | nil => intro v; rfl
      | cons n c ih => intro v; rw [List.foldl_cons, ih]; unfold Svp.queue; split <;> rfl
    have hzp : z.svp.plantTime = s.svp.plantTime := by rw [hz]; exact hpt _ _
    obtain ⟨c2, k1, out, k2, k3⟩ := ih z (by rw [hzt]; exact clearedTable_distinct h)
        (by rw [hz]; exact ho)
    have pp : (fun e => p2 (pairOf e) && p1 (pairOf e)) = (fun y => decide (y ∉ x :: l)) ∘ pairOf := by
      funext e; simp only [p1, p2, Function.comp, List.mem_cons, not_or]
      by_cases ha : pairOf e = x <;> by_cases hb : pairOf e ∈ l <;> simp [ha, hb]
    have ht := clearedTable_twice p2 p1 s.svp.plantTime s.alt.table
    have hn := clearNotices_twice p2 p1 s.svp.plantTime s.alt.table
    rw [pp] at ht hn
    have k1' : c2.Perm (clearNotices (p2 ∘ pairOf) s.svp.plantTime (clearedTable (p1 ∘ pairOf)
        s.svp.plantTime s.alt.table)) := by
      rw [hzp, hzt] at k1; exact k1
    have et : clearedTable (p2 ∘ pairOf) z.svp.plantTime z.alt.table =
        clearedTable ((fun y => decide (y ∉ x :: l)) ∘ pairOf) s.svp.plantTime s.alt.table := by
      rw [hzp, hzt, ht]
    refine ⟨clearNotices (p1 ∘ pairOf) s.svp.plantTime s.alt.table ++ c2,
        (List.Perm.append_left _ k1').trans hn, out, fun _ => ?_, ?_⟩
    · by_cases hl : l = []
      · subst hl
        have e0 : (clearedTable (p2 ∘ pairOf) z.svp.plantTime z.alt.table) = z.alt.table :=
            (clearedTable_all _ _ _ (by simp [p2])).1
        have k4 : z.alt.alarmOut = out := congrArg (fun t : State => t.alt.alarmOut) k3
        rw [← k4, ← et, e0, hz]; rfl
      · rw [k2 hl]
        show alarmOutOf (clearedTable (p2 ∘ pairOf) _ _) _ = _
        rw [et, hz]; rfl
    · show z.clearAll l = _
      rw [k3]
      show ({ z with
        alt := { z.alt with table := clearedTable (p2 ∘ pairOf) _ _, alarmOut := out }
        svp := (z.notify c2).svp } : State) = _
      rw [et]
      unfold State.notify
      rw [List.foldl_append, hz]; rfl

end Sys2Proof.Laws
end

