-- ==== Sys2Proof/Laws/Balance.lean ====
section
/-! SUPPORT. What the share procedure, an allocation and a reckoning can do (chapter 7). -/

namespace Sys2Proof.Laws

open Sys2Proof.Machine

/-- A gift with more given and the less room. -/
def giveMore (g : Gift) (e : Int) : Gift := { g with given := g.given + e, room := g.room - e }

/-- The room left over the gifts. -/
def roomsOf (l : List Gift) : Int := (l.map Gift.room).sum

/-- What the gifts give in all. -/
def givensOf (l : List Gift) : Int := (l.map Gift.given).sum

/-- No gift has less than no room. -/
def RoomsLegal (l : List Gift) : Prop := ∀ g ∈ l, 0 ≤ g.room

theorem roomsOf_nonneg {l} (h : RoomsLegal l) : 0 ≤ roomsOf l := by
  unfold roomsOf; apply List.sum_nonneg; intro x hx; rw [List.mem_map] at hx; obtain ⟨g, hg, rfl⟩ :=
      hx; exact h g hg

/-- One round: each of a first stretch of wells with room gets 1, and nothing is lost. -/
theorem oneRound_spec : ∀ (l : List Gift) (n : Nat), RoomsLegal l → ∃ p,
    (oneRound n l).2 = l.mapIdx (fun j g => giveMore g (min g.room (if j < p then 1 else 0))) ∧
    ((oneRound n l).1 = 0 ∨ l.length ≤ p) ∧ (oneRound n l).1 ≤ n ∧ ((oneRound n l).1 = n → n = 0 ∨
    ∀ g ∈ l, g.room = 0) ∧ givensOf (oneRound n l).2 + (oneRound n l).1 = givensOf l + n ∧
    roomsOf (oneRound n l).2 + n = roomsOf l + (oneRound n l).1 := by
  intro l
  induction l with
  | nil => intro n _; refine ⟨0, ?_⟩; cases n <;> simp [oneRound, givensOf, roomsOf]
  | cons g l ih =>
    intro n h
    have hg : 0 ≤ g.room := h g (by simp)
    have hl : RoomsLegal l := fun x hx => h x (by simp [hx])
    cases n with
    | zero =>
      refine ⟨0, ?_, .inl rfl, le_refl _, fun _ => .inl rfl, by simp [oneRound], by simp [oneRound]⟩
      have : ∀ (l : List Gift), RoomsLegal l → l.mapIdx (fun j g =>
          giveMore g (min g.room (if j < 0 then 1 else 0))) = l := by
        intro l h; apply List.ext_getElem; simp
        intro i h1 h2; simp only [List.getElem_mapIdx, Nat.not_lt_zero, if_false]
        have := h _ (List.getElem_mem h2)
        unfold giveMore; rw [min_eq_right this]; simp
      exact (this _ h).symm
    | succ n =>
      unfold oneRound
      by_cases hr : 0 < g.room
      · rw [if_pos hr]
        obtain ⟨p, h1, h2, h3, h4, h5, h6⟩ := ih n hl
        refine ⟨p + 1, ?_, ?_, ?_, ?_, ?_, ?_⟩
        · simp only; rw [h1, List.mapIdx_cons]
          congr 1
          · rw [if_pos (by omega), min_eq_right (by omega)]; rfl
          · congr 1; funext j x; by_cases hj : j < p
            · rw [if_pos hj, if_pos (by omega)]
            · rw [if_neg hj, if_neg (by omega)]
        · simp only; rcases h2 with h2 | h2
          · exact .inl h2
          · right; simp; omega
        · simp only; omega
        · simp only; intro h; omega
        · simp only [givensOf, List.map_cons, List.sum_cons] at *; push_cast; omega
        · simp only [roomsOf, List.map_cons, List.sum_cons] at *; push_cast; omega
      · rw [if_neg hr]
        have h0 : g.room = 0 := by omega
        obtain ⟨p, h1, h2, h3, h4, h5, h6⟩ := ih (n+1) hl
        refine ⟨p + 1, ?_, ?_, ?_, ?_, ?_, ?_⟩
        · simp only; rw [h1, List.mapIdx_cons]
          congr 1
          · rw [h0]; simp [giveMore]
          · congr 1; funext j x; by_cases hj : j < p
            · rw [if_pos hj, if_pos (by omega)]
            · rw [if_neg hj, if_neg (by omega)]
        · simp only; rcases h2 with h2 | h2
          · exact .inl h2
          · right; simp; omega
        · simp only; omega
        · simp only; intro h
          rcases h4 h with h | h
          · omega
          · right; intro x hx; rcases List.mem_cons.1 hx with hx | hx
            · rw [hx, h0]
            · exact h x hx
        · simp only [givensOf, List.map_cons, List.sum_cons] at *; omega
        · simp only [roomsOf, List.map_cons, List.sum_cons] at *; omega

theorem oneRound_zero (l) : oneRound 0 l = (0, l) := by cases l <;> rfl

theorem rounds_zero : ∀ (f : Nat) (l), rounds f 0 l = l := by
  intro f; induction f with
  | zero => intro l; rfl
  | succ f ih => intro l; unfold rounds; simp only [oneRound_zero, ih]

theorem oneRound_full : ∀ (l : List Gift) n, (∀ g ∈ l, g.room = 0) → oneRound n l = (n, l) := by
  intro l; induction l with
  | nil => intro n _; cases n <;> rfl
  | cons g l ih =>
    intro n h
    cases n with
    | zero => rfl
    | succ n =>
      unfold oneRound; rw [if_neg (by have := h g (by simp); omega), ih _ (fun x hx =>
          h x (by simp [hx]))]

theorem rounds_full : ∀ (f : Nat) n (l : List Gift), (∀ g ∈ l, g.room = 0) → rounds f n l = l := by
  intro f; induction f with
  | zero => intro n l _; rfl
  | succ f ih => intro n l h; unfold rounds; simp only [oneRound_full _ _ h]; exact ih n l h

/-- The rounds: every well gets the same count, the first wells one more, up to its room. -/
theorem rounds_spec : ∀ (f n : Nat) (l : List Gift), n ≤ f → RoomsLegal l → ∃ (q : Int) (p : Nat),
    0 ≤ q ∧ rounds f n l = l.mapIdx (fun j g => giveMore g (min g.room (if j < p then q + 1 else
    q))) ∧ givensOf (rounds f n l) = givensOf l + min (n : Int) (roomsOf l) := by
  intro f
  induction f with
  | zero =>
    intro n l hn h
    have : n = 0 := by omega
    subst this
    refine ⟨0, 0, le_refl _, ?_, ?_⟩
    · show l = _
      apply List.ext_getElem; simp
      intro i h1 h2; simp only [List.getElem_mapIdx, Nat.not_lt_zero, if_false]
      have := h _ (List.getElem_mem h1)
      unfold giveMore; rw [min_eq_right this]; simp
    · have := roomsOf_nonneg h; show givensOf l = _; rw [min_eq_left (by simpa using this)]; simp
  | succ f ih =>
    intro n l hn h
    by_cases hz : ∀ g ∈ l, g.room = 0
    · refine ⟨0, 0, le_refl _, ?_, ?_⟩
      · rw [rounds_full _ _ _ hz]
        apply List.ext_getElem; simp
        intro i h1 h2; simp only [List.getElem_mapIdx, Nat.not_lt_zero, if_false]
        have hq := hz _ (List.getElem_mem h1); generalize l[i] = gg at *; unfold giveMore; cases gg;
            simp at hq; subst hq; simp
      · rw [rounds_full _ _ _ hz]
        have : roomsOf l = 0 :=
            by unfold roomsOf; apply List.sum_eq_zero; intro x hx; rw [List.mem_map] at hx; obtain ⟨g, hg, rfl⟩ := hx; exact hz g hg
        rw [this]; simp
    · by_cases h0 : n = 0
      · subst h0
        refine ⟨0, 0, le_refl _, ?_, ?_⟩
        · rw [rounds_zero]
          apply List.ext_getElem; simp
          intro i h1 h2; simp only [List.getElem_mapIdx, Nat.not_lt_zero, if_false]
          have := h _ (List.getElem_mem h1)
          unfold giveMore; rw [min_eq_right this]; simp
        · have := roomsOf_nonneg h; rw [rounds_zero, min_eq_left (by simpa using this)]; simp
      obtain ⟨p, h1, h2, h3, h4, h5, h6⟩ := oneRound_spec l n h
      have hlt : (oneRound n l).1 < n := by
        rcases Nat.lt_or_ge (oneRound n l).1 n with hh | hh
        · exact hh
        · exfalso; rcases h4 (by omega) with hh | hh
          · exact h0 hh
          · exact hz hh
      have hnn : RoomsLegal (oneRound n l).2 := by
        rw [h1]; intro g hg
        rw [List.mem_mapIdx] at hg; obtain ⟨i, hi, rfl⟩ := hg
        unfold giveMore; simp only; have := min_le_left (l[i].room) (if i < p then 1 else 0); omega
      unfold rounds; simp only
      rcases h2 with h2 | h2
      · rw [h2, rounds_zero]
        refine ⟨0, p, le_refl _, by rw [h1]; simp, ?_⟩
        rw [h2] at h5 h6
        have := roomsOf_nonneg hnn
        rw [min_eq_left (by omega)]; omega
      · obtain ⟨q, p', k0, k1, k2⟩ := ih (oneRound n l).1 (oneRound n l).2 (by omega) hnn
        refine ⟨q + 1, p', by omega, ?_, ?_⟩
        · rw [k1, h1]
          clear k1 h1 k2 ih h4 h5 h6
          apply List.ext_getElem; simp
          intro i i1 i2
          simp only [List.getElem_mapIdx]
          have hi : i < l.length := by simpa using i2
          have hip : i < p := by omega
          simp only [hip, if_true]
          have hr := h _ (List.getElem_mem hi)
          generalize l[i] = g at *
          unfold giveMore; simp only
          have : min g.room 1 + min (g.room - min g.room 1) (if i < p' then q + 1 else q) = min
              g.room (if i < p' then q + 1 + 1 else q + 1) := by
            split <;> omega
          rw [← this]; congr 1 <;> omega
        · rw [k2]; have := roomsOf_nonneg hnn; omega

/-- A sharing out is read at its members alone. -/
theorem sharedOut_congr {r l g} (h : SharedOut r l g) : ∀ g', (∀ m ∈ l, g' m.well = g m.well) →
    SharedOut r l g' := by
  induction h with
  | none r g => intro g' _; exact .none r g'
  | leave r l g so gi rest ih =>
    intro g' hg
    refine .leave r l g' so (fun m hm h => by rw [hg m hm]; exact gi m hm h) (ih g' fun m hm =>
        hg m (List.mem_of_mem_filter hm))
  | last r l g q n fits rd gi all =>
    intro g' hg
    refine .last r l g' q n fits rd (fun j m hm =>
        by rw [hg m (List.mem_of_getElem? hm)]; exact gi j m hm) ?_
    rw [← all]; congr 1; apply List.map_congr_left; intro m hm; exact hg m hm

/-- Members with distinct wells, weights of at least 1 and no less than no headroom. -/
def MembersLegal (l : List Member) : Prop := (l.map Member.well).Nodup ∧ (∀ m ∈ l, 1 ≤ m.weight) ∧
    ∀ m ∈ l, 0 ≤ headroom m

theorem membersLegal_filter {l p} (h : MembersLegal l) : MembersLegal (l.filter p) :=
  ⟨h.1.sublist (List.Sublist.map _ List.filter_sublist), fun m hm =>
      h.2.1 m (List.mem_of_mem_filter hm), fun m hm => h.2.2 m (List.mem_of_mem_filter hm)⟩

theorem weightSum_length : ∀ {l : List Member}, (∀ m ∈ l, 1 ≤ m.weight) →
    (l.length : Int) ≤ weightSum l := by
  intro l; induction l with
  | nil => intro _; simp [weightSum]
  | cons m l ih =>
    intro h; have := ih (fun x hx => h x (by simp [hx])); have := h m (by simp);
        simp [weightSum] at *; omega

theorem share_sum (r w : Int) (hr : 0 ≤ r) (hw : 0 < w) : ∀ (l : List Member),
    ((l.map (Member.share r w)).sum) * w ≤ r * weightSum l := by
  intro l; induction l with
  | nil => simp [weightSum]
  | cons m l ih =>
    have : m.share r w * w ≤ r * m.weight :=
        by unfold Member.share; exact Int.ediv_mul_le _ (by omega)
    simp only [weightSum, List.map_cons, List.sum_cons] at *
    rw [add_mul, mul_add]; omega

theorem shares_le {r : Int} {l : List Member} (hr : 0 ≤ r) (hl : l ≠ []) (hw : ∀ m ∈ l,
    1 ≤ m.weight) : (l.map (Member.share r (weightSum l))).sum ≤ r := by
  have h1 := weightSum_length hw
  have h0 : 0 < weightSum l := by
    have : 0 < l.length := List.length_pos_of_ne_nil hl
    omega
  have := share_sum r _ hr h0 l
  exact le_of_mul_le_mul_right this h0

theorem share_nonneg {r : Int} {l : List Member} (hr : 0 ≤ r) (hw : ∀ m ∈ l,
    1 ≤ m.weight) (m) (hm : m ∈ l) : 0 ≤ m.share r (weightSum l) := by
  unfold Member.share
  have h1 := weightSum_length hw
  have := hw m hm
  apply Int.ediv_nonneg
  · apply mul_nonneg hr; omega
  · omega

theorem givenTo_getElem {l : List Gift} (h : (l.map Gift.well).Nodup) {j : Nat} {g : Gift}
    (hj : l[j]? = some g) : givenTo l g.well = g.given := by
  induction l generalizing j with
  | nil => simp at hj
  | cons x l ih =>
    simp only [List.map_cons, List.nodup_cons] at h
    unfold givenTo at *
    cases j with
    | zero => simp at hj; subst hj; simp
    | succ j =>
      simp at hj
      have hne : x.well ≠ g.well := by
        intro e; apply h.1; rw [e]; exact List.mem_map.2 ⟨g, List.mem_of_getElem? hj, rfl⟩
      rw [List.find?_cons_of_neg (by simpa using hne)]
      exact ih h.2 hj

theorem sum_partition (l : List Member) (p : Member → Bool) (f : Member →
    Int) : (l.map f).sum = ((l.filter p).map f).sum + ((l.filter fun m => !p m).map f).sum := by
  induction l with
  | nil => simp
  | cons m l ih => cases h : p m <;> simp [h, ih] <;> ring

/-- The last pass shares the remainder out. -/
theorem lastPass_shared (r : Int) (l : List Member) (hr : 0 ≤ r) (hl : l ≠ []) (hg : MembersLegal l)
    (hf : ∀ m ∈ l, shareOf r l m ≤ headroom m) : SharedOut r l (givenTo (lastPass r l)) := by
  let gifts := l.map fun m => (⟨m.well, m.share r (weightSum l), m.room - m.share r (weightSum l)⟩ :
      Gift)
  have hnn : RoomsLegal gifts := by
    intro g hgm; rw [List.mem_map] at hgm; obtain ⟨m, hm, rfl⟩ := hgm
    have : m.share r (weightSum l) ≤ m.room := hf m hm
    show (0:Int) ≤ m.room - m.share r (weightSum l); omega
  have hsum : (gifts.map Gift.given).sum = (l.map (Member.share r (weightSum l))).sum := by
    show ((l.map _).map _).sum = _; rw [List.map_map]; rfl
  have hle := shares_le hr hl hg.2.1
  obtain ⟨q, p, k0, k1, k2⟩ := rounds_spec (r - (gifts.map Gift.given).sum).toNat (r - (gifts.map
      Gift.given).sum).toNat gifts (le_refl _) hnn
  have hlp : lastPass r l = rounds (r - (gifts.map Gift.given).sum).toNat (r - (gifts.map
      Gift.given).sum).toNat gifts := rfl
  rw [← hlp] at k1 k2
  have hw : (lastPass r l).map Gift.well = l.map Member.well := by
    rw [k1]; apply List.ext_getElem; simp [gifts]; intro i h1 h2; simp [gifts, giveMore]
  have hnd : ((lastPass r l).map Gift.well).Nodup := by rw [hw]; exact hg.1
  have hgive : ∀ (j : Nat) (m : Member), l[j]? = some m → givenTo (lastPass r l) m.well = shareOf r
      l m + min (headroom m - shareOf r l m) (if j < p then q + 1 else q) := by
    intro j m hj
    have : (lastPass r l)[j]? = some (giveMore ⟨m.well, m.share r (weightSum l),
        m.room - m.share r (weightSum l)⟩ (min (m.room - m.share r (weightSum l)) (if j < p then q +
        1 else q))) := by
      rw [k1, List.getElem?_mapIdx]; simp [gifts, hj]
    exact givenTo_getElem hnd this
  refine .last r l _ q p hf k0 hgive ?_
  have : (l.map fun m => givenTo (lastPass r l) m.well).sum = givensOf (lastPass r l) := by
    unfold givensOf; congr 1
    apply List.ext_getElem
    · have := congrArg List.length hw; simpa using this.symm
    · intro i h1 h2
      simp only [List.getElem_map]
      have hi : i < (lastPass r l).length := by simpa using h2
      have hw' : ((lastPass r l)[i]).well = (l[i]'(by simpa using h1)).well := by
        have := List.getElem_of_eq hw (i := i) (by simpa using h2); simpa using this
      rw [← hw']
      exact givenTo_getElem hnd (List.getElem?_eq_getElem hi)
  rw [this, k2]
  unfold givensOf roomsOf
  rw [hsum]
  have hrm : (gifts.map Gift.room).sum = (l.map headroom).sum - (l.map (Member.share r (weightSum
      l))).sum := by
    show ((l.map _).map _).sum = _; rw [List.map_map]
    have : ∀ (l' : List Member), (l'.map (Gift.room ∘ fun m => (⟨m.well, m.share r (weightSum l),
        m.room - m.share r (weightSum l)⟩ : Gift))).sum = (l'.map headroom).sum - (l'.map
        (Member.share r (weightSum l))).sum := by
      intro l'; induction l' with
      | nil => simp
      | cons m l' ih =>
        simp only [List.map_cons, List.sum_cons, ih]; simp only [Function.comp];
            unfold headroom Member.room; ring
    exact this l
  rw [hrm]; omega

theorem givenTo_append {a b : List Gift} {c} (h : ∀ g ∈ a, g.well ≠ c) : givenTo (a ++
    b) c = givenTo b c := by
  unfold givenTo
  rw [List.find?_append]
  have : a.find? (fun g => decide (g.well = c)) = none := by
    rw [List.find?_eq_none]; intro g hg; simpa using h g hg
  rw [this]; rfl

theorem givenTo_full {l : List Member} (h : (l.map Member.well).Nodup) {m} (hm : m ∈ l) (b : List
    Gift) : givenTo (l.map (fun m => (⟨m.well, m.room, 0⟩ : Gift)) ++ b) m.well = m.room := by
  have h' : ((l.map (fun m => (⟨m.well, m.room, 0⟩ : Gift))).map Gift.well).Nodup :=
      by rw [List.map_map]; exact h
  obtain ⟨j, hj⟩ := List.mem_iff_getElem?.1 hm
  have h2 : (l.map (fun m => (⟨m.well, m.room, 0⟩ : Gift)))[j]? = some ⟨m.well, m.room, 0⟩ :=
      by simp [hj]
  have := givenTo_getElem h' h2
  unfold givenTo at *
  rw [List.find?_append]
  have hs : ((l.map (fun m => (⟨m.well, m.room, 0⟩ : Gift))).find? (fun g =>
      decide (g.well = m.well))).isSome = true := by
    rw [List.find?_isSome]; exact ⟨_, List.mem_of_getElem? h2, by simp⟩
  cases hf : (l.map (fun m => (⟨m.well, m.room, 0⟩ : Gift))).find? (fun g =>
      decide (g.well = m.well)) with
  | none => rw [hf] at hs; cases hs
  | some x => rw [hf] at this; exact this

/-- The passes share the amount out as R131 says. -/
theorem passes_shared : ∀ (f : Nat) (r : Int) (l : List Member), l.length ≤ f → 0 ≤ r →
    MembersLegal l → SharedOut r l (givenTo (passes f r l)) := by
  intro f
  induction f with
  | zero =>
    intro r l hl _ _
    have : l = [] := List.eq_nil_of_length_eq_zero (by omega)
    subst this; exact .none _ _
  | succ f ih =>
    intro r l hl hr hg
    cases l with
    | nil => exact .none _ _
    | cons m0 l0 =>
      generalize hL : m0 :: l0 = l at *
      have hne : l ≠ [] := by rw [← hL]; simp
      let w := weightSum l
      let full := l.filter fun m => decide (m.room < m.share r w)
      have hdef : passes (f+1) r l = if full.isEmpty then lastPass r l else full.map (fun m =>
          ⟨m.well, m.room, 0⟩) ++ passes f (r - (full.map Member.room).sum) (l.filter fun m =>
          decide (m.share r w ≤ m.room)) := by
        subst hL; rfl
      rw [hdef]
      by_cases he : full.isEmpty = true
      · rw [if_pos he]
        refine lastPass_shared r l hr hne hg ?_
        intro m hm
        rw [List.isEmpty_iff, List.filter_eq_nil_iff] at he
        have := he m hm
        simp at this; exact this
      · rw [if_neg he]
        have hex : ∃ m ∈ l, m.room < m.share r w := by
          rw [List.isEmpty_iff] at he
          obtain ⟨m, hm⟩ := List.exists_mem_of_ne_nil _ he
          rw [List.mem_filter] at hm
          exact ⟨m, hm.1, by simpa using hm.2⟩
        have hsub : (full.map Member.room).sum ≤ r := by
          have h1 : (full.map Member.room).sum ≤ (full.map (Member.share r w)).sum := by
            apply List.sum_le_sum; intro m hm; rw [List.mem_filter] at hm
            have := of_decide_eq_true hm.2; omega
          have h2 := shares_le hr hne hg.2.1
          have h3 := sum_partition l (fun m => decide (m.room < m.share r w)) (Member.share r w)
          have h4 : 0 ≤ ((l.filter fun m => !decide (m.room < m.share r w)).map (Member.share r
              w)).sum := by
            apply List.sum_nonneg; intro x hx; rw [List.mem_map] at hx; obtain ⟨m, hm, rfl⟩ := hx
            exact share_nonneg hr hg.2.1 m (List.mem_of_mem_filter hm)
          show (full.map Member.room).sum ≤ r
          have h3' : (l.map (Member.share r w)).sum = (full.map (Member.share r w)).sum +
              ((l.filter fun m => !decide (m.room < m.share r w)).map (Member.share r w)).sum := h3
          have h2' : (l.map (Member.share r w)).sum ≤ r := h2
          omega
        have hlen : (l.filter fun m => decide (m.share r w ≤ m.room)).length ≤ f := by
          have : (l.filter fun m => decide (m.share r w ≤ m.room)).length < l.length := by
            rw [List.length_filter_lt_length_iff_exists]
            obtain ⟨m, hm, h⟩ := hex; exact ⟨m, hm, by simpa using h⟩
          omega
        have hrec := ih (r - (full.map Member.room).sum) (l.filter fun m =>
            decide (m.share r w ≤ m.room)) hlen (by omega) (membersLegal_filter hg)
        have hfn : (full.map Member.well).Nodup := (membersLegal_filter hg).1
        refine .leave r l _ hex (fun m hm h => ?_) ?_
        · exact givenTo_full hfn (List.mem_filter.2 ⟨hm, decide_eq_true h⟩) _
        · refine sharedOut_congr hrec _ ?_
          intro m hm
          apply givenTo_append
          intro g hgm e
          rw [List.mem_map] at hgm; obtain ⟨x, hx, rfl⟩ := hgm
          have e : x.well = m.well := e
          have hxm : x = m := by
            have := List.inj_on_of_nodup_map hg.1 (List.mem_of_mem_filter hx)
                (List.mem_of_mem_filter hm) e
            exact this
          subst hxm
          have a := of_decide_eq_true (List.mem_filter.1 hx).2
          have b := of_decide_eq_true (List.mem_filter.1 hm).2
          omega

theorem sum_filter (l : List WellNo) (p : WellNo → Bool) (f : WellNo →
    Int) : ((l.filter p).map f).sum = (l.map fun c => if p c then f c else 0).sum := by
  induction l with
  | nil => rfl
  | cons c l ih => cases h : p c <;> simp [h, ih]

theorem lookup_map (l : List WellNo) (f : WellNo → Int) (c) : (l.map fun x =>
    (x, f x)).lookup c = if c ∈ l then some (f c) else none := by
  induction l with
  | nil => simp
  | cons x l ih =>
    simp only [List.map_cons, List.lookup_cons]
    by_cases h : c = x
    · subst h; simp
    · have : (c == x) = false := by simpa using h
      rw [this, ih]; simp [h]

/-- The classes are those of R130 and R133. -/
theorem classOf_classes (s : State) : s.classes s.classOf := by
  intro c
  unfold State.classOf State.capBelowMin
  refine ⟨fun h => by rw [h], fun h h2 ⟨v, h3, h4⟩ =>
      by rw [h]; simp only; rw [if_pos ⟨h2, by rw [h3]; exact decide_eq_true h4⟩], fun h h2 => ?_,
      fun h h2 => ?_⟩
  · rw [h]; simp only; rw [if_neg]
    rintro ⟨a, b⟩
    cases hc : s.bbu.caps.get c with
    | none => rw [hc] at b; cases b
    | some v => rw [hc] at b; have := of_decide_eq_true b; have := h2 a v hc; omega
  · cases hs : (s.wcc.get c).state <;> first | rfl | exact absurd hs h | exact absurd hs h2

theorem classOf_active {s : State} {c} (h : s.classOf c = .active) : (s.wcc.get c).state = .running
    ∧ (s.role c = .production → s.capBelowMin c = false) := by
  unfold State.classOf at h
  cases hs : (s.wcc.get c).state <;> rw [hs] at h <;> simp only at h <;> try cases h
  refine ⟨rfl, fun hp => ?_⟩
  split at h
  · cases h
  · rename_i hh; cases hb : s.capBelowMin c
    · rfl
    · exact absurd ⟨hp, hb⟩ hh

/-- The ACTIVE wells of a role are legal members while wells and settings are legal. -/
theorem members_legal (s : State) (r) (hw : s.wellsLegal) (ho : s.ssl.settings.inOrder) :
    MembersLegal (s.members r) := by
  unfold State.members
  refine ⟨?_, ?_, ?_⟩
  · rw [List.map_map]
    have : (Member.well ∘ fun c => (⟨c, (s.wcc.get c).weight, s.wellSet c .minFlow,
        s.upperOf c⟩ : Member)) = id := rfl
    rw [this, List.map_id]
    exact (List.nodup_finRange 16).filter _
  · intro m hm; rw [List.mem_map] at hm; obtain ⟨c, hc, rfl⟩ := hm
    exact (hw c).2.2.2.1
  · intro m hm; rw [List.mem_map] at hm; obtain ⟨c, hc, rfl⟩ := hm
    have hcc := of_decide_eq_true (List.mem_filter.1 hc).2
    have ha := classOf_active hcc.2
    unfold headroom State.upperOf; simp only
    have hmm : s.wellSet c .minFlow ≤ s.wellSet c .maxFlow := (ho.1 c).2
    split
    · rename_i v h1 h2
      have := ha.2 h1
      unfold State.capBelowMin at this; rw [h2] at this
      have := of_decide_eq_false this
      omega
    · omega

theorem mem_wellsOf (s : State) (r k c) : c ∈ s.wellsOf r k ↔ s.role c = r ∧ s.classOf c = k := by
  unfold State.wellsOf; rw [List.mem_filter]; simp [wells]

/-- What the passes give a well over its MIN_FLOW, 0 when there is nothing to share. -/
def giftOf (s : State) (r : Role) (amount fixed : Int) : WellNo → Int := fun c =>
    if amount - fixed - minSum (s.members r) < 0 then 0 else givenTo (passes (s.members r).length
    (amount - fixed - minSum (s.members r)) (s.members r)) c

theorem activeTargets_eq (s : State) (r a f) : activeTargets a f (s.members r) = (s.wellsOf r
    .active).map fun c => (c, s.wellSet c .minFlow + giftOf s r a f c) := by
  unfold activeTargets; simp only
  unfold giftOf
  split
  · unfold State.members; rw [List.map_map]; simp [Function.comp]
  · unfold State.members; rw [List.map_map]; rfl

/-- The target of a well of a role (R131, R132). -/
theorem roleTargets_lookup (s : State) (r a f c) : (s.roleTargets r a f).lookup c = if s.role c = r
    ∧ s.classOf c = .active then some (s.wellSet c .minFlow + giftOf s r a f c) else if s.role c = r
    ∧ s.classOf c = .starting then some (s.wellSet c .minFlow) else none := by
  unfold State.roleTargets State.startingTargets
  rw [List.lookup_append, activeTargets_eq, lookup_map, lookup_map]
  simp only [mem_wellsOf]
  by_cases h : s.role c = r ∧ s.classOf c = .active
  · rw [if_pos h, if_pos h]; rfl
  · rw [if_neg h, if_neg h]; rfl

theorem roleTargets_sum (s : State) (r a f) : targetSum (s.roleTargets r a f) = overWells fun c =>
    if s.role c = r then ((s.roleTargets r a f).lookup c).getD 0 else 0 := by
  have e : ∀ c, (if s.role c = r then ((s.roleTargets r a f).lookup c).getD 0 else 0) = (if decide
      (s.role c = r ∧ s.classOf c = .active) = true then s.wellSet c .minFlow + giftOf s r a f c
      else 0) + (if decide (s.role c = r ∧ s.classOf c = .starting) = true then s.wellSet c .minFlow
      else 0) := by
    intro c; rw [roleTargets_lookup]
    simp only [decide_eq_true_eq]
    by_cases h : s.role c = r
    · simp only [h, true_and, if_true]
      cases hc : s.classOf c <;> simp
    · simp [h]
  unfold overWells
  rw [List.map_congr_left (fun c _ => e c), List.sum_map_add, ← sum_filter, ← sum_filter]
  unfold State.roleTargets State.startingTargets targetSum
  rw [activeTargets_eq, List.map_append, List.sum_append, List.map_map, List.map_map]
  rfl

theorem giftOf_shared (s : State) (r a f) (hw : s.wellsLegal) (ho : s.ssl.settings.inOrder) : (a - f
    - minSum (s.members r) < 0 → giftOf s r a f = fun _ => 0) ∧ (0 ≤ a - f - minSum (s.members r) →
    SharedOut (a - f - minSum (s.members r)) (s.members r) (giftOf s r a f)) := by
  refine ⟨fun h => by funext c; unfold giftOf; rw [if_pos h], fun h => ?_⟩
  refine sharedOut_congr (passes_shared _ _ _ (le_refl _) h (members_legal s r hw ho)) _ ?_
  intro m _; unfold giftOf; rw [if_neg (by omega)]

/-- An allocation (R129 to R134). -/
theorem allocate_allocates (s : State) (hw : s.wellsLegal) (ho : s.ssl.settings.inOrder) : Allocates
    s s.allocate := by
  have hst : ∀ r, s.startingFlow r = overWells fun c => if s.role c = r ∧
      s.classOf c = .starting then s.wellSet c .minFlow else 0 := by
    intro r; unfold State.startingFlow State.wellsOf overWells; rw [sum_filter];
        simp only [decide_eq_true_eq]
  have hh : s.heldFlow = overWells (fun c => if s.role c = .production ∧
      s.classOf c = .heldLow then (s.wcc.get c).demand else 0) := by
    unfold State.heldFlow State.wellsOf overWells; rw [sum_filter]; simp only [decide_eq_true_eq]
  have htp : ∀ c, s.role c = .production → s.plan.targetOf c = s.plan.production.lookup c := by
    intro c hc; unfold Plan.targetOf
    cases h : s.plan.production.lookup c with
    | some t => rfl
    | none =>
      simp only
      have : s.plan.reinjection = s.roleTargets .reinjection s.plan.request (s.startingFlow
          .reinjection) := rfl
      rw [this, roleTargets_lookup]; simp [hc]
  have htr : ∀ c, s.role c ≠ .production → s.plan.targetOf c = s.plan.reinjection.lookup c := by
    intro c hc; unfold Plan.targetOf
    have : s.plan.production = s.roleTargets .production s.bbu.ceiling (s.startingFlow .production +
        s.heldFlow) := rfl
    rw [this, roleTargets_lookup]; simp [hc]
  have hceil : ∀ x : Int, ceilDiv (x * (1000 - s.balSet .steamFraction)) 1000 = (x * (1000 -
      s.balSet .steamFraction) + 999) / 1000 := by
    intro x; unfold ceilDiv; congr 1; omega
  have hpp : s.plan.production = s.roleTargets .production s.bbu.ceiling (s.startingFlow .production
      + s.heldFlow) := rfl
  have hpr : s.plan.reinjection = s.roleTargets .reinjection s.plan.request (s.startingFlow
      .reinjection) := rfl
  refine ⟨s.classOf, s.upperOf, s.members, fun r => minSum (s.members r), s.startingFlow, fun r =>
      if r = .production then giftOf s .production s.bbu.ceiling (s.startingFlow .production +
      s.heldFlow) else if r = .reinjection then giftOf s .reinjection s.plan.request (s.startingFlow
      .reinjection) else giftOf s r s.plan.request (s.startingFlow r), s.plan.targetOf, s.heldFlow,
      s.plan.flow, s.plan.minBrine, s.plan.request, classOf_classes s, ?_, fun r => rfl, fun r =>
      rfl, hst, hh, ?_, ?_, ?_, hceil _, hceil _, ?_⟩
  · intro c; unfold State.upperOf
    refine ⟨fun h => ?_, fun v h1 h2 => by rw [h1, h2]⟩
    rcases h with h | h
    · cases hr : s.role c with
      | production => exact absurd hr h
      | reinjection => rfl
      | unused => rfl
    · rw [h]; cases s.role c <;> rfl
  · intro r x hx
    cases r with
    | production => simp only [if_true] at hx ⊢; rw [hx]; exact giftOf_shared s _ _ _ hw ho
    | reinjection =>
      rw [if_neg (by decide)] at hx; simp only [reduceCtorEq, if_false]; rw [hx];
          exact giftOf_shared s _ _ _ hw ho
    | unused =>
      rw [if_neg (by decide)] at hx; simp only [reduceCtorEq, if_false]; rw [hx];
          exact giftOf_shared s _ _ _ hw ho
  · intro c
    cases hr : s.role c with
    | production =>
      rw [htp c hr, hpp, roleTargets_lookup]; simp only [hr, true_and, if_true]
      refine ⟨fun h => ?_, fun _ h => by rw [h]; simp, fun _ h => by rw [h]; simp⟩
      rcases h with h | h | h
      · cases h
      · rw [h]; simp
      · rw [h]; simp
    | reinjection =>
      rw [htr c (by rw [hr]; decide), hpr, roleTargets_lookup]; simp only [hr, true_and, if_true,
          reduceCtorEq, if_false]
      refine ⟨fun h => ?_, fun _ h => by rw [h]; simp, fun _ h => by rw [h]; simp⟩
      rcases h with h | h | h
      · cases h
      · rw [h]; simp
      · rw [h]; simp
    | unused =>
      rw [htr c (by rw [hr]; decide), hpr, roleTargets_lookup]; simp [hr]
  · show targetSum s.plan.production + s.heldFlow = _
    rw [hpp, roleTargets_sum, add_comm]; congr 1
    unfold overWells; congr 1; apply List.map_congr_left; intro c _
    by_cases h : s.role c = .production
    · rw [if_pos h, if_pos h, htp c h, hpp]
    · rw [if_neg h, if_neg h]
  · have he : s.targetEvents s.plan = wells.flatMap fun c =>
          if (s.plan.targetOf c).isSome ∨ s.role c = .production ∧ s.classOf c = .heldLow then
            [Instr.wccTarget c (s.plan.targetOf c)] else [] := by
      unfold State.targetEvents; congr 1; funext c
      cases s.plan.targetOf c with
      | some t => simp
      | none => simp only [Option.isSome_none, Bool.false_eq_true, false_or]
    unfold State.allocate; simp only
    rw [he]; unfold State.brineEvents State.planned State.hand State.rowOf;
        simp only [List.append_assoc]

/-- The ceiling computed anew, and the allocation that follows (R126). -/
theorem ceilingAnew_recomputes (s : State) (hw : s.wellsLegal) (ho : s.ssl.settings.inOrder) :
    RecomputesCeiling s s.ceilingAnew := by
  refine ⟨_, _, s.withCeiling.ceiling, rfl, rfl, fun h => ?_, fun v h => ?_,
      allocate_allocates { s with bbu := s.withCeiling } hw ho⟩
  · unfold State.withCeiling; simp only [h]; rfl
  · unfold State.withCeiling; simp only [h]; rfl

/-- The requirement (R124). -/
theorem requirement_requires (s : State) : s.requires s.requirement := by
  unfold State.requires State.requirement
  cases s.bbu.mode <;> cases s.bbu.afterTrip <;> simp [ceilDiv]

/-- T_req reckoned, with FAST_DOWN (R124, R125). -/
theorem reckon_reckons (s : State) : Reckons s s.reckon := by
  refine ⟨s.requirement, requirement_requires s, fun h => ?_, fun h h2 => ?_⟩
  · unfold State.reckon; simp only
    by_cases he : s.requirement = s.bbu.tReq
    · rw [if_pos he]
    · rw [if_neg he]; unfold State.testFastDown; rw [if_neg]
      intro hh; have hh : s.productionDemand ≤ s.requirement := hh
      rcases h with h | h
      · exact he h
      · omega
  · unfold State.reckon; simp only; rw [if_neg h]; unfold State.testFastDown;
        rw [if_pos (by exact h2)]

end Sys2Proof.Laws
end

