-- ==== Sys2Proof/Laws/Exchanger.lean ====
section
/-! SUPPORT. What the operations of the Heat Exchange Controller can do (chapter 4). -/

namespace Sys2Proof.Laws

open Sys2Proof.Machine

/-- A bypass demand taken into the record and issued when it changes (R62). -/
theorem issueBypass_eq (s : State) (b : Int) : s.issueBypass b =
    { s with
      hxc := { s.hxc with bypass := b }
      handed := s.handed ++ (if s.hxc.bypass ≠ b ∧ (s.entryOfKind .exchanger).isSome then
        [.setPlaced (.exchanger b)] else []) } := by
  unfold State.issueBypass
  have : ({ s with hxc := { s.hxc with bypass := b } } : State).entryOfKind .exchanger =
      s.entryOfKind .exchanger := rfl
  by_cases h : s.hxc.bypass ≠ b ∧ (s.entryOfKind .exchanger).isSome
  · simp only; rw [if_pos h, if_pos ⟨Ne.symm h.1, by exact h.2⟩]; rfl
  · simp only; rw [if_neg h, if_neg (fun hh => h ⟨Ne.symm hh.1, by exact hh.2⟩)]; simp

/-- A change of mode other than into ISOLATED. -/
theorem setMode_eq (s : State) (m : HxMode) (hm : m ≠ .isolated) : s.setMode m =
    { s.noticed .exchanger (.exchanger s.hxc.mode) (.exchanger m) none with
      hxc := { s.hxc with mode := m }
      handed := s.handed ++ changed .exchanger (.exchanger s.hxc.mode) (.exchanger m) } := by
  unfold State.setMode State.noticed changed
  by_cases h : s.hxc.mode = m
  · subst h; simp
  · have : ¬ (TargetState.exchanger s.hxc.mode = TargetState.exchanger m) := by simpa using h
    rw [if_neg h, if_neg this, if_neg this, if_neg hm]; rfl

/-- A change of mode into ISOLATED, which sequences take as a trip. -/
theorem setMode_isolated (s : State) (h : s.hxc.mode ≠ .isolated) : s.setMode .isolated =
    { s.notify [.state .exchanger (.exchanger s.hxc.mode) (.exchanger .isolated) none] with
      hxc := { s.hxc with mode := .isolated }
      handed := s.handed ++ [.sqrTargetTripStop .exchanger .trip (.cause none),
        .sqrStateChange .exchanger (.exchanger s.hxc.mode, .exchanger .isolated) none] } := by
  unfold State.setMode; rw [if_neg h, if_pos rfl]; rfl

/-- The end of a floor breach. -/
theorem endBreach_eq (s : State) : s.endBreach =
    { s with
      hxc := { s.hxc with breachRun := 0, breach := false }
      handed := s.handed ++ (if s.hxc.breach then [.alarmClear .floorBreach .exchanger] else []) } := rfl

/-- The floor check without an outlet temperature. -/
theorem floorCheck_none (z : State) (d) : z.floorCheck none d = (z.hxc.mode, max d 0) := rfl

/-- The floor check of an outlet temperature in the heating modes (R61). -/
theorem floorCheck_some (z : State) (x d level : Int) (hl : level = z.scm.floor.inUse + z.hxSet
    .deadband) (hm : z.hxc.mode = .heating ∨ z.hxc.mode = .heatLimited) :
   (x < level → z.floorCheck (some x) d = (.heatLimited, max d (z.hxSet .floorStep))) ∧
   (level ≤ x → x < level + z.hxSet .hyst → z.hxc.mode = .heatLimited →
       z.floorCheck (some x) d = (.heatLimited, max d 0)) ∧
   (level ≤ x → level + z.hxSet .hyst ≤ x ∨ z.hxc.mode = .heating →
       z.floorCheck (some x) d = (.heating, d)) := by
  subst hl
  refine ⟨fun h => ?_, fun h1 h2 h3 => ?_, fun h1 h2 => ?_⟩
  · unfold State.floorCheck; simp only; rw [if_pos h]
  · unfold State.floorCheck; simp only; rw [if_neg (by omega), if_pos ⟨h3, h2⟩]
  · unfold State.floorCheck; simp only; rw [if_neg (by omega), if_neg]
    rintro ⟨a, b⟩; rcases h2 with h | h; omega; rw [a] at h; cases h

/-- A cause of isolation joining the set (R63). -/
theorem addCause_isolates (s : State) (k : IsoCause) : ∃ l, Isolates k s (s.addCause k) l ∧
    (s.addCause k).handed = s.handed ++ l := by
  unfold State.addCause
  by_cases h : s.hxc.causes.has k = true
  · rw [if_pos h]
    refine ⟨[], ⟨fun _ => ⟨?_, rfl, rfl⟩, fun h2 => by rw [h] at h2; cases h2⟩, by simp⟩
    have : s.hxc.causes.put true k = s.hxc.causes := by
      revert h; cases s.hxc.causes; cases k <;> simp [Causes.has, Causes.put]
    rw [this]
  · rw [if_neg h]; simp only
    by_cases hm : s.hxc.mode = .isolated
    · rw [if_pos hm]
      exact ⟨[], ⟨fun _ => ⟨rfl, rfl, rfl⟩, fun _ h2 => absurd hm h2⟩, by simp⟩
    · rw [if_neg hm]
      unfold State.isolate
      rw [issueBypass_eq, endBreach_eq]
      rw [setMode_isolated _ (by exact hm)]
      refine ⟨_, ⟨fun h2 => ?_, fun _ _ => ⟨rfl, rfl, rfl⟩⟩, ?_⟩
      · rcases h2 with h2 | h2; exact absurd h2 h; exact absurd h2 hm
      · simp only [State.hand, List.append_assoc, List.cons_append, List.nil_append]
        cases k <;> rfl

end Sys2Proof.Laws
end

