-- ==== Sys2Proof/Laws/Wells.lean ====
section
/-! SUPPORT. What the operations of the Well Channel Controller can do (chapter 5). -/

namespace Sys2Proof.Laws

open Sys2Proof.Machine

/-- A record written twice. -/
theorem set_set {α n} (b : Bank α n) (i) (x y : α) : (b.set i x).set i y = b.set i y := by
  apply Bank.ext_get; intro j
  by_cases h : i = j
  · subst h; rw [Bank.get_set_self, Bank.get_set_self]
  · rw [Bank.get_set_ne _ _ h, Bank.get_set_ne _ _ h, Bank.get_set_ne _ _ h]

/-- A change of state of a well: its notice and the events handed (R95). -/
theorem wellChanged_eq (s : State) (c old new k) (h : old ≠ new) : s.wellChanged c old new k =
    { s with
      svp := (s.notify [.state (.well c) (.well old) (.well new) (k.map wellCauseCode)]).svp
      handed := s.handed ++ wellEvents c old new k } := by
  unfold State.wellChanged; rw [if_neg h]; rfl

/-- The events of a change of state that is no trip, one to each taker. -/
theorem wellEvents_moves (c old new) (h : isWellTrip new = false) :
    wellEvents c old new none = wellMoves c old new := by
  unfold wellEvents wellMoves; rw [h]; rfl

/-- The events of a change of state that is a trip, with its cause. -/
theorem wellEvents_trip (c old new k) (h : isWellTrip new = true) :
    wellEvents c old new (some k) = [.bbuWellState c (old, new) (some k), .tbcWellState c (old, new) (some k),
      .scmWellState c (old, new) (some k), .sqrTargetTripStop (.well c) .trip (.cause (some (.well k))),
      .sqrStateChange (.well c) (.well old, .well new) (some (.well k))] := by
  unfold wellEvents; rw [h]; rfl

/-- A trip leads to LOCKED_OUT or to TRIPPED. -/
theorem tripState_cases (s : State) (c) : s.tripState c = .lockedOut ∨ s.tripState c = .tripped :=
    by unfold State.tripState; split <;> simp

/-- A trip of a well, step by step (R89). -/
theorem tripWell_trips (s : State) (c k) (h : tripsNow (s.wcc.get c).state = true) : ∃ l,
    WellTrips c k s (s.tripWell c k) l ∧ (s.tripWell c k).handed = s.handed ++ l := by
  have hn : isWellTrip (s.tripState c) = true :=
      by rcases tripState_cases s c with h | h <;> rw [h] <;> rfl
  have hne : (s.wcc.get c).state ≠ s.tripState c := by
    intro e; rw [e] at h; rcases tripState_cases s c with h2 | h2 <;> rw [h2] at h <;> cases h
  unfold State.tripWell
  simp only
  rw [wellChanged_eq _ _ _ _ _ hne]
  refine ⟨_, ⟨s.wcc.get c, _, _, s.tripState c, _, rfl, rfl, rfl, ?_, rfl, ?_, ?_, rfl⟩, ?_⟩
  · unfold State.tripState State.lockoutTrips withinWindow pushTime Config.historyCapacity
    simp only [List.length_append, List.length_cons, List.length_nil, Nat.zero_add]
  · show ((s.wcc.set c (s.trippedWell c k)).set c _) = _
    rw [set_set]
    simp only [State.setWell, State.hand, Bank.get_set_self]
    unfold State.trippedWell pushTime Config.historyCapacity Well.noRuns seconds
    simp only [List.length_append, List.length_cons, List.length_nil, Nat.zero_add]
  · show (State.notify _ _).svp = _
    cases k <;> rfl
  · simp only [State.hand, State.placeWellTrip, State.issueDemand, State.setWell, List.append_assoc]
    show s.handed ++ (_ ++ (_ ++ (_ ++ (_ ++ (_ ++ wellEvents c _ _ _))))) = _
    rw [wellEvents_trip _ _ _ _ hn]
    unfold State.lockoutTrips withinWindow pushTime Config.historyCapacity
    simp only [List.append_assoc, List.length_append, List.length_cons, List.length_nil,
        Nat.zero_add]
    cases k <;> rfl

/-- A demand taken into the record and issued. -/
theorem issueDemand_eq (s : State) (c d) : s.issueDemand c d =
    { s with
      wcc := s.wcc.set c { s.wcc.get c with demand := d }
      handed := s.handed ++ ((if (s.entryOfWell c).isSome then [Instr.setPlaced (.well c d)] else [])
      ++ [.bbuWellDemand c, .tbcWellDemand c]) } := rfl

/-- The trip evaluation of a station reply (R88). -/
theorem decideReply_decides (m : State) (c) : ∃ ld, ReplyDecides c m (m.decideReply c) ld ∧
    (m.decideReply c).handed = m.handed ++ ld := by
  have hsplit : ∃ ld, (m.decideReply c = m ∧ ld = [] ∧ ((m.wcc.get c).state ≠ .starting ∧
      (m.wcc.get c).state ≠ .running ∨ m.role c = .unused ∨ m.replyCause c = none)) ∨ ∃ k,
      (((m.wcc.get c).state = .starting ∨ (m.wcc.get c).state = .running) ∧ m.role c ≠ .unused ∧
      m.replyCause c = some k ∧ WellTrips c k m (m.decideReply c) ld ∧
      (m.decideReply c).handed = m.handed ++ ld) := by
    unfold State.decideReply; simp only
    by_cases h : ((m.wcc.get c).state = .starting ∨ (m.wcc.get c).state = .running) ∧
        m.role c ≠ .unused
    · rw [if_pos h]
      cases hk : m.replyCause c with
      | none => exact ⟨[], .inl ⟨rfl, rfl, .inr (.inr rfl)⟩⟩
      | some k =>
        have ht : tripsNow (m.wcc.get c).state = true := by rcases h.1 with h | h <;> rw [h] <;> rfl
        obtain ⟨l, h1, h2⟩ := tripWell_trips m c k ht
        exact ⟨l, .inr ⟨k, h.1, h.2, rfl, h1, h2⟩⟩
    · rw [if_neg h]
      refine ⟨[], .inl ⟨rfl, rfl, ?_⟩⟩
      by_cases h1 : m.role c = .unused
      · exact .inr (.inl h1)
      · refine .inl ⟨fun hh => h ⟨.inl hh, h1⟩, fun hh => h ⟨.inr hh, h1⟩⟩
  have hcause : ∀ (fault oc flash dry : Prop), 
    (fault ↔ (m.wcc.get c).fault = some true ∨ (m.wcc.get c).run = some false ∧
        (m.wcc.get c).state = .running)
    → (oc ↔ m.wellSet c .tripPersist ≤ (m.wcc.get c).ocRun) → (flash ↔ m.role c = .production ∧
        m.wellSet c .tripPersist ≤ (m.wcc.get c).flashRun)
    → (dry ↔ m.role c = .production ∧ (m.wcc.get c).state = .running ∧
        m.wellSet c .tripPersist ≤ (m.wcc.get c).dryRun) →
    (m.replyCause c = none ↔ ¬fault ∧ ¬oc ∧ ¬flash ∧ ¬dry) ∧ (fault →
        m.replyCause c = some .driveFault) ∧ (¬ fault → oc → m.replyCause c = some .overcurrent) ∧
        (¬ fault → ¬ oc → flash → m.replyCause c = some .flash) ∧ (¬ fault → ¬ oc → ¬ flash → dry →
        m.replyCause c = some .dryRun) := by
    intro fault oc flash dry h1 h2 h3 h4
    have e1 : driveFault (m.wcc.get c) = true ↔ fault := by rw [h1]; simp [driveFault]
    have e2 : reaches (m.wcc.get c).ocRun (m.wellSet c .tripPersist) = true ↔ oc :=
        by rw [h2]; simp [reaches]
    have e3 : (decide (m.role c = .production) && reaches (m.wcc.get c).flashRun (m.wellSet c
        .tripPersist)) = true ↔ flash := by rw [h3]; simp [reaches]
    have e4 : (decide (m.role c = .production) && decide ((m.wcc.get c).state = .running) && reaches
        (m.wcc.get c).dryRun (m.wellSet c .tripPersist)) = true ↔ dry :=
        by rw [h4]; simp [reaches, and_assoc]
    have hif : ∀ (b : Bool) (P : Prop) (x y : Option WellCause), (b = true ↔ P) →
        (P → (if b = true then x else y) = x) ∧ (¬ P → (if b = true then x else y) = y) := by
      intro b P x y hb; exact ⟨fun hp => if_pos (hb.2 hp), fun hp => if_neg (fun h => hp (hb.1 h))⟩
    unfold State.replyCause; simp only
    have f1 := fun x y => hif _ _ x y e1
    have f2 := fun x y => hif _ _ x y e2
    have f3 := fun x y => hif _ _ x y e3
    have f4 := fun x y => hif _ _ x y e4
    by_cases h1 : fault
    · simp only [(f1 _ _).1 h1, h1]; simp
    simp only [(f1 _ _).2 h1, h1]
    by_cases h2 : oc
    · simp only [(f2 _ _).1 h2, h2]; simp
    simp only [(f2 _ _).2 h2, h2]
    by_cases h3 : flash
    · simp only [(f3 _ _).1 h3, h3]; simp
    simp only [(f3 _ _).2 h3, h3]
    by_cases h4 : dry
    · simp only [(f4 _ _).1 h4, h4]; simp
    simp only [(f4 _ _).2 h4, h4]; simp
  obtain ⟨ld, h | ⟨k, ha, hb, hk, hW, hh⟩⟩ := hsplit
  · refine ⟨ld, ⟨m.wcc.get c, _, _, _, _, _, rfl, rfl, Iff.rfl, Iff.rfl, Iff.rfl, Iff.rfl, fun _ =>
        ⟨h.1, h.2.1⟩, fun h1 h2 => ?_⟩, by rw [h.1, h.2.1]; simp⟩
    obtain ⟨a, b, c', d, e⟩ := hcause _ _ _ _ Iff.rfl Iff.rfl Iff.rfl Iff.rfl
    have hn : m.replyCause c = none := by
      rcases h.2.2 with h3 | h3 | h3
      · rcases h1 with h1 | h1; exact absurd h1 h3.1; exact absurd h1 h3.2
      · exact absurd h3 h2
      · exact h3
    refine ⟨fun x => ?_, fun x y => ?_, fun x y z => ?_, fun x y z w => ?_⟩
    · rw [b x] at hn; cases hn
    · rw [c' x y] at hn; cases hn
    · rw [d x y z] at hn; cases hn
    · rw [e x y z w] at hn; cases hn
  · refine ⟨ld, ⟨m.wcc.get c, _, _, _, _, _, rfl, rfl, Iff.rfl, Iff.rfl, Iff.rfl, Iff.rfl, fun h =>
        ?_, fun h1 h2 => ?_⟩, hh⟩
    all_goals obtain ⟨a, b, c', d, e⟩ := hcause _ _ _ _ Iff.rfl Iff.rfl Iff.rfl Iff.rfl
    · rcases h with h | h | h
      · rcases ha with ha | ha; exact absurd ha h.1; exact absurd ha h.2
      · exact absurd h hb
      · rw [a.2 h] at hk; cases hk
    · refine ⟨fun x => ?_, fun x y => ?_, fun x y z => ?_, fun x y z w => ?_⟩
      · rw [b x] at hk; cases hk; exact hW
      · rw [c' x y] at hk; cases hk; exact hW
      · rw [d x y z] at hk; cases hk; exact hW
      · rw [e x y z w] at hk; cases hk; exact hW

end Sys2Proof.Laws
end

