-- ==== Sys2Proof/Laws/FieldLink.lean ====
section
/-! SUPPORT. What the operations of the Field Link Controller can do (chapter 8). -/

namespace Sys2Proof.Laws

open Sys2Proof.Machine

/-- A record changed by a function. -/
theorem modify_eq {α n} (b : Bank α n) (i) (f : α → α) : b.modify i f = b.set i (f (b.get i)) := by
  apply Bank.ext_get; intro j
  by_cases h : i = j
  · subst h; rw [Bank.get_modify_self, Bank.get_set_self]
  · rw [Bank.get_modify_ne _ _ h, Bank.get_set_ne _ _ h]

/-- The TRIP queue with one more send counted. -/
theorem trip_map (l : List TripEntry) (e) : (l.map fun (x : TripEntry) =>
    if x.entry = e then { x with sends := x.sends + 1 } else x) = l.map fun y => ⟨y.entry,
    if y.entry = e then y.sends + 1 else y.sends⟩ := by
  apply List.map_congr_left; intro x _; split <;> rfl

/-- The arbiter (R139 to R141). -/
theorem arbitrate_arbitrates (s : State) : Arbitrates s s.arbitrate := by
  refine ⟨fun h => ?_, fun h trip set fits ht hs hf => ?_⟩
  · unfold State.arbitrate; rw [if_pos h]
  have e0 : s.arbitrate =
      (match s.nextTrip with | some x => s.startTrip x.entry | none => s.chooseWithin) := by
    unfold State.arbitrate; rw [if_neg (by rw [h]; decide)] <;> rfl
  have e1 : s.nextTrip = trip := by rw [ht]; rfl
  have e2 : s.nextSet = set := by rw [hs]; rfl
  rw [e0, e1]
  refine ⟨fun x hx => ?_, fun h1 h2 => ?_, fun x h1 h2 h3 h4 => ?_, fun e rest h1 h2 h3 h4 => ?_⟩
  · rw [hx]; simp only; unfold State.startTrip State.startExchange; simp only; rw [trip_map]; rfl
  · rw [h1]; simp only; unfold State.chooseWithin
    rcases h2 with h2 | ⟨h2, h3⟩
    · rw [if_neg (fun hh => h2 (hf.2 hh))]
    · split
      · rw [e2, h2]; simp only; unfold State.choosePoll; rw [h3]; simp only; rw [e2, h2]
      · rfl
  · rw [h1]; simp only; unfold State.chooseWithin; rw [if_pos (hf.1 h2), e2, h3]; simp only
    have key : s.startSet x = { s with flc := { s.flc with
        setQ := s.flc.setQ.map fun y =>
          if y.entry = x.entry then { y with inFlight := true, replaced := false } else y
        started := s.flc.started + 1, burst := 0
        flight := some (s.flightTo .set x.entry (setBody x.order)) } } := rfl
    by_cases hb : s.fieldSet .pollBurst ≤ s.flc.burst
    · rw [if_pos hb, key]
    · rw [if_neg hb]; rcases h4 with h4 | h4
      · exact absurd h4 hb
      · have hc : s.choosePoll = s.startSet x :=
            by unfold State.choosePoll; rw [h4]; simp only; rw [e2, h3]
        rw [hc, key]
  · rw [h1]; simp only; unfold State.chooseWithin; rw [if_pos (hf.1 h2), e2]
    have key : s.choosePoll = { s with flc := { s.flc with
        pollList := rest, started := s.flc.started + 1, burst := s.flc.burst + 1
        flight := some (s.flightTo .poll e []) } } := by
      unfold State.choosePoll; rw [h3]; rfl
    cases set with
    | none => simp only; exact key
    | some x =>
      simp only; rw [if_neg]; · exact key
      rcases h4 with h4 | h4
      · cases h4
      · omega

theorem linkLostEvents_eq (st : Station) : linkLostEvents st = ownerOf st := by
  unfold linkLostEvents ownerOf; cases st.kind <;> simp

/-- The retirement of a station (R137). -/
theorem retire_retires (s : State) (e old) : Retires e old s (s.retire e old) := by
  unfold Retires State.retire; simp only
  rw [linkLostEvents_eq]; unfold State.setStation newStation; rw [modify_eq]
  simp only [State.hand, List.append_assoc, decide_eq_true_eq]; rfl

/-- A SET placed for a station that has none waiting (R140). -/
theorem placeSet_new (e o) : ∀ l : List SetEntry, (∀ x ∈ l, x.entry ≠ e) → placeSet e o l = l ++
    [⟨e, o, false, false⟩] := by
  intro l; induction l with
  | nil => intro _; rfl
  | cons x l ih =>
    intro h; unfold placeSet; rw [if_neg (h x (by simp)), ih (fun y hy => h y (by simp [hy]))]; rfl

/-- A SET placed for a station that has one waiting (R140). -/
theorem placeSet_again (e o) : ∀ (before : List SetEntry) x after, x.entry = e → (∀ y ∈ before,
    y.entry ≠ e) → placeSet e o (before ++ x :: after) = before ++
    { x with order := o, replaced := x.inFlight } :: after := by
  intro l; induction l with
  | nil => intro x a h _; show placeSet e o (x :: a) = _; unfold placeSet; rw [if_pos h]; rfl
  | cons x l ih =>
    intro y a h h2; show placeSet e o (x :: (l ++ y :: a)) = _; unfold placeSet;
        rw [if_neg (h2 x (by simp)), ih y a h (fun z hz => h2 z (by simp [hz]))]; rfl

/-- A TRIP placed for a station that has none waiting (R141). -/
theorem placeTrip_new (e) : ∀ l : List TripEntry, (∀ x ∈ l, x.entry ≠ e) → placeTrip e l = l ++
    [⟨e, 0⟩] := by
  intro l; induction l with
  | nil => intro _; rfl
  | cons x l ih =>
    intro h; unfold placeTrip; rw [if_neg (h x (by simp)), ih (fun y hy => h y (by simp [hy]))]; rfl

/-- A TRIP placed for a station that has one waiting (R141). -/
theorem placeTrip_again (e) : ∀ (before : List TripEntry) x after, x.entry = e → (∀ y ∈ before,
    y.entry ≠ e) → placeTrip e (before ++ x :: after) = before ++ ⟨e, 0⟩ :: after := by
  intro l; induction l with
  | nil =>
    intro x a h _; show placeTrip e (x :: a) = _; unfold placeTrip; rw [if_pos h]; subst h; rfl
  | cons x l ih =>
    intro y a h h2; show placeTrip e (x :: (l ++ y :: a)) = _; unfold placeTrip;
        rw [if_neg (h2 x (by simp)), ih y a h (fun z hz => h2 z (by simp [hz]))]; rfl

/-- Old stations retired one after another (R137). -/
theorem retireAll_retires : ∀ (l : List (EntryNo × Station)) (s : State), RetiresAll l s (s.retireAll l)
  | [], _ => rfl
  | x :: l, s => ⟨s.retire x.1 x.2, retire_retires _ _ _, retireAll_retires l _⟩

/-- A retirement that comes while an exchange with the entry is in flight waits (R137). -/
theorem retireStation_waits (s : State) (e old) (h : s.inFlightWith e = true) : s.retireStation e old =
    { s with flc := { s.flc with retiring := s.flc.retiring ++ [(e, old)] } } := by
  unfold State.retireStation; rw [if_pos h]

/-- A retirement that comes otherwise is taken at once (R137). -/
theorem retireStation_retires (s : State) (e old) (h : s.inFlightWith e = false) :
    Retires e old s (s.retireStation e old) := by
  unfold State.retireStation; rw [h]; exact retire_retires s e old

/-- The retirements that waited for the exchange that ended (R137). -/
theorem retireWaiting_retires {s z : State} (h : z.flc.retiring = s.flc.retiring) (e) :
    RetiresAll (s.flc.retiring.filter fun x => decide (x.1 = e))
      { z with flc := { z.flc with retiring := s.flc.retiring.filter fun x => decide (x.1 ≠ e) } }
      (z.retireWaiting e) := by
  unfold State.retireWaiting; rw [h]; exact retireAll_retires _ _

theorem rearm_filter (l : List TripEntry) (e : EntryNo) (p : TripEntry →
    Prop) [DecidablePred p] : (l.map fun x => if x.entry = e ∧
    p x then { x with sends := 0 } else x).filter (fun x => decide (x.entry ≠ e)) = l.filter fun x
    => decide (x.entry ≠ e) := by
  induction l with
  | nil => rfl
  | cons x l ih =>
    simp only [List.map_cons, List.filter_cons]
    by_cases h : x.entry = e
    · have : (if x.entry = e ∧ p x then ({ x with sends := 0 } : TripEntry) else x).entry = e :=
          by split <;> exact h
      rw [if_neg (by simp [this]), if_neg (by simp [h]), ih]
    · have h2 : (if x.entry = e ∧ p x then ({ x with sends := 0 } : TripEntry) else x) = x :=
          if_neg (fun hh => h hh.1)
      rw [h2, if_pos (by simp [h]), if_pos (by simp [h]), ih]

theorem statusEvents_eq (st : Station) (l e) : statusEvents st l e = statusOf st l e := by
  unfold statusEvents statusOf entryOf; cases st.kind <;> simp

/-- The end of an exchange by its outcome (R143 to R145). -/
theorem endExchange_ends (s : State) (f : Flight) (o values extra) : ExchangeEnds f o values extra s
    (s.endExchange f o values extra) := by
  let t0 : State := { s with flc := { s.flc with flight := none } }.hand [.counterIncrement
      [.exchanges f.entry, .outcomes f.entry o]]
  let m : State := if o = .good then t0.exchangeGood f values extra else t0.exchangeFailed f o
  have hret : m.flc.retiring = s.flc.retiring := by
    show (if o = .good then _ else _ : State).flc.retiring = _
    split
    · unfold State.exchangeGood State.goodQueues; simp only; cases f.exchange <;> rfl
    · unfold State.exchangeFailed; simp only; cases f.exchange <;> simp only <;> split <;> rfl
  refine ⟨m, m.retireWaiting f.entry, s.flc.stations.get f.entry, _, fun x =>
      decide (x.entry = f.entry), _, _, rfl, rfl, fun x => decide_eq_true_iff, rfl, Iff.rfl,
      fun ho => ?_, fun ho => ?_, retireWaiting_retires hret f.entry, arbitrate_arbitrates _⟩
  · subst ho
    have hm : m = t0.exchangeGood f values extra := rfl
    rw [hm]; unfold State.exchangeGood State.goodQueues; simp only
    have ht0 : t0.handed = s.handed ++ [.counterIncrement [.exchanges f.entry,
        .outcomes f.entry .good]] := rfl
    have hel : ∀ x, t0.tripEligible x = s.mayTrip x := fun _ => rfl
    have hfin : ∀ (q : State) (l : List Instr), (q.setStation f.entry fun r =>
        { r with failRun := 0, status := .online }) =
        { q with flc := { q.flc with
          stations := q.flc.stations.set f.entry { q.flc.stations.get f.entry with
            failRun := 0, status := .online } } } := fun _ _ => rfl
    have hl : (if decide (t0.linkStatus f.entry = .lost) = true then [Instr.alarmClear .stationLost
        (.station f.station.address)] else []) = (if (s.flc.stations.get f.entry).status = .lost
        then [Instr.alarmClear .stationLost (.station f.station.address)] else []) := by
      simp only [decide_eq_true_eq]; rfl
    rw [hl]
    cases hx : f.exchange with
    | poll =>
      refine ⟨_, s.flc.setQ, fun h => (by cases h), fun _ => rfl, fun _ => rfl, fun h =>
          by (cases h), ?_⟩
      simp only [if_true, statusEvents_eq, State.hand, State.setStation, modify_eq, pollDelivery,
          hel, ht0, List.append_assoc]; rfl
    | set =>
      refine ⟨_, _, fun h => by (cases h), fun _ => rfl, fun h => by (cases h), fun _ => rfl, ?_⟩
      simp only [reduceCtorEq, if_false, State.hand, State.setStation, modify_eq, hel, ht0,
          List.append_assoc, List.append_nil, settleSet, decide_eq_true_eq, decide_not]; rfl
    | trip =>
      refine ⟨_, s.flc.setQ, fun _ => ⟨rfl, rfl⟩, fun h => (h rfl).elim, fun h => by (cases h),
          fun h => by (cases h), ?_⟩
      simp only [reduceCtorEq, if_false, State.hand, State.setStation, modify_eq, hel, ht0,
          List.append_assoc, List.append_nil]
      rw [rearm_filter]; rfl
  · have hm : m = t0.exchangeFailed f o := if_neg ho
    rw [hm]
    have hrun : ((t0.setStation f.entry fun r =>
        { r with failRun := run15 r.failRun }).flc.stations.get f.entry).failRun = min
        ((s.flc.stations.get f.entry).failRun + 1) 15 := by
      show ((s.flc.stations.modify f.entry _).get f.entry).failRun = _
      rw [Bank.get_modify_self]; rfl
    have hcode : outcomeCode o = (if o = .noReply then 1 else if o = .badCheck then 2 else if o =
        .wrongAddr then 3 else 4) := by
      cases o <;> first | rfl | exact absurd rfl ho
    -- body
    let q : State := match f.exchange with
      | .poll =>
        (t0.setStation f.entry fun r => { r with failRun := run15 r.failRun }).hand [.qtbDelivery
            (erasures f.station)]
      | .set =>
        { (t0.setStation f.entry fun r => { r with failRun := run15 r.failRun }) with
          flc := { (t0.setStation f.entry fun r => { r with failRun := run15 r.failRun }).flc with
            setQ := unsettleSet f.entry s.flc.setQ } }
      | .trip => (t0.setStation f.entry fun r => { r with failRun := run15 r.failRun })
    have hq : t0.exchangeFailed f o = if reaches (q.flc.stations.get f.entry).failRun (s.entrySet
        f.entry .failLimit) ∧ t0.linkStatus f.entry ≠ .lost then q.declareLost f o else q := rfl
    have hqs : q.flc.stations = s.flc.stations.set f.entry
        { s.flc.stations.get f.entry with failRun := min ((s.flc.stations.get f.entry).failRun + 1) 15 } := by
      simp only [q]; cases f.exchange <;> simp only [State.setStation, modify_eq] <;> rfl
    have hqe : q = { s with
        flc := { s.flc with
            flight := none
            setQ := if f.exchange = .set then s.flc.setQ.map fun x =>
              if decide (x.entry = f.entry) then { x with inFlight := false, replaced := false }
                  else x else s.flc.setQ
            stations := s.flc.stations.set f.entry
                { s.flc.stations.get f.entry with failRun := min ((s.flc.stations.get f.entry).failRun + 1) 15 } }
        handed := s.handed ++ [.counterIncrement [.exchanges f.entry, .outcomes f.entry o]] ++
            (if f.exchange = .poll then [.qtbDelivery ⟨f.station.kind, f.station.channel,
              (stationQtys f.station.kind f.station.channel).map fun q => (q, .erasure),
                  none⟩] else []) } := by
      simp only [q]
      cases f.exchange with
      | poll => simp only [State.setStation, modify_eq, reduceCtorEq, if_false, if_true]; rfl
      | set =>
        simp only [State.setStation, modify_eq, reduceCtorEq, if_false, if_true, List.append_nil,
            unsettleSet, decide_eq_true_eq]; rfl
      | trip =>
        simp only [State.setStation, modify_eq, reduceCtorEq, if_false, List.append_nil]; rfl
    have hlost : (reaches (q.flc.stations.get f.entry).failRun (s.entrySet f.entry .failLimit) =
        true ∧ t0.linkStatus f.entry ≠ .lost) ↔ (s.entrySet f.entry .failLimit ≤
        (min ((s.flc.stations.get f.entry).failRun + 1) 15 : Nat) ∧
        (s.flc.stations.get f.entry).status ≠ .lost) := by
      rw [hqs, Bank.get_set_self]; unfold reaches; rw [decide_eq_true_eq]; exact Iff.rfl
    rw [hq]
    by_cases hL : s.entrySet f.entry .failLimit ≤ (min ((s.flc.stations.get f.entry).failRun + 1) 15
        : Nat) ∧ (s.flc.stations.get f.entry).status ≠ .lost
    · rw [if_pos (hlost.2 hL)]
      refine ⟨.lost, fun _ => rfl, fun h => absurd hL h, fun l hl _ => ?_⟩
      rw [hl hL]; unfold State.declareLost; rw [hcode, linkLostEvents_eq, hqe]
      unfold State.setStation; simp only [modify_eq, set_set, Bank.get_set_self, State.hand,
          List.append_assoc]
    · rw [if_neg (fun hh => hL (hlost.1 hh))]
      refine ⟨_, fun h => absurd h hL, fun _ => rfl, fun l _ hl => ?_⟩
      rw [hl hL, hqe]; simp only [List.append_nil]

end Sys2Proof.Laws
end

