-- ==== Sys2Proof/Laws/Frames.lean ====
section
/-! SUPPORT. Which parts of the state each operation can change: one lemma per operation, applied to the state
an operation starts from, so that they chain in the order the operations are applied. -/

set_option linter.unusedTactic false
set_option linter.unreachableTactic false

namespace Sys2Proof.Machine

theorem Frame.refl (l : List Part) (s : State) : Frame l s s := by constructor <;> intro _ <;> rfl

theorem Frame.trans {l : List Part} {s t u : State} (h : Frame l s t) (k : Frame l t u) : Frame l s u :=
  ⟨
    fun x => (k.pending x).trans (h.pending x),
    fun x => (k.handed x).trans (h.handed x),
    fun x => (k.svp x).trans (h.svp x),
    fun x => (k.flc x).trans (h.flc x),
    fun x => (k.qtb x).trans (h.qtb x),
    fun x => (k.tip x).trans (h.tip x),
    fun x => (k.scm x).trans (h.scm x),
    fun x => (k.hxc x).trans (h.hxc x),
    fun x => (k.wcc x).trans (h.wcc x),
    fun x => (k.tbc x).trans (h.tbc x),
    fun x => (k.bbu x).trans (h.bbu x),
    fun x => (k.sqr x).trans (h.sqr x),
    fun x => (k.alt x).trans (h.alt x),
    fun x => (k.ssl x).trans (h.ssl x),
    fun x => (k.free x).trans (h.free x)⟩

theorem Frame.mono {l m : List Part} {s t : State} (hl : l ⊆ m) (h : Frame l s t) : Frame m s t :=
  ⟨
    fun x => h.pending fun y => x (hl y),
    fun x => h.handed fun y => x (hl y),
    fun x => h.svp fun y => x (hl y),
    fun x => h.flc fun y => x (hl y),
    fun x => h.qtb fun y => x (hl y),
    fun x => h.tip fun y => x (hl y),
    fun x => h.scm fun y => x (hl y),
    fun x => h.hxc fun y => x (hl y),
    fun x => h.wcc fun y => x (hl y),
    fun x => h.tbc fun y => x (hl y),
    fun x => h.bbu fun y => x (hl y),
    fun x => h.sqr fun y => x (hl y),
    fun x => h.alt fun y => x (hl y),
    fun x => h.ssl fun y => x (hl y),
    fun x => h.free fun y => x (hl y)⟩

theorem Frame.with_pending {l : List Part} {s t : State} {x} (h : Frame l s t) (hl : [Part.pending] ⊆ l) :
    Frame l s { t with pending := x } :=
  h.trans (Frame.mono hl (by constructor <;> intro k <;> first | rfl | exact absurd (by decide) k))

theorem Frame.with_handed {l : List Part} {s t : State} {x} (h : Frame l s t) (hl : [Part.handed] ⊆ l) :
    Frame l s { t with handed := x } :=
  h.trans (Frame.mono hl (by constructor <;> intro k <;> first | rfl | exact absurd (by decide) k))

theorem Frame.with_svp {l : List Part} {s t : State} {x} (h : Frame l s t) (hl : [Part.svp] ⊆ l) :
    Frame l s { t with svp := x } :=
  h.trans (Frame.mono hl (by constructor <;> intro k <;> first | rfl | exact absurd (by decide) k))

theorem Frame.with_flc {l : List Part} {s t : State} {x} (h : Frame l s t) (hl : [Part.flc] ⊆ l) :
    Frame l s { t with flc := x } :=
  h.trans (Frame.mono hl (by constructor <;> intro k <;> first | rfl | exact absurd (by decide) k))

theorem Frame.with_qtb {l : List Part} {s t : State} {x} (h : Frame l s t) (hl : [Part.qtb] ⊆ l) :
    Frame l s { t with qtb := x } :=
  h.trans (Frame.mono hl (by constructor <;> intro k <;> first | rfl | exact absurd (by decide) k))

theorem Frame.with_tip {l : List Part} {s t : State} {x} (h : Frame l s t) (hl : [Part.tip] ⊆ l) :
    Frame l s { t with tip := x } :=
  h.trans (Frame.mono hl (by constructor <;> intro k <;> first | rfl | exact absurd (by decide) k))

theorem Frame.with_scm {l : List Part} {s t : State} {x} (h : Frame l s t) (hl : [Part.scm] ⊆ l) :
    Frame l s { t with scm := x } :=
  h.trans (Frame.mono hl (by constructor <;> intro k <;> first | rfl | exact absurd (by decide) k))

theorem Frame.with_hxc {l : List Part} {s t : State} {x} (h : Frame l s t) (hl : [Part.hxc] ⊆ l) :
    Frame l s { t with hxc := x } :=
  h.trans (Frame.mono hl (by constructor <;> intro k <;> first | rfl | exact absurd (by decide) k))

theorem Frame.with_wcc {l : List Part} {s t : State} {x} (h : Frame l s t) (hl : [Part.wcc] ⊆ l) :
    Frame l s { t with wcc := x } :=
  h.trans (Frame.mono hl (by constructor <;> intro k <;> first | rfl | exact absurd (by decide) k))

theorem Frame.with_tbc {l : List Part} {s t : State} {x} (h : Frame l s t) (hl : [Part.tbc] ⊆ l) :
    Frame l s { t with tbc := x } :=
  h.trans (Frame.mono hl (by constructor <;> intro k <;> first | rfl | exact absurd (by decide) k))

theorem Frame.with_bbu {l : List Part} {s t : State} {x} (h : Frame l s t) (hl : [Part.bbu] ⊆ l) :
    Frame l s { t with bbu := x } :=
  h.trans (Frame.mono hl (by constructor <;> intro k <;> first | rfl | exact absurd (by decide) k))

theorem Frame.with_sqr {l : List Part} {s t : State} {x} (h : Frame l s t) (hl : [Part.sqr] ⊆ l) :
    Frame l s { t with sqr := x } :=
  h.trans (Frame.mono hl (by constructor <;> intro k <;> first | rfl | exact absurd (by decide) k))

theorem Frame.with_alt {l : List Part} {s t : State} {x} (h : Frame l s t) (hl : [Part.alt] ⊆ l) :
    Frame l s { t with alt := x } :=
  h.trans (Frame.mono hl (by constructor <;> intro k <;> first | rfl | exact absurd (by decide) k))

theorem Frame.with_ssl {l : List Part} {s t : State} {x} (h : Frame l s t) (hl : [Part.ssl] ⊆ l) :
    Frame l s { t with ssl := x } :=
  h.trans (Frame.mono hl (by constructor <;> intro k <;> first | rfl | exact absurd (by decide) k))

theorem Frame.with_free {l : List Part} {s t : State} {x} (h : Frame l s t) (hl : [Part.free] ⊆ l) :
    Frame l s { t with free := x } :=
  h.trans (Frame.mono hl (by constructor <;> intro k <;> first | rfl | exact absurd (by decide) k))

/-- A fold of an operation over a list. -/
theorem Frame.fold {α : Type} {l : List Part} {s t : State} (f : State → α → State) (xs : List α)
    (h : Frame l s t) (hf : ∀ u x, Frame l u (f u x)) : Frame l s (xs.foldl f t) := by
  induction xs generalizing t with
  | nil => exact h
  | cons x xs ih => exact ih (h.trans (hf t x))

theorem Frame.hand {l : List Part} {s t : State} {x} (h : Frame l s t)
    (hl : [Part.handed] ⊆ l) : Frame l s (t.hand x) :=
  h.trans (Frame.mono hl (by
    simp only [State.hand]
    repeat' (first | with_reducible exact Frame.refl _ _ | decide | with_reducible apply Frame.with_handed)))

theorem Frame.took {l : List Part} {s t : State} {x} (h : Frame l s t)
    (hl : [Part.handed] ⊆ l) : Frame l s (t.took x) :=
  h.trans (Frame.mono hl (by
    simp only [State.took]
    repeat' (first | with_reducible exact Frame.refl _ _ | decide | with_reducible apply Frame.with_handed)))

theorem Frame.useFree {l : List Part} {s t : State} (h : Frame l s t)
    (hl : [Part.free] ⊆ l) : Frame l s (t.useFree) :=
  h.trans (Frame.mono hl (by
    simp only [State.useFree]
    repeat' (first | with_reducible exact Frame.refl _ _ | decide | with_reducible apply Frame.with_free)))

theorem Frame.notify {l : List Part} {s t : State} {x} (h : Frame l s t)
    (hl : [Part.svp] ⊆ l) : Frame l s (t.notify x) :=
  h.trans (Frame.mono hl (by
    simp only [State.notify]
    repeat' (first | with_reducible exact Frame.refl _ _ | decide | with_reducible apply Frame.with_svp)))

theorem Frame.alarmChange {l : List Part} {s t : State} {a b c} (h : Frame l s t)
    (hl : [Part.alt, Part.svp] ⊆ l) : Frame l s (t.alarmChange a b c) :=
  h.trans (Frame.mono hl (by
    simp only [State.alarmChange]
    repeat' (first | with_reducible exact Frame.refl _ _ | decide | with_reducible apply Frame.notify
                   | with_reducible apply Frame.with_alt | with_reducible apply Frame.with_svp)))

theorem Frame.alarmClear {l : List Part} {s t : State} {a b} (h : Frame l s t)
    (hl : [Part.alt, Part.svp] ⊆ l) : Frame l s (t.alarmClear a b) :=
  h.trans (Frame.mono hl (by
    simp only [State.alarmClear]
    repeat' (first | with_reducible exact Frame.refl _ _ | decide | with_reducible apply Frame.notify
                   | with_reducible apply Frame.with_alt | with_reducible apply Frame.with_svp)))

theorem Frame.overrun {l : List Part} {s t : State} (h : Frame l s t)
    (hl : [Part.svp] ⊆ l) : Frame l s (t.overrun) :=
  h.trans (Frame.mono hl (by
    simp only [State.overrun]
    repeat' (first | with_reducible exact Frame.refl _ _ | decide | with_reducible apply Frame.with_svp)))

theorem Frame.deselect {l : List Part} {s t : State} (h : Frame l s t)
    (hl : [Part.svp] ⊆ l) : Frame l s (t.deselect) :=
  h.trans (Frame.mono hl (by
    simp only [State.deselect]
    repeat' (first | with_reducible exact Frame.refl _ _ | decide | with_reducible apply Frame.with_svp)))

theorem Frame.answer {l : List Part} {s t : State} {a b c} (h : Frame l s t)
    (hl : [Part.svp] ⊆ l) : Frame l s (t.answer a b c) :=
  h.trans (Frame.mono hl (by
    simp only [State.answer]
    repeat' (first | with_reducible exact Frame.refl _ _ | decide | with_reducible apply Frame.with_svp)))

/-- A request: the port, and what its owner changes. -/
theorem Frame.serve {l : List Part} {s t : State} {k : Byte} {owner : State → Answer} (h : Frame l s t)
    (hl : [Part.svp] ⊆ l) (ho : ∀ u, Frame l u (owner u).1) : Frame l s (t.serve k owner) := by
  unfold State.serve
  split
  · exact h.overrun hl
  · exact Frame.answer ((Frame.deselect h hl).trans (ho _)) hl

/-- An OPERATE: the port, and what the object's owner changes. -/
theorem Frame.operate {l : List Part} {s t : State} {o : SelObject} {a : Nat} {b : Bool}
    {owner : State → State × Status} (h : Frame l s t)
    (hl : [Part.svp] ⊆ l) (ho : ∀ u, Frame l u (owner u).1) : Frame l s (t.operate o a b owner) := by
  unfold State.operate
  split
  · exact h.overrun hl
  split
  · exact Frame.answer (h.deselect hl) hl
  split
  · exact Frame.answer ((Frame.deselect h hl).trans (ho _)) hl
  · exact Frame.answer (h.deselect hl) hl

theorem Frame.handUpdate {l : List Part} {s t : State} {x a u} (h : Frame l s t)
    (hl : [Part.handed] ⊆ l) : Frame l s (t.handUpdate x a u) :=
  h.trans (Frame.mono hl (by
    simp only [State.handUpdate]
    repeat' (first | with_reducible exact Frame.refl _ _ | decide | with_reducible apply Frame.hand
                   | with_reducible apply Frame.notify | split | with_reducible apply Frame.with_handed)))

theorem Frame.recordQty {l : List Part} {s : State} {acc : State × Update} {q r b} (h : Frame l s acc.1)
    (hl : [Part.qtb] ⊆ l) : Frame l s (Sys2Proof.Machine.recordQty acc q r b).1 := h.with_qtb hl

theorem Frame.readings {l : List Part} {s : State} {acc : State × Update} (xs) (h : Frame l s acc.1)
    (hl : [Part.qtb] ⊆ l) : Frame l s (List.foldl takeOne acc xs).1 := by
  induction xs generalizing acc with
  | nil => exact h
  | cons x xs ih => exact ih (h.recordQty hl)

theorem Frame.staleAll {l : List Part} {s t : State} {xs} (h : Frame l s t)
    (hl : [Part.qtb] ⊆ l) : Frame l s (t.staleAll xs).1 := by
  unfold State.staleAll
  suffices ∀ acc : State × Update, Frame l s acc.1 → Frame l s (List.foldl (fun acc q =>
      Sys2Proof.Machine.recordQty acc q (acc.1.qtb.get q).makeStale false) acc xs).1 from this _ h
  induction xs with
  | nil => exact fun _ h => h
  | cons x xs ih => exact fun acc h => ih _ (h.recordQty hl)

theorem Frame.noteSample {l : List Part} {s t : State} {d} (h : Frame l s t)
    (hl : [Part.qtb] ⊆ l) : Frame l s (t.noteSample d) :=
  h.trans (Frame.mono hl (by
    simp only [State.noteSample]
    repeat' (first | with_reducible exact Frame.refl _ _ | decide | split
                   | with_reducible apply Frame.with_qtb)))

theorem Frame.takeDelivery {l : List Part} {s t : State} {d} (h : Frame l s t)
    (hl : [Part.qtb] ⊆ l) : Frame l s ((t.takeDelivery d).1) :=
  h.trans (Frame.mono hl (by
    simp only [State.takeDelivery]
    repeat' (first | with_reducible exact Frame.refl _ _ | decide | with_reducible apply Frame.readings
                   | with_reducible apply Frame.noteSample | split | with_reducible apply Frame.with_qtb)))

theorem Frame.deliver {l : List Part} {s t : State} {d} (h : Frame l s t)
    (hl : [Part.qtb, Part.handed] ⊆ l) : Frame l s (t.deliver d) :=
  h.trans (Frame.mono hl (by
    simp only [State.deliver]
    repeat' (first | with_reducible exact Frame.refl _ _ | decide | with_reducible apply Frame.handUpdate
                   | with_reducible apply Frame.takeDelivery | with_reducible apply Frame.with_qtb
                   | with_reducible apply Frame.with_handed)))

theorem Frame.stationLost {l : List Part} {s t : State} {a b} (h : Frame l s t)
    (hl : [Part.qtb, Part.handed] ⊆ l) : Frame l s (t.stationLost a b) :=
  h.trans (Frame.mono hl (by
    simp only [State.stationLost]
    repeat' (first | with_reducible exact Frame.refl _ _ | decide | with_reducible apply Frame.handUpdate
                   | with_reducible apply Frame.staleAll | with_reducible apply Frame.with_qtb
                   | with_reducible apply Frame.with_handed)))

theorem Frame.qtySettingTaken {l : List Part} {s t : State} {a b} (h : Frame l s t)
    (hl : [Part.qtb, Part.handed] ⊆ l) : Frame l s (t.qtySettingTaken a b) :=
  h.trans (Frame.mono hl (by
    simp only [State.qtySettingTaken]
    repeat' (first | with_reducible exact Frame.refl _ _ | decide | with_reducible apply Frame.handUpdate
                   | with_reducible apply Frame.staleAll | split | with_reducible apply Frame.with_qtb
                   | with_reducible apply Frame.with_handed)))

theorem Frame.loadTable {l : List Part} {s t : State} {a b} (h : Frame l s t)
    (hl : [Part.tip] ⊆ l) : Frame l s ((State.loadTable a b t).1) :=
  h.trans (Frame.mono hl (by
    simp only [State.loadTable, State.says]
    repeat' (first | with_reducible exact Frame.refl _ _ | decide | split
                   | with_reducible apply Frame.with_tip)))

theorem Frame.setCalcite {l : List Part} {s t : State} {a b} (h : Frame l s t)
    (hl : [Part.scm] ⊆ l) : Frame l s (t.setCalcite a b) :=
  h.trans (Frame.mono hl (by
    simp only [State.setCalcite]
    repeat' (first | with_reducible exact Frame.refl _ _ | decide | with_reducible apply Frame.with_scm)))

theorem Frame.computePoint {l : List Part} {s t : State} {a b c} (h : Frame l s t)
    (hl : [Part.scm, Part.handed] ⊆ l) : Frame l s (t.computePoint a b c) :=
  h.trans (Frame.mono hl (by
    simp only [State.computePoint]
    repeat' (first | with_reducible exact Frame.refl _ _ | decide | with_reducible apply Frame.hand
                   | with_reducible apply Frame.notify | with_reducible apply Frame.with_scm
                   | with_reducible apply Frame.with_handed)))

theorem Frame.pointUpdate {l : List Part} {s t : State} {u p} (h : Frame l s t)
    (hl : [Part.scm, Part.handed] ⊆ l) : Frame l s (Sys2Proof.Machine.pointUpdate u t p) :=
  h.trans (Frame.mono hl (by
    simp only [Sys2Proof.Machine.pointUpdate]
    repeat' (first | with_reducible exact Frame.refl _ _ | decide | with_reducible apply Frame.computePoint
                   | split | with_reducible apply Frame.with_scm | with_reducible apply Frame.with_handed)))

theorem Frame.staleSeenUpdate {l : List Part} {s t : State} {u} (h : Frame l s t)
    (hl : [Part.scm] ⊆ l) : Frame l s (Sys2Proof.Machine.staleSeenUpdate u t) :=
  h.trans (Frame.mono hl (by
    simp only [Sys2Proof.Machine.staleSeenUpdate]
    repeat' (first | with_reducible exact Frame.refl _ _ | decide | with_reducible apply Frame.with_scm)))

theorem Frame.floorUpdate {l : List Part} {s t : State} {u} (h : Frame l s t)
    (hl : [Part.scm, Part.handed] ⊆ l) : Frame l s (Sys2Proof.Machine.floorUpdate u t) :=
  h.trans (Frame.mono hl (by
    simp only [Sys2Proof.Machine.floorUpdate]
    repeat' (first | with_reducible exact Frame.refl _ _ | decide | with_reducible apply Frame.hand
                   | with_reducible apply Frame.notify | split | with_reducible apply Frame.with_scm
                   | with_reducible apply Frame.with_handed)))

theorem Frame.holdUpdate {l : List Part} {s t : State} {u} (h : Frame l s t)
    (hl : [Part.scm] ⊆ l) : Frame l s (Sys2Proof.Machine.holdUpdate u t) :=
  h.trans (Frame.mono hl (by
    simp only [Sys2Proof.Machine.holdUpdate]
    repeat' (first | with_reducible exact Frame.refl _ _ | decide | split
                   | with_reducible apply Frame.with_scm)))

theorem Frame.raiseStale {l : List Part} {s t : State} {n} (h : Frame l s t)
    (hl : [Part.scm, Part.handed] ⊆ l) : Frame l s (t.raiseStale n) :=
  h.trans (Frame.mono hl (by
    simp only [State.raiseStale]
    repeat' (first | with_reducible exact Frame.refl _ _ | decide | with_reducible apply Frame.hand
                   | with_reducible apply Frame.notify | with_reducible apply Frame.with_scm
                   | with_reducible apply Frame.with_handed)))

theorem Frame.testStale {l : List Part} {s t : State} (h : Frame l s t)
    (hl : [Part.scm, Part.handed] ⊆ l) : Frame l s (t.testStale) :=
  h.trans (Frame.mono hl (by
    simp only [State.testStale]
    repeat' (first | with_reducible exact Frame.refl _ _ | decide | with_reducible apply Frame.raiseStale
                   | split | with_reducible apply Frame.with_scm | with_reducible apply Frame.with_handed)))

theorem Frame.setClock {l : List Part} {s t : State} {n} (h : Frame l s t)
    (hl : [Part.scm] ⊆ l) : Frame l s (t.setClock n) :=
  h.trans (Frame.mono hl (by
    simp only [State.setClock]
    repeat' (first | with_reducible exact Frame.refl _ _ | decide | with_reducible apply Frame.with_scm)))

theorem Frame.moveCalcite {l : List Part} {s t : State} {u c b} (h : Frame l s t)
    (hl : [Part.scm, Part.handed, Part.free] ⊆ l) : Frame l s (Sys2Proof.Machine.moveCalcite u t c b) :=
  h.trans (Frame.mono hl (by
    simp only [Sys2Proof.Machine.moveCalcite]
    repeat' (first | with_reducible exact Frame.refl _ _ | decide | with_reducible apply Frame.useFree
                   | with_reducible apply Frame.hand | with_reducible apply Frame.setCalcite | split
                   | with_reducible apply Frame.with_scm | with_reducible apply Frame.with_handed
                   | with_reducible apply Frame.with_free)))

theorem Frame.holdUpdateWell {l : List Part} {s t : State} {u c b} (h : Frame l s t)
    (hl : [Part.scm, Part.handed, Part.free] ⊆ l) : Frame l s (Sys2Proof.Machine.holdUpdateWell u t c b) :=
  h.trans (Frame.mono hl (by
    simp only [Sys2Proof.Machine.holdUpdateWell]
    repeat' (first | with_reducible exact Frame.refl _ _ | decide | with_reducible apply Frame.moveCalcite
                   | with_reducible apply Frame.hand | with_reducible apply Frame.setCalcite | split
                   | with_reducible apply Frame.with_scm | with_reducible apply Frame.with_handed
                   | with_reducible apply Frame.with_free)))

theorem Frame.marginUpdate {l : List Part} {s t : State} {u c} (h : Frame l s t)
    (hl : [Part.scm, Part.handed, Part.free] ⊆ l) : Frame l s (Sys2Proof.Machine.marginUpdate u t c) :=
  h.trans (Frame.mono hl (by
    simp only [Sys2Proof.Machine.marginUpdate]
    repeat' (first | with_reducible exact Frame.refl _ _ | decide | with_reducible apply Frame.holdUpdateWell
                   | with_reducible apply Frame.hand | with_reducible apply Frame.setCalcite | split
                   | with_reducible apply Frame.with_scm | with_reducible apply Frame.with_handed
                   | with_reducible apply Frame.with_free)))

theorem Frame.feedIsShort {l : List Part} {s t : State} {c v} (h : Frame l s t)
    (hl : [Part.scm, Part.handed] ⊆ l) : Frame l s (Sys2Proof.Machine.feedIsShort t c v) :=
  h.trans (Frame.mono hl (by
    simp only [Sys2Proof.Machine.feedIsShort]
    repeat' (first | with_reducible exact Frame.refl _ _ | decide | with_reducible apply Frame.hand
                   | with_reducible apply Frame.setCalcite | split | with_reducible apply Frame.with_scm
                   | with_reducible apply Frame.with_handed)))

theorem Frame.feedIsGood {l : List Part} {s t : State} {c} (h : Frame l s t)
    (hl : [Part.scm, Part.handed] ⊆ l) : Frame l s (Sys2Proof.Machine.feedIsGood t c) :=
  h.trans (Frame.mono hl (by
    simp only [Sys2Proof.Machine.feedIsGood]
    repeat' (first | with_reducible exact Frame.refl _ _ | decide | with_reducible apply Frame.hand
                   | with_reducible apply Frame.setCalcite | with_reducible apply Frame.with_scm
                   | with_reducible apply Frame.with_handed)))

theorem Frame.feedUpdate {l : List Part} {s t : State} {u c} (h : Frame l s t)
    (hl : [Part.scm, Part.handed] ⊆ l) : Frame l s (Sys2Proof.Machine.feedUpdate u t c) :=
  h.trans (Frame.mono hl (by
    simp only [Sys2Proof.Machine.feedUpdate]
    repeat' (first | with_reducible exact Frame.refl _ _ | decide | with_reducible apply Frame.feedIsShort
                   | with_reducible apply Frame.feedIsGood | split | with_reducible apply Frame.with_scm
                   | with_reducible apply Frame.with_handed)))

theorem Frame.scmWellState {l : List Part} {s t : State} {c a b} (h : Frame l s t)
    (hl : [Part.scm, Part.handed] ⊆ l) : Frame l s (t.scmWellState c a b) :=
  h.trans (Frame.mono hl (by
    simp only [State.scmWellState]
    repeat' (first | with_reducible exact Frame.refl _ _ | decide | with_reducible apply Frame.feedIsGood
                   | with_reducible apply Frame.setCalcite | split | with_reducible apply Frame.with_scm
                   | with_reducible apply Frame.with_handed)))

theorem Frame.resetWellWatch {l : List Part} {s t : State} {c} (h : Frame l s t)
    (hl : [Part.scm, Part.handed] ⊆ l) : Frame l s (t.resetWellWatch c) :=
  h.trans (Frame.mono hl (by
    simp only [State.resetWellWatch]
    repeat' (first | with_reducible exact Frame.refl _ _ | decide | with_reducible apply Frame.hand
                   | with_reducible apply Frame.notify | with_reducible apply Frame.with_scm
                   | with_reducible apply Frame.with_handed)))

theorem Frame.pumpUpdate {l : List Part} {s t : State} {u c} (h : Frame l s t)
    (hl : [Part.scm, Part.handed] ⊆ l) : Frame l s (Sys2Proof.Machine.pumpUpdate u t c) :=
  h.trans (Frame.mono hl (by
    simp only [Sys2Proof.Machine.pumpUpdate]
    repeat' (first | with_reducible exact Frame.refl _ _ | decide | with_reducible apply Frame.hand
                   | with_reducible apply Frame.notify | with_reducible apply Frame.with_scm
                   | with_reducible apply Frame.with_handed)))

theorem Frame.hxFoulingUpdate {l : List Part} {s t : State} {u} (h : Frame l s t)
    (hl : [Part.scm, Part.handed] ⊆ l) : Frame l s (Sys2Proof.Machine.hxFoulingUpdate u t) :=
  h.trans (Frame.mono hl (by
    simp only [Sys2Proof.Machine.hxFoulingUpdate]
    repeat' (first | with_reducible exact Frame.refl _ _ | decide | with_reducible apply Frame.hand
                   | with_reducible apply Frame.notify | with_reducible apply Frame.with_scm
                   | with_reducible apply Frame.with_handed)))

theorem Frame.captureWell {l : List Part} {s t : State} {c} (h : Frame l s t)
    (hl : [Part.scm, Part.handed] ⊆ l) : Frame l s ((t.captureWell c).1) :=
  h.trans (Frame.mono hl (by
    simp only [State.captureWell, State.says]
    repeat' (first | with_reducible exact Frame.refl _ _ | decide | with_reducible apply Frame.hand
                   | with_reducible apply Frame.notify | split | with_reducible apply Frame.with_scm
                   | with_reducible apply Frame.with_handed)))

theorem Frame.captureHx {l : List Part} {s t : State} (h : Frame l s t)
    (hl : [Part.scm, Part.handed] ⊆ l) : Frame l s ((t.captureHx).1) :=
  h.trans (Frame.mono hl (by
    simp only [State.captureHx, State.says]
    repeat' (first | with_reducible exact Frame.refl _ _ | decide | with_reducible apply Frame.hand
                   | with_reducible apply Frame.notify | split | with_reducible apply Frame.with_scm
                   | with_reducible apply Frame.with_handed)))

theorem Frame.capture {l : List Part} {s t : State} {c} (h : Frame l s t)
    (hl : [Part.scm, Part.handed] ⊆ l) : Frame l s ((State.capture c t).1) :=
  h.trans (Frame.mono hl (by
    simp only [State.capture, State.says]
    repeat' (first | with_reducible exact Frame.refl _ _ | decide | with_reducible apply Frame.captureWell
                   | with_reducible apply Frame.captureHx | split | with_reducible apply Frame.with_scm
                   | with_reducible apply Frame.with_handed)))

theorem Frame.wellUpdate {l : List Part} {s t : State} {u c} (h : Frame l s t)
    (hl : [Part.scm, Part.handed, Part.free] ⊆ l) : Frame l s (Sys2Proof.Machine.wellUpdate u t c) :=
  h.trans (Frame.mono hl (by
    simp only [Sys2Proof.Machine.wellUpdate]
    repeat' (first | with_reducible exact Frame.refl _ _ | decide | with_reducible apply Frame.pumpUpdate
                   | with_reducible apply Frame.feedUpdate | with_reducible apply Frame.marginUpdate | split
                   | with_reducible apply Frame.with_scm | with_reducible apply Frame.with_handed
                   | with_reducible apply Frame.with_free)))

theorem Frame.scmUpdate {l : List Part} {s t : State} {u} (h : Frame l s t)
    (hl : [Part.scm, Part.handed, Part.free] ⊆ l) : Frame l s (t.scmUpdate u) :=
  h.trans (Frame.mono hl (by
    simp only [State.scmUpdate]
    apply Frame.hxFoulingUpdate _ (by decide)
    apply Frame.fold _ _ _ (fun v c => Frame.wellUpdate (Frame.refl _ v) (by decide))
    apply Frame.staleSeenUpdate _ (by decide)
    apply Frame.fold _ _ _ (fun v p => Frame.pointUpdate (Frame.refl _ v) (by decide))
    exact ((Frame.refl _ t).floorUpdate (by decide)).holdUpdate (by decide)))

theorem Frame.nextInterval {l : List Part} {s t : State} (h : Frame l s t)
    (hl : [Part.scm] ⊆ l) : Frame l s (t.nextInterval) :=
  h.trans (Frame.mono hl (by
    simp only [State.nextInterval]
    repeat' (first | with_reducible exact Frame.refl _ _ | decide | with_reducible apply Frame.with_scm)))

theorem Frame.readTrend {l : List Part} {s t : State} {a b} (h : Frame l s t)
    (hl : [Part.free] ⊆ l) : Frame l s ((State.readTrend a b t).1) :=
  h.trans (Frame.mono hl (by
    simp only [State.readTrend, State.says]
    repeat' (first | with_reducible exact Frame.refl _ _ | decide | with_reducible apply Frame.useFree | split
                   | with_reducible apply Frame.with_free)))

theorem Frame.l5Taken {l : List Part} {s t : State} (h : Frame l s t)
    (hl : [Part.scm] ⊆ l) : Frame l s (t.l5Taken) :=
  h.trans (Frame.mono hl (by
    simp only [State.l5Taken]
    repeat' (first | with_reducible exact Frame.refl _ _ | decide | split
                   | with_reducible apply Frame.with_scm)))

theorem Frame.l6Taken {l : List Part} {s t : State} (h : Frame l s t)
    (hl : [Part.scm, Part.handed] ⊆ l) : Frame l s (t.l6Taken) :=
  h.trans (Frame.mono hl (by
    simp only [State.l6Taken]
    repeat' (first | with_reducible exact Frame.refl _ _ | decide | with_reducible apply Frame.testStale
                   | split | with_reducible apply Frame.with_scm | with_reducible apply Frame.with_handed)))

theorem Frame.issueBypass {l : List Part} {s t : State} {b} (h : Frame l s t)
    (hl : [Part.hxc, Part.handed] ⊆ l) : Frame l s (t.issueBypass b) :=
  h.trans (Frame.mono hl (by
    simp only [State.issueBypass]
    repeat' (first | with_reducible exact Frame.refl _ _ | decide | with_reducible apply Frame.hand
                   | with_reducible apply Frame.notify | split | with_reducible apply Frame.with_hxc
                   | with_reducible apply Frame.with_handed)))

theorem Frame.setMode {l : List Part} {s t : State} {m} (h : Frame l s t)
    (hl : [Part.hxc, Part.svp, Part.handed] ⊆ l) : Frame l s (t.setMode m) :=
  h.trans (Frame.mono hl (by
    simp only [State.setMode]
    repeat' (first | with_reducible exact Frame.refl _ _ | decide | with_reducible apply Frame.hand
                   | with_reducible apply Frame.notify | split | with_reducible apply Frame.with_hxc
                   | with_reducible apply Frame.with_svp | with_reducible apply Frame.with_handed)))

theorem Frame.retarget {l : List Part} {s t : State} (h : Frame l s t)
    (hl : [Part.hxc] ⊆ l) : Frame l s (t.retarget) :=
  h.trans (Frame.mono hl (by
    simp only [State.retarget]
    repeat' (first | with_reducible exact Frame.refl _ _ | decide | with_reducible apply Frame.with_hxc)))

theorem Frame.targetUpdate {l : List Part} {s t : State} {u} (h : Frame l s t)
    (hl : [Part.hxc] ⊆ l) : Frame l s (Sys2Proof.Machine.targetUpdate u t) :=
  h.trans (Frame.mono hl (by
    simp only [Sys2Proof.Machine.targetUpdate]
    repeat' (first | with_reducible exact Frame.refl _ _ | decide | with_reducible apply Frame.retarget
                   | split | with_reducible apply Frame.with_hxc)))

theorem Frame.endBreach {l : List Part} {s t : State} (h : Frame l s t)
    (hl : [Part.hxc, Part.handed] ⊆ l) : Frame l s (t.endBreach) :=
  h.trans (Frame.mono hl (by
    simp only [State.endBreach]
    repeat' (first | with_reducible exact Frame.refl _ _ | decide | with_reducible apply Frame.hand
                   | with_reducible apply Frame.notify | with_reducible apply Frame.with_hxc
                   | with_reducible apply Frame.with_handed)))

theorem Frame.isolate {l : List Part} {s t : State} {k} (h : Frame l s t)
    (hl : [Part.hxc, Part.svp, Part.handed] ⊆ l) : Frame l s (t.isolate k) :=
  h.trans (Frame.mono hl (by
    simp only [State.isolate]
    repeat' (first | with_reducible exact Frame.refl _ _ | decide | with_reducible apply Frame.setMode
                   | with_reducible apply Frame.hand | with_reducible apply Frame.endBreach
                   | with_reducible apply Frame.issueBypass | with_reducible apply Frame.with_hxc
                   | with_reducible apply Frame.with_svp | with_reducible apply Frame.with_handed)))

theorem Frame.addCause {l : List Part} {s t : State} {k} (h : Frame l s t)
    (hl : [Part.hxc, Part.svp, Part.handed] ⊆ l) : Frame l s (t.addCause k) :=
  h.trans (Frame.mono hl (by
    simp only [State.addCause]
    repeat' (first | with_reducible exact Frame.refl _ _ | decide | with_reducible apply Frame.isolate | split
                   | with_reducible apply Frame.with_hxc | with_reducible apply Frame.with_svp
                   | with_reducible apply Frame.with_handed)))

theorem Frame.dropCause {l : List Part} {s t : State} {k} (h : Frame l s t)
    (hl : [Part.hxc] ⊆ l) : Frame l s (t.dropCause k) :=
  h.trans (Frame.mono hl (by
    simp only [State.dropCause]
    repeat' (first | with_reducible exact Frame.refl _ _ | decide | with_reducible apply Frame.with_hxc)))

theorem Frame.outletUpdate {l : List Part} {s t : State} {u} (h : Frame l s t)
    (hl : [Part.hxc, Part.svp, Part.handed] ⊆ l) : Frame l s (Sys2Proof.Machine.outletUpdate u t) :=
  h.trans (Frame.mono hl (by
    simp only [Sys2Proof.Machine.outletUpdate]
    repeat' (first | with_reducible exact Frame.refl _ _ | decide | with_reducible apply Frame.addCause
                   | with_reducible apply Frame.dropCause | split | with_reducible apply Frame.with_hxc
                   | with_reducible apply Frame.with_svp | with_reducible apply Frame.with_handed)))

theorem Frame.controlStep {l : List Part} {s t : State} {a b} (h : Frame l s t)
    (hl : [Part.hxc, Part.svp, Part.handed] ⊆ l) : Frame l s (t.controlStep a b) :=
  h.trans (Frame.mono hl (by
    simp only [State.controlStep]
    repeat' (first | with_reducible exact Frame.refl _ _ | decide | with_reducible apply Frame.setMode
                   | with_reducible apply Frame.issueBypass | with_reducible apply Frame.with_hxc
                   | with_reducible apply Frame.with_svp | with_reducible apply Frame.with_handed)))

theorem Frame.controlUpdate {l : List Part} {s t : State} {u} (h : Frame l s t)
    (hl : [Part.hxc, Part.svp, Part.handed] ⊆ l) : Frame l s (Sys2Proof.Machine.controlUpdate u t) :=
  h.trans (Frame.mono hl (by
    simp only [Sys2Proof.Machine.controlUpdate]
    repeat' (first | with_reducible exact Frame.refl _ _ | decide | with_reducible apply Frame.controlStep
                   | split | with_reducible apply Frame.with_hxc | with_reducible apply Frame.with_svp
                   | with_reducible apply Frame.with_handed)))

theorem Frame.evalBreach {l : List Part} {s t : State} {v} (h : Frame l s t)
    (hl : [Part.hxc, Part.handed] ⊆ l) : Frame l s (t.evalBreach v) :=
  h.trans (Frame.mono hl (by
    simp only [State.evalBreach]
    repeat' (first | with_reducible exact Frame.refl _ _ | decide | with_reducible apply Frame.endBreach
                   | with_reducible apply Frame.hand | split | with_reducible apply Frame.with_hxc
                   | with_reducible apply Frame.with_handed)))

theorem Frame.breachUpdate {l : List Part} {s t : State} {u} (h : Frame l s t)
    (hl : [Part.hxc, Part.handed] ⊆ l) : Frame l s (Sys2Proof.Machine.breachUpdate u t) :=
  h.trans (Frame.mono hl (by
    simp only [Sys2Proof.Machine.breachUpdate]
    repeat' (first | with_reducible exact Frame.refl _ _ | decide | with_reducible apply Frame.evalBreach
                   | split | with_reducible apply Frame.with_hxc | with_reducible apply Frame.with_handed)))

theorem Frame.qmaxUpdate {l : List Part} {s t : State} {u} (h : Frame l s t)
    (hl : [Part.hxc] ⊆ l) : Frame l s (Sys2Proof.Machine.qmaxUpdate u t) :=
  h.trans (Frame.mono hl (by
    simp only [Sys2Proof.Machine.qmaxUpdate]
    repeat' (first | with_reducible exact Frame.refl _ _ | decide | split
                   | with_reducible apply Frame.with_hxc)))

theorem Frame.heatUpdate {l : List Part} {s t : State} {u} (h : Frame l s t)
    (hl : [Part.hxc] ⊆ l) : Frame l s (Sys2Proof.Machine.heatUpdate u t) :=
  h.trans (Frame.mono hl (by
    simp only [Sys2Proof.Machine.heatUpdate]
    repeat' (first | with_reducible exact Frame.refl _ _ | decide | split
                   | with_reducible apply Frame.with_hxc)))

theorem Frame.hxcUpdate {l : List Part} {s t : State} {u} (h : Frame l s t)
    (hl : [Part.hxc, Part.svp, Part.handed] ⊆ l) : Frame l s (t.hxcUpdate u) :=
  h.trans (Frame.mono hl (by
    simp only [State.hxcUpdate]
    repeat' (first | with_reducible exact Frame.refl _ _ | decide | with_reducible apply Frame.heatUpdate
                   | with_reducible apply Frame.qmaxUpdate | with_reducible apply Frame.breachUpdate
                   | with_reducible apply Frame.controlUpdate | with_reducible apply Frame.targetUpdate
                   | with_reducible apply Frame.outletUpdate | with_reducible apply Frame.with_hxc
                   | with_reducible apply Frame.with_svp | with_reducible apply Frame.with_handed)))

theorem Frame.hxOn {l : List Part} {s t : State} {a} (h : Frame l s t)
    (hl : [Part.hxc, Part.svp, Part.handed] ⊆ l) : Frame l s ((State.hxOn a t).1) :=
  h.trans (Frame.mono hl (by
    simp only [State.hxOn, State.unclaimed, State.says]
    repeat' (first | with_reducible exact Frame.refl _ _ | decide | with_reducible apply Frame.setMode | split
                   | with_reducible apply Frame.with_hxc | with_reducible apply Frame.with_svp
                   | with_reducible apply Frame.with_handed)))

theorem Frame.hxOff {l : List Part} {s t : State} {a} (h : Frame l s t)
    (hl : [Part.hxc, Part.svp, Part.handed] ⊆ l) : Frame l s ((State.hxOff a t).1) :=
  h.trans (Frame.mono hl (by
    simp only [State.hxOff]
    repeat' (first | with_reducible exact Frame.refl _ _ | decide | with_reducible apply Frame.setMode
                   | with_reducible apply Frame.hand | with_reducible apply Frame.endBreach
                   | with_reducible apply Frame.issueBypass | with_reducible apply Frame.dropCause
                   | with_reducible apply Frame.with_hxc | with_reducible apply Frame.with_svp
                   | with_reducible apply Frame.with_handed)))

theorem Frame.hxIsolate {l : List Part} {s t : State} (h : Frame l s t)
    (hl : [Part.hxc, Part.svp, Part.handed] ⊆ l) : Frame l s ((State.hxIsolate t).1) :=
  h.trans (Frame.mono hl (by
    simp only [State.hxIsolate]
    repeat' (first | with_reducible exact Frame.refl _ _ | decide | with_reducible apply Frame.addCause
                   | with_reducible apply Frame.with_hxc | with_reducible apply Frame.with_svp
                   | with_reducible apply Frame.with_handed)))

theorem Frame.hxResume {l : List Part} {s t : State} {a} (h : Frame l s t)
    (hl : [Part.hxc, Part.svp, Part.handed] ⊆ l) : Frame l s ((State.hxResume a t).1) :=
  h.trans (Frame.mono hl (by
    simp only [State.hxResume, State.unclaimed, State.says]
    repeat' (first | with_reducible exact Frame.refl _ _ | decide | with_reducible apply Frame.setMode
                   | with_reducible apply Frame.hand | with_reducible apply Frame.dropCause | split
                   | with_reducible apply Frame.with_hxc | with_reducible apply Frame.with_svp
                   | with_reducible apply Frame.with_handed)))

theorem Frame.hxOffset {l : List Part} {s t : State} {a b} (h : Frame l s t)
    (hl : [Part.hxc] ⊆ l) : Frame l s ((State.hxOffset a b t).1) :=
  h.trans (Frame.mono hl (by
    simp only [State.hxOffset, State.unclaimed, State.says]
    repeat' (first | with_reducible exact Frame.refl _ _ | decide | with_reducible apply Frame.retarget
                   | split | with_reducible apply Frame.with_hxc)))

theorem Frame.limitedMinute {l : List Part} {s t : State} (h : Frame l s t)
    (hl : [Part.hxc, Part.handed] ⊆ l) : Frame l s (t.limitedMinute) :=
  h.trans (Frame.mono hl (by
    simp only [State.limitedMinute]
    repeat' (first | with_reducible exact Frame.refl _ _ | decide | with_reducible apply Frame.hand
                   | with_reducible apply Frame.with_hxc | with_reducible apply Frame.with_handed)))

theorem Frame.setWell {l : List Part} {s t : State} {c x} (h : Frame l s t)
    (hl : [Part.wcc] ⊆ l) : Frame l s (t.setWell c x) :=
  h.trans (Frame.mono hl (by
    simp only [State.setWell]
    repeat' (first | with_reducible exact Frame.refl _ _ | decide | with_reducible apply Frame.with_wcc)))

theorem Frame.wellChanged {l : List Part} {s t : State} {a b c d} (h : Frame l s t)
    (hl : [Part.svp, Part.handed] ⊆ l) : Frame l s (t.wellChanged a b c d) :=
  h.trans (Frame.mono hl (by
    simp only [State.wellChanged]
    repeat' (first | with_reducible exact Frame.refl _ _ | decide | with_reducible apply Frame.hand
                   | with_reducible apply Frame.notify | split | with_reducible apply Frame.with_svp
                   | with_reducible apply Frame.with_handed)))

theorem Frame.issueDemand {l : List Part} {s t : State} {c d} (h : Frame l s t)
    (hl : [Part.wcc, Part.handed] ⊆ l) : Frame l s (t.issueDemand c d) :=
  h.trans (Frame.mono hl (by
    simp only [State.issueDemand]
    repeat' (first | with_reducible exact Frame.refl _ _ | decide | with_reducible apply Frame.hand
                   | with_reducible apply Frame.setWell | with_reducible apply Frame.with_wcc
                   | with_reducible apply Frame.with_handed)))

theorem Frame.placeWellTrip {l : List Part} {s t : State} {c} (h : Frame l s t)
    (hl : [Part.handed] ⊆ l) : Frame l s (t.placeWellTrip c) :=
  h.trans (Frame.mono hl (by
    simp only [State.placeWellTrip]
    repeat' (first | with_reducible exact Frame.refl _ _ | decide | with_reducible apply Frame.hand
                   | with_reducible apply Frame.with_handed)))

theorem Frame.tripWell {l : List Part} {s t : State} {c k} (h : Frame l s t)
    (hl : [Part.wcc, Part.svp, Part.handed] ⊆ l) : Frame l s (t.tripWell c k) :=
  h.trans (Frame.mono hl (by
    simp only [State.tripWell]
    repeat' (first | with_reducible exact Frame.refl _ _ | decide | with_reducible apply Frame.wellChanged
                   | with_reducible apply Frame.hand | with_reducible apply Frame.placeWellTrip
                   | with_reducible apply Frame.issueDemand | with_reducible apply Frame.setWell
                   | with_reducible apply Frame.with_wcc | with_reducible apply Frame.with_svp
                   | with_reducible apply Frame.with_handed)))

theorem Frame.decideReply {l : List Part} {s t : State} {c} (h : Frame l s t)
    (hl : [Part.wcc, Part.svp, Part.handed] ⊆ l) : Frame l s (t.decideReply c) :=
  h.trans (Frame.mono hl (by
    simp only [State.decideReply]
    repeat' (first | with_reducible exact Frame.refl _ _ | decide | with_reducible apply Frame.tripWell
                   | split | with_reducible apply Frame.with_wcc | with_reducible apply Frame.with_svp
                   | with_reducible apply Frame.with_handed)))

theorem Frame.adoptRunning {l : List Part} {s t : State} {e} (h : Frame l s t)
    (hl : [Part.wcc, Part.svp, Part.handed] ⊆ l) : Frame l s (t.adoptRunning e) :=
  h.trans (Frame.mono hl (by
    simp only [State.adoptRunning]
    repeat' (first | with_reducible exact Frame.refl _ _ | decide | with_reducible apply Frame.wellChanged
                   | with_reducible apply Frame.issueDemand | with_reducible apply Frame.setWell
                   | with_reducible apply Frame.with_wcc | with_reducible apply Frame.with_svp
                   | with_reducible apply Frame.with_handed)))

theorem Frame.adoptWell {l : List Part} {s t : State} {e} (h : Frame l s t)
    (hl : [Part.wcc, Part.svp, Part.handed] ⊆ l) : Frame l s (t.adoptWell e) :=
  h.trans (Frame.mono hl (by
    simp only [State.adoptWell]
    repeat' (first | with_reducible exact Frame.refl _ _ | decide | with_reducible apply Frame.adoptRunning
                   | with_reducible apply Frame.placeWellTrip | with_reducible apply Frame.setWell | split
                   | with_reducible apply Frame.with_wcc | with_reducible apply Frame.with_svp
                   | with_reducible apply Frame.with_handed)))

theorem Frame.wellStatus {l : List Part} {s t : State} {e} (h : Frame l s t)
    (hl : [Part.wcc, Part.svp, Part.handed] ⊆ l) : Frame l s (t.wellStatus e) :=
  h.trans (Frame.mono hl (by
    simp only [State.wellStatus]
    repeat' (first | with_reducible exact Frame.refl _ _ | decide | with_reducible apply Frame.decideReply
                   | with_reducible apply Frame.adoptWell | with_reducible apply Frame.setWell
                   | with_reducible apply Frame.with_wcc | with_reducible apply Frame.with_svp
                   | with_reducible apply Frame.with_handed)))

theorem Frame.overcurrentUpdate {l : List Part} {s t : State} {u c} (h : Frame l s t)
    (hl : [Part.wcc] ⊆ l) : Frame l s (Sys2Proof.Machine.overcurrentUpdate u t c) :=
  h.trans (Frame.mono hl (by
    simp only [Sys2Proof.Machine.overcurrentUpdate]
    repeat' (first | with_reducible exact Frame.refl _ _ | decide | with_reducible apply Frame.setWell | split
                   | with_reducible apply Frame.with_wcc)))

theorem Frame.dryUpdate {l : List Part} {s t : State} {u c} (h : Frame l s t)
    (hl : [Part.wcc] ⊆ l) : Frame l s (Sys2Proof.Machine.dryUpdate u t c) :=
  h.trans (Frame.mono hl (by
    simp only [Sys2Proof.Machine.dryUpdate]
    repeat' (first | with_reducible exact Frame.refl _ _ | decide | with_reducible apply Frame.setWell | split
                   | with_reducible apply Frame.with_wcc)))

theorem Frame.startUpdate {l : List Part} {s t : State} {u c} (h : Frame l s t)
    (hl : [Part.wcc, Part.svp, Part.handed] ⊆ l) : Frame l s (Sys2Proof.Machine.startUpdate u t c) :=
  h.trans (Frame.mono hl (by
    simp only [Sys2Proof.Machine.startUpdate]
    repeat' (first | with_reducible exact Frame.refl _ _ | decide | with_reducible apply Frame.wellChanged
                   | with_reducible apply Frame.setWell | split | with_reducible apply Frame.with_wcc
                   | with_reducible apply Frame.with_svp | with_reducible apply Frame.with_handed)))

theorem Frame.wccWellUpdate {l : List Part} {s t : State} {u c} (h : Frame l s t)
    (hl : [Part.wcc, Part.svp, Part.handed] ⊆ l) : Frame l s (Sys2Proof.Machine.wccWellUpdate u t c) :=
  h.trans (Frame.mono hl (by
    simp only [Sys2Proof.Machine.wccWellUpdate]
    repeat' (first | with_reducible exact Frame.refl _ _ | decide | with_reducible apply Frame.startUpdate
                   | with_reducible apply Frame.dryUpdate | with_reducible apply Frame.overcurrentUpdate
                   | with_reducible apply Frame.with_wcc | with_reducible apply Frame.with_svp
                   | with_reducible apply Frame.with_handed)))

theorem Frame.takeMargin {l : List Part} {s t : State} {c m} (h : Frame l s t)
    (hl : [Part.wcc] ⊆ l) : Frame l s (t.takeMargin c m) :=
  h.trans (Frame.mono hl (by
    simp only [State.takeMargin]
    repeat' (first | with_reducible exact Frame.refl _ _ | decide | with_reducible apply Frame.setWell
                   | with_reducible apply Frame.with_wcc)))

theorem Frame.endStop {l : List Part} {s t : State} {c} (h : Frame l s t)
    (hl : [Part.wcc, Part.svp, Part.handed] ⊆ l) : Frame l s (t.endStop c) :=
  h.trans (Frame.mono hl (by
    simp only [State.endStop]
    repeat' (first | with_reducible exact Frame.refl _ _ | decide | with_reducible apply Frame.wellChanged
                   | with_reducible apply Frame.setWell | split | with_reducible apply Frame.with_wcc
                   | with_reducible apply Frame.with_svp | with_reducible apply Frame.with_handed)))

theorem Frame.rampExpiry {l : List Part} {s t : State} {c} (h : Frame l s t)
    (hl : [Part.wcc, Part.svp, Part.handed] ⊆ l) : Frame l s (t.rampExpiry c) :=
  h.trans (Frame.mono hl (by
    simp only [State.rampExpiry]
    repeat' (first | with_reducible exact Frame.refl _ _ | decide | with_reducible apply Frame.endStop
                   | with_reducible apply Frame.issueDemand | split | with_reducible apply Frame.with_wcc
                   | with_reducible apply Frame.with_svp | with_reducible apply Frame.with_handed)))

theorem Frame.wellStart {l : List Part} {s t : State} {a c} (h : Frame l s t)
    (hl : [Part.wcc, Part.svp, Part.handed] ⊆ l) : Frame l s ((State.wellStart a c t).1) :=
  h.trans (Frame.mono hl (by
    simp only [State.wellStart, State.unclaimed, State.says]
    repeat' (first | with_reducible exact Frame.refl _ _ | decide | with_reducible apply Frame.wellChanged
                   | with_reducible apply Frame.hand | with_reducible apply Frame.setWell | split
                   | with_reducible apply Frame.with_wcc | with_reducible apply Frame.with_svp
                   | with_reducible apply Frame.with_handed)))

theorem Frame.wellStop {l : List Part} {s t : State} {a c} (h : Frame l s t)
    (hl : [Part.wcc, Part.svp, Part.handed] ⊆ l) : Frame l s ((State.wellStop a c t).1) :=
  h.trans (Frame.mono hl (by
    simp only [State.wellStop, State.says]
    repeat' (first | with_reducible exact Frame.refl _ _ | decide | with_reducible apply Frame.wellChanged
                   | with_reducible apply Frame.hand | with_reducible apply Frame.setWell | split
                   | with_reducible apply Frame.with_wcc | with_reducible apply Frame.with_svp
                   | with_reducible apply Frame.with_handed)))

theorem Frame.wellResetTrip {l : List Part} {s t : State} {a c} (h : Frame l s t)
    (hl : [Part.wcc, Part.svp, Part.handed] ⊆ l) : Frame l s ((State.wellResetTrip a c t).1) :=
  h.trans (Frame.mono hl (by
    simp only [State.wellResetTrip, State.unclaimed, State.says]
    repeat' (first | with_reducible exact Frame.refl _ _ | decide | with_reducible apply Frame.wellChanged
                   | with_reducible apply Frame.hand | with_reducible apply Frame.setWell | split
                   | with_reducible apply Frame.with_wcc | with_reducible apply Frame.with_svp
                   | with_reducible apply Frame.with_handed)))

theorem Frame.wellWeight {l : List Part} {s t : State} {a c v} (h : Frame l s t)
    (hl : [Part.wcc, Part.svp, Part.handed] ⊆ l) : Frame l s ((State.wellWeight a c v t).1) :=
  h.trans (Frame.mono hl (by
    simp only [State.wellWeight, State.unclaimed, State.says]
    repeat' (first | with_reducible exact Frame.refl _ _ | decide | with_reducible apply Frame.wellChanged
                   | with_reducible apply Frame.hand | with_reducible apply Frame.setWell | split
                   | with_reducible apply Frame.with_wcc | with_reducible apply Frame.with_svp
                   | with_reducible apply Frame.with_handed)))

/-- A command to a well channel. -/
theorem Frame.onWell {l : List Part} {s t : State} {k : Nat} {f : WellNo → State → Answer}
    (h : Frame l s t) (hf : ∀ c, Frame l t (f c t).1) : Frame l s (Sys2Proof.Machine.onWell k f t).1 := by
  unfold Sys2Proof.Machine.onWell
  split
  · exact h
  · exact h.trans (hf _)

/-- A request to a sequence slot. -/
theorem Frame.onSlot {l : List Part} {s t : State} {k : Nat} {f : SlotNo → State → Answer}
    (h : Frame l s t) (hf : ∀ c, Frame l t (f c t).1) : Frame l s (Sys2Proof.Machine.onSlot k f t).1 := by
  unfold Sys2Proof.Machine.onSlot
  split
  · exact h
  · exact h.trans (hf _)

/-- An OPERATE of a channel. -/
theorem Frame.operateWell {l : List Part} {s t : State} {k : Nat} {f : WellNo → State → State × Status}
    (h : Frame l s t) (hf : ∀ c, Frame l t (f c t).1) :
    Frame l s (Sys2Proof.Machine.operateWell k f t).1 := by
  unfold Sys2Proof.Machine.operateWell
  split
  · exact h
  · exact h.trans (hf _)

theorem Frame.operateTrip {l : List Part} {s t : State} {c} (h : Frame l s t)
    (hl : [Part.wcc, Part.svp, Part.handed] ⊆ l) : Frame l s ((State.operateTrip c t).1) :=
  h.trans (Frame.mono hl (by
    simp only [State.operateTrip]
    repeat' (first | with_reducible exact Frame.refl _ _ | decide | with_reducible apply Frame.tripWell
                   | split | with_reducible apply Frame.with_wcc | with_reducible apply Frame.with_svp
                   | with_reducible apply Frame.with_handed)))

theorem Frame.operateUnlock {l : List Part} {s t : State} {c} (h : Frame l s t)
    (hl : [Part.wcc, Part.svp, Part.handed] ⊆ l) : Frame l s ((State.operateUnlock c t).1) :=
  h.trans (Frame.mono hl (by
    simp only [State.operateUnlock]
    repeat' (first | with_reducible exact Frame.refl _ _ | decide | with_reducible apply Frame.wellChanged
                   | with_reducible apply Frame.hand | with_reducible apply Frame.setWell | split
                   | with_reducible apply Frame.with_wcc | with_reducible apply Frame.with_svp
                   | with_reducible apply Frame.with_handed)))

theorem Frame.commit {l : List Part} {s t : State} {a b c d x} (h : Frame l s t)
    (hl : [Part.tbc, Part.svp, Part.handed] ⊆ l) : Frame l s (t.commit a b c d x) :=
  h.trans (Frame.mono hl (by
    simp only [State.commit]
    repeat' (first | with_reducible exact Frame.refl _ _ | decide | with_reducible apply Frame.hand
                   | with_reducible apply Frame.notify | with_reducible apply Frame.with_tbc
                   | with_reducible apply Frame.with_svp | with_reducible apply Frame.with_handed)))

theorem Frame.tripTurbine {l : List Part} {s t : State} {k} (h : Frame l s t)
    (hl : [Part.tbc, Part.svp, Part.handed] ⊆ l) : Frame l s (t.tripTurbine k) :=
  h.trans (Frame.mono hl (by
    simp only [State.tripTurbine]
    repeat' (first | with_reducible exact Frame.refl _ _ | decide | with_reducible apply Frame.commit
                   | with_reducible apply Frame.with_tbc | with_reducible apply Frame.with_svp
                   | with_reducible apply Frame.with_handed)))

theorem Frame.enterSync {l : List Part} {s t : State} (h : Frame l s t)
    (hl : [Part.tbc, Part.svp, Part.handed] ⊆ l) : Frame l s (t.enterSync) :=
  h.trans (Frame.mono hl (by
    simp only [State.enterSync]
    repeat' (first | with_reducible exact Frame.refl _ _ | decide | with_reducible apply Frame.commit
                   | with_reducible apply Frame.with_tbc | with_reducible apply Frame.with_svp
                   | with_reducible apply Frame.with_handed)))

theorem Frame.endHold {l : List Part} {s t : State} (h : Frame l s t)
    (hl : [Part.tbc, Part.svp, Part.handed] ⊆ l) : Frame l s (t.endHold) :=
  h.trans (Frame.mono hl (by
    simp only [State.endHold]
    repeat' (first | with_reducible exact Frame.refl _ _ | decide | with_reducible apply Frame.commit
                   | with_reducible apply Frame.with_tbc | with_reducible apply Frame.with_svp
                   | with_reducible apply Frame.with_handed)))

theorem Frame.breakerActs {l : List Part} {s t : State} {b} (h : Frame l s t)
    (hl : [Part.tbc, Part.svp, Part.handed] ⊆ l) : Frame l s (t.breakerActs b) :=
  h.trans (Frame.mono hl (by
    simp only [State.breakerActs]
    repeat' (first | with_reducible exact Frame.refl _ _ | decide | with_reducible apply Frame.commit
                   | with_reducible apply Frame.enterSync | split | with_reducible apply Frame.with_tbc
                   | with_reducible apply Frame.with_svp | with_reducible apply Frame.with_handed)))

theorem Frame.adoptLoaded {l : List Part} {s t : State} {e} (h : Frame l s t)
    (hl : [Part.tbc, Part.svp, Part.handed] ⊆ l) : Frame l s (t.adoptLoaded e) :=
  h.trans (Frame.mono hl (by
    simp only [State.adoptLoaded]
    repeat' (first | with_reducible exact Frame.refl _ _ | decide | with_reducible apply Frame.tripTurbine
                   | with_reducible apply Frame.commit | split | with_reducible apply Frame.with_tbc
                   | with_reducible apply Frame.with_svp | with_reducible apply Frame.with_handed)))

theorem Frame.adoptTurbine {l : List Part} {s t : State} {e} (h : Frame l s t)
    (hl : [Part.tbc, Part.svp, Part.handed] ⊆ l) : Frame l s (t.adoptTurbine e) :=
  h.trans (Frame.mono hl (by
    simp only [State.adoptTurbine]
    repeat' (first | with_reducible exact Frame.refl _ _ | decide | with_reducible apply Frame.tripTurbine
                   | with_reducible apply Frame.adoptLoaded | split | with_reducible apply Frame.with_tbc
                   | with_reducible apply Frame.with_svp | with_reducible apply Frame.with_handed)))

theorem Frame.turbStatus {l : List Part} {s t : State} {e} (h : Frame l s t)
    (hl : [Part.tbc, Part.svp, Part.handed] ⊆ l) : Frame l s (t.turbStatus e) :=
  h.trans (Frame.mono hl (by
    simp only [State.turbStatus]
    repeat' (first | with_reducible exact Frame.refl _ _ | decide | with_reducible apply Frame.adoptTurbine
                   | with_reducible apply Frame.breakerActs | split | with_reducible apply Frame.with_tbc
                   | with_reducible apply Frame.with_svp | with_reducible apply Frame.with_handed)))

theorem Frame.inletUpdate {l : List Part} {s t : State} {u} (h : Frame l s t)
    (hl : [Part.tbc] ⊆ l) : Frame l s (Sys2Proof.Machine.inletUpdate u t) :=
  h.trans (Frame.mono hl (by
    simp only [Sys2Proof.Machine.inletUpdate]
    repeat' (first | with_reducible exact Frame.refl _ _ | decide | split
                   | with_reducible apply Frame.with_tbc)))

theorem Frame.tripUpdate {l : List Part} {s t : State} {u} (h : Frame l s t)
    (hl : [Part.tbc, Part.svp, Part.handed] ⊆ l) : Frame l s (Sys2Proof.Machine.tripUpdate u t) :=
  h.trans (Frame.mono hl (by
    simp only [Sys2Proof.Machine.tripUpdate]
    repeat' (first | with_reducible exact Frame.refl _ _ | decide | with_reducible apply Frame.tripTurbine
                   | with_reducible apply Frame.inletUpdate | split | with_reducible apply Frame.with_tbc
                   | with_reducible apply Frame.with_svp | with_reducible apply Frame.with_handed)))

theorem Frame.bandUpdate {l : List Part} {s t : State} {u} (h : Frame l s t)
    (hl : [Part.tbc] ⊆ l) : Frame l s (Sys2Proof.Machine.bandUpdate u t) :=
  h.trans (Frame.mono hl (by
    simp only [Sys2Proof.Machine.bandUpdate]
    repeat' (first | with_reducible exact Frame.refl _ _ | decide | split
                   | with_reducible apply Frame.with_tbc)))

theorem Frame.followUpdate {l : List Part} {s t : State} {u} (h : Frame l s t)
    (hl : [Part.tbc] ⊆ l) : Frame l s (Sys2Proof.Machine.followUpdate u t) :=
  h.trans (Frame.mono hl (by
    simp only [Sys2Proof.Machine.followUpdate]
    repeat' (first | with_reducible exact Frame.refl _ _ | decide | split
                   | with_reducible apply Frame.with_tbc)))

theorem Frame.mismatchUpdate {l : List Part} {s t : State} {u} (h : Frame l s t)
    (hl : [Part.tbc] ⊆ l) : Frame l s (Sys2Proof.Machine.mismatchUpdate u t) :=
  h.trans (Frame.mono hl (by
    simp only [Sys2Proof.Machine.mismatchUpdate]
    repeat' (first | with_reducible exact Frame.refl _ _ | decide | split
                   | with_reducible apply Frame.with_tbc)))

theorem Frame.testShortfall {l : List Part} {s t : State} {v} (h : Frame l s t)
    (hl : [Part.tbc, Part.svp, Part.handed] ⊆ l) : Frame l s (t.testShortfall v) :=
  h.trans (Frame.mono hl (by
    simp only [State.testShortfall]
    repeat' (first | with_reducible exact Frame.refl _ _ | decide | with_reducible apply Frame.commit | split
                   | with_reducible apply Frame.with_tbc | with_reducible apply Frame.with_svp
                   | with_reducible apply Frame.with_handed)))

theorem Frame.shortfallUpdate {l : List Part} {s t : State} {u} (h : Frame l s t)
    (hl : [Part.tbc, Part.svp, Part.handed] ⊆ l) : Frame l s (Sys2Proof.Machine.shortfallUpdate u t) :=
  h.trans (Frame.mono hl (by
    simp only [Sys2Proof.Machine.shortfallUpdate]
    repeat' (first | with_reducible exact Frame.refl _ _ | decide | with_reducible apply Frame.testShortfall
                   | split | with_reducible apply Frame.with_tbc | with_reducible apply Frame.with_svp
                   | with_reducible apply Frame.with_handed)))

theorem Frame.breakerTest {l : List Part} {s t : State} {v} (h : Frame l s t)
    (hl : [Part.tbc, Part.svp, Part.handed] ⊆ l) : Frame l s (t.breakerTest v) :=
  h.trans (Frame.mono hl (by
    simp only [State.breakerTest]
    repeat' (first | with_reducible exact Frame.refl _ _ | decide | with_reducible apply Frame.commit | split
                   | with_reducible apply Frame.with_tbc | with_reducible apply Frame.with_svp
                   | with_reducible apply Frame.with_handed)))

theorem Frame.genLoadUpdate {l : List Part} {s t : State} {u} (h : Frame l s t)
    (hl : [Part.tbc, Part.svp, Part.handed] ⊆ l) : Frame l s (Sys2Proof.Machine.genLoadUpdate u t) :=
  h.trans (Frame.mono hl (by
    simp only [Sys2Proof.Machine.genLoadUpdate]
    repeat' (first | with_reducible exact Frame.refl _ _ | decide | with_reducible apply Frame.breakerTest
                   | split | with_reducible apply Frame.with_tbc | with_reducible apply Frame.with_svp
                   | with_reducible apply Frame.with_handed)))

theorem Frame.tbcUpdate {l : List Part} {s t : State} {u} (h : Frame l s t)
    (hl : [Part.tbc, Part.svp, Part.handed] ⊆ l) : Frame l s (t.tbcUpdate u) :=
  h.trans (Frame.mono hl (by
    simp only [State.tbcUpdate]
    repeat' (first | with_reducible exact Frame.refl _ _ | decide | with_reducible apply Frame.genLoadUpdate
                   | with_reducible apply Frame.shortfallUpdate | with_reducible apply Frame.mismatchUpdate
                   | with_reducible apply Frame.followUpdate | with_reducible apply Frame.bandUpdate
                   | with_reducible apply Frame.tripUpdate | with_reducible apply Frame.with_tbc
                   | with_reducible apply Frame.with_svp | with_reducible apply Frame.with_handed)))

theorem Frame.recomputeCeiling {l : List Part} {s t : State} (h : Frame l s t)
    (hl : [Part.tbc, Part.svp, Part.handed] ⊆ l) : Frame l s (t.recomputeCeiling) :=
  h.trans (Frame.mono hl (by
    simp only [State.recomputeCeiling]
    repeat' (first | with_reducible exact Frame.refl _ _ | decide | with_reducible apply Frame.commit
                   | with_reducible apply Frame.with_tbc | with_reducible apply Frame.with_svp
                   | with_reducible apply Frame.with_handed)))

theorem Frame.speedStep {l : List Part} {s t : State} (h : Frame l s t)
    (hl : [Part.tbc, Part.svp, Part.handed] ⊆ l) : Frame l s (t.speedStep) :=
  h.trans (Frame.mono hl (by
    simp only [State.speedStep]
    repeat' (first | with_reducible exact Frame.refl _ _ | decide | with_reducible apply Frame.commit
                   | with_reducible apply Frame.with_tbc | with_reducible apply Frame.with_svp
                   | with_reducible apply Frame.with_handed)))

theorem Frame.settleStep {l : List Part} {s t : State} (h : Frame l s t)
    (hl : [Part.tbc, Part.svp, Part.handed] ⊆ l) : Frame l s (t.settleStep) :=
  h.trans (Frame.mono hl (by
    simp only [State.settleStep]
    repeat' (first | with_reducible exact Frame.refl _ _ | decide | with_reducible apply Frame.enterSync
                   | split | with_reducible apply Frame.with_tbc | with_reducible apply Frame.with_svp
                   | with_reducible apply Frame.with_handed)))

theorem Frame.stageStep {l : List Part} {s t : State} {k} (h : Frame l s t)
    (hl : [Part.tbc, Part.svp, Part.handed] ⊆ l) : Frame l s (t.stageStep k) :=
  h.trans (Frame.mono hl (by
    simp only [State.stageStep]
    repeat' (first | with_reducible exact Frame.refl _ _ | decide | with_reducible apply Frame.tripTurbine
                   | split | with_reducible apply Frame.with_tbc | with_reducible apply Frame.with_svp
                   | with_reducible apply Frame.with_handed)))

theorem Frame.runupSecond {l : List Part} {s t : State} (h : Frame l s t)
    (hl : [Part.tbc, Part.svp, Part.handed] ⊆ l) : Frame l s (t.runupSecond) :=
  h.trans (Frame.mono hl (by
    simp only [State.runupSecond]
    repeat' (first | with_reducible exact Frame.refl _ _ | decide | with_reducible apply Frame.stageStep
                   | with_reducible apply Frame.settleStep | with_reducible apply Frame.speedStep | split
                   | with_reducible apply Frame.with_tbc | with_reducible apply Frame.with_svp
                   | with_reducible apply Frame.with_handed)))

theorem Frame.mismatchStep {l : List Part} {s t : State} (h : Frame l s t)
    (hl : [Part.tbc, Part.svp, Part.handed] ⊆ l) : Frame l s (t.mismatchStep.1) :=
  h.trans (Frame.mono hl (by
    simp only [State.mismatchStep]
    repeat' (first | with_reducible exact Frame.refl _ _ | decide | with_reducible apply Frame.tripTurbine
                   | split | with_reducible apply Frame.with_tbc | with_reducible apply Frame.with_svp
                   | with_reducible apply Frame.with_handed)))

theorem Frame.loadStep {l : List Part} {s t : State} (h : Frame l s t)
    (hl : [Part.tbc, Part.svp, Part.handed] ⊆ l) : Frame l s (t.loadStep) :=
  h.trans (Frame.mono hl (by
    simp only [State.loadStep]
    repeat' (first | with_reducible exact Frame.refl _ _ | decide | with_reducible apply Frame.commit
                   | with_reducible apply Frame.with_tbc | with_reducible apply Frame.with_svp
                   | with_reducible apply Frame.with_handed)))

theorem Frame.holdStep {l : List Part} {s t : State} (h : Frame l s t)
    (hl : [Part.tbc, Part.svp, Part.handed] ⊆ l) : Frame l s (t.holdStep) :=
  h.trans (Frame.mono hl (by
    simp only [State.holdStep]
    repeat' (first | with_reducible exact Frame.refl _ _ | decide | with_reducible apply Frame.endHold | split
                   | with_reducible apply Frame.with_tbc | with_reducible apply Frame.with_svp
                   | with_reducible apply Frame.with_handed)))

theorem Frame.unloadStep {l : List Part} {s t : State} (h : Frame l s t)
    (hl : [Part.tbc, Part.svp, Part.handed] ⊆ l) : Frame l s (t.unloadStep) :=
  h.trans (Frame.mono hl (by
    simp only [State.unloadStep]
    repeat' (first | with_reducible exact Frame.refl _ _ | decide | with_reducible apply Frame.breakerTest
                   | with_reducible apply Frame.commit | with_reducible apply Frame.with_tbc
                   | with_reducible apply Frame.with_svp | with_reducible apply Frame.with_handed)))

theorem Frame.loadSecond {l : List Part} {s t : State} (h : Frame l s t)
    (hl : [Part.tbc, Part.svp, Part.handed] ⊆ l) : Frame l s (t.loadSecond) :=
  h.trans (Frame.mono hl (by
    simp only [State.loadSecond]
    repeat' (first | with_reducible exact Frame.refl _ _ | decide | with_reducible apply Frame.mismatchStep
                   | with_reducible apply Frame.loadStep | with_reducible apply Frame.holdStep
                   | with_reducible apply Frame.unloadStep | split | with_reducible apply Frame.with_tbc
                   | with_reducible apply Frame.with_svp | with_reducible apply Frame.with_handed)))

theorem Frame.warmSecond {l : List Part} {s t : State} (h : Frame l s t)
    (hl : [Part.tbc, Part.svp, Part.handed] ⊆ l) : Frame l s (t.warmSecond) :=
  h.trans (Frame.mono hl (by
    simp only [State.warmSecond]
    repeat' (first | with_reducible exact Frame.refl _ _ | decide | with_reducible apply Frame.mismatchStep
                   | split | with_reducible apply Frame.with_tbc | with_reducible apply Frame.with_svp
                   | with_reducible apply Frame.with_handed)))

theorem Frame.turbStart {l : List Part} {s t : State} {a} (h : Frame l s t)
    (hl : [Part.tbc, Part.svp, Part.handed] ⊆ l) : Frame l s ((State.turbStart a t).1) :=
  h.trans (Frame.mono hl (by
    simp only [State.turbStart, State.unclaimed, State.says]
    repeat' (first | with_reducible exact Frame.refl _ _ | decide | with_reducible apply Frame.commit | split
                   | with_reducible apply Frame.with_tbc | with_reducible apply Frame.with_svp
                   | with_reducible apply Frame.with_handed)))

theorem Frame.turbStop {l : List Part} {s t : State} {a} (h : Frame l s t)
    (hl : [Part.tbc, Part.svp, Part.handed] ⊆ l) : Frame l s ((State.turbStop a t).1) :=
  h.trans (Frame.mono hl (by
    simp only [State.turbStop, State.turbStopped, State.says]
    repeat' (first | with_reducible exact Frame.refl _ _ | decide | with_reducible apply Frame.hand
                   | with_reducible apply Frame.commit | split | with_reducible apply Frame.with_tbc
                   | with_reducible apply Frame.with_svp | with_reducible apply Frame.with_handed)))

theorem Frame.turbLoad {l : List Part} {s t : State} {a v} (h : Frame l s t)
    (hl : [Part.tbc, Part.svp, Part.handed] ⊆ l) : Frame l s ((State.turbLoad a v t).1) :=
  h.trans (Frame.mono hl (by
    simp only [State.turbLoad, State.unclaimed, State.says]
    repeat' (first | with_reducible exact Frame.refl _ _ | decide | with_reducible apply Frame.commit | split
                   | with_reducible apply Frame.with_tbc | with_reducible apply Frame.with_svp
                   | with_reducible apply Frame.with_handed)))

theorem Frame.operateTurbTrip {l : List Part} {s t : State} (h : Frame l s t)
    (hl : [Part.tbc, Part.svp, Part.handed] ⊆ l) : Frame l s ((State.operateTurbTrip t).1) :=
  h.trans (Frame.mono hl (by
    simp only [State.operateTurbTrip]
    repeat' (first | with_reducible exact Frame.refl _ _ | decide | with_reducible apply Frame.tripTurbine
                   | split | with_reducible apply Frame.with_tbc | with_reducible apply Frame.with_svp
                   | with_reducible apply Frame.with_handed)))

theorem Frame.operateTurbReset {l : List Part} {s t : State} (h : Frame l s t)
    (hl : [Part.tbc, Part.svp, Part.handed] ⊆ l) : Frame l s ((State.operateTurbReset t).1) :=
  h.trans (Frame.mono hl (by
    simp only [State.operateTurbReset]
    repeat' (first | with_reducible exact Frame.refl _ _ | decide | with_reducible apply Frame.commit | split
                   | with_reducible apply Frame.with_tbc | with_reducible apply Frame.with_svp
                   | with_reducible apply Frame.with_handed)))

theorem Frame.ratedLoadTaken {l : List Part} {s t : State} (h : Frame l s t)
    (hl : [Part.tbc, Part.svp, Part.handed] ⊆ l) : Frame l s (t.ratedLoadTaken) :=
  h.trans (Frame.mono hl (by
    simp only [State.ratedLoadTaken]
    repeat' (first | with_reducible exact Frame.refl _ _ | decide | with_reducible apply Frame.commit
                   | with_reducible apply Frame.with_tbc | with_reducible apply Frame.with_svp
                   | with_reducible apply Frame.with_handed)))

theorem Frame.steamRateTaken {l : List Part} {s t : State} (h : Frame l s t)
    (hl : [Part.tbc, Part.svp, Part.handed] ⊆ l) : Frame l s (t.steamRateTaken) :=
  h.trans (Frame.mono hl (by
    simp only [State.steamRateTaken]
    repeat' (first | with_reducible exact Frame.refl _ _ | decide
                   | with_reducible apply Frame.recomputeCeiling | with_reducible apply Frame.with_tbc
                   | with_reducible apply Frame.with_svp | with_reducible apply Frame.with_handed)))

theorem Frame.warmSteamTaken {l : List Part} {s t : State} (h : Frame l s t)
    (hl : [Part.tbc, Part.svp, Part.handed] ⊆ l) : Frame l s (t.warmSteamTaken) :=
  h.trans (Frame.mono hl (by
    simp only [State.warmSteamTaken]
    repeat' (first | with_reducible exact Frame.refl _ _ | decide | with_reducible apply Frame.commit
                   | with_reducible apply Frame.with_tbc | with_reducible apply Frame.with_svp
                   | with_reducible apply Frame.with_handed)))

theorem Frame.planned {l : List Part} {s t : State} {p} (h : Frame l s t)
    (hl : [Part.bbu] ⊆ l) : Frame l s (t.planned p) :=
  h.trans (Frame.mono hl (by
    simp only [State.planned]
    repeat' (first | with_reducible exact Frame.refl _ _ | decide | with_reducible apply Frame.with_bbu)))

theorem Frame.allocate {l : List Part} {s t : State} (h : Frame l s t)
    (hl : [Part.bbu, Part.handed] ⊆ l) : Frame l s (t.allocate) :=
  h.trans (Frame.mono hl (by
    simp only [State.allocate]
    repeat' (first | with_reducible exact Frame.refl _ _ | decide | with_reducible apply Frame.hand
                   | with_reducible apply Frame.planned | with_reducible apply Frame.with_bbu
                   | with_reducible apply Frame.with_handed)))

theorem Frame.ceilingAnew {l : List Part} {s t : State} (h : Frame l s t)
    (hl : [Part.bbu, Part.handed] ⊆ l) : Frame l s (t.ceilingAnew) :=
  h.trans (Frame.mono hl (by
    simp only [State.ceilingAnew]
    repeat' (first | with_reducible exact Frame.refl _ _ | decide | with_reducible apply Frame.allocate
                   | with_reducible apply Frame.with_bbu | with_reducible apply Frame.with_handed)))

theorem Frame.testFastDown {l : List Part} {s t : State} (h : Frame l s t)
    (hl : [Part.bbu] ⊆ l) : Frame l s (t.testFastDown) :=
  h.trans (Frame.mono hl (by
    simp only [State.testFastDown]
    repeat' (first | with_reducible exact Frame.refl _ _ | decide | split
                   | with_reducible apply Frame.with_bbu)))

theorem Frame.reckon {l : List Part} {s t : State} (h : Frame l s t)
    (hl : [Part.bbu] ⊆ l) : Frame l s (t.reckon) :=
  h.trans (Frame.mono hl (by
    simp only [State.reckon]
    repeat' (first | with_reducible exact Frame.refl _ _ | decide | with_reducible apply Frame.testFastDown
                   | split | with_reducible apply Frame.with_bbu)))

theorem Frame.reckonCeiling {l : List Part} {s t : State} (h : Frame l s t)
    (hl : [Part.bbu, Part.handed] ⊆ l) : Frame l s (t.reckonCeiling) :=
  h.trans (Frame.mono hl (by
    simp only [State.reckonCeiling]
    repeat' (first | with_reducible exact Frame.refl _ _ | decide | with_reducible apply Frame.ceilingAnew
                   | with_reducible apply Frame.reckon | split | with_reducible apply Frame.with_bbu
                   | with_reducible apply Frame.with_handed)))

theorem Frame.turbineChanged {l : List Part} {s t : State} {x} (h : Frame l s t)
    (hl : [Part.bbu, Part.handed] ⊆ l) : Frame l s (t.turbineChanged x) :=
  h.trans (Frame.mono hl (by
    simp only [State.turbineChanged]
    repeat' (first | with_reducible exact Frame.refl _ _ | decide | with_reducible apply Frame.reckonCeiling
                   | split | with_reducible apply Frame.with_bbu | with_reducible apply Frame.with_handed)))

theorem Frame.setHold {l : List Part} {s t : State} {a b c} (h : Frame l s t)
    (hl : [Part.bbu, Part.svp, Part.handed] ⊆ l) : Frame l s (t.setHold a b c) :=
  h.trans (Frame.mono hl (by
    simp only [State.setHold]
    repeat' (first | with_reducible exact Frame.refl _ _ | decide | with_reducible apply Frame.ceilingAnew
                   | with_reducible apply Frame.hand | with_reducible apply Frame.notify | split
                   | with_reducible apply Frame.with_bbu | with_reducible apply Frame.with_svp
                   | with_reducible apply Frame.with_handed)))

theorem Frame.setTankHigh {l : List Part} {s t : State} {a} (h : Frame l s t)
    (hl : [Part.bbu] ⊆ l) : Frame l s (t.setTankHigh a) :=
  h.trans (Frame.mono hl (by
    simp only [State.setTankHigh]
    repeat' (first | with_reducible exact Frame.refl _ _ | decide | with_reducible apply Frame.with_bbu)))

theorem Frame.takeLevel {l : List Part} {s t : State} {v} (h : Frame l s t)
    (hl : [Part.bbu, Part.svp, Part.handed] ⊆ l) : Frame l s (t.takeLevel v) :=
  h.trans (Frame.mono hl (by
    simp only [State.takeLevel]
    repeat' (first | with_reducible exact Frame.refl _ _ | decide | with_reducible apply Frame.setHold
                   | with_reducible apply Frame.setTankHigh | split | with_reducible apply Frame.with_bbu
                   | with_reducible apply Frame.with_svp | with_reducible apply Frame.with_handed)))

theorem Frame.freezeHold {l : List Part} {s t : State} (h : Frame l s t)
    (hl : [Part.bbu, Part.svp, Part.handed] ⊆ l) : Frame l s (t.freezeHold) :=
  h.trans (Frame.mono hl (by
    simp only [State.freezeHold]
    repeat' (first | with_reducible exact Frame.refl _ _ | decide | with_reducible apply Frame.setHold | split
                   | with_reducible apply Frame.with_bbu | with_reducible apply Frame.with_svp
                   | with_reducible apply Frame.with_handed)))

theorem Frame.noteXoff {l : List Part} {s t : State} (h : Frame l s t)
    (hl : [Part.bbu] ⊆ l) : Frame l s t.noteXoff := h.with_bbu hl

theorem Frame.bbuUpdate {l : List Part} {s t : State} {u} (h : Frame l s t)
    (hl : [Part.bbu, Part.svp, Part.handed] ⊆ l) : Frame l s (t.bbuUpdate u) :=
  h.trans (Frame.mono hl (by
    simp only [State.bbuUpdate]
    repeat' (first | with_reducible exact Frame.refl _ _ | decide | with_reducible apply Frame.takeLevel
                   | with_reducible apply Frame.noteXoff | with_reducible apply Frame.freezeHold | split | with_reducible apply Frame.with_bbu
                   | with_reducible apply Frame.with_svp | with_reducible apply Frame.with_handed)))

theorem Frame.holdExpiry {l : List Part} {s t : State} (h : Frame l s t)
    (hl : [Part.bbu, Part.handed] ⊆ l) : Frame l s (t.holdExpiry) :=
  h.trans (Frame.mono hl (by
    simp only [State.holdExpiry]
    repeat' (first | with_reducible exact Frame.refl _ _ | decide | with_reducible apply Frame.ceilingAnew
                   | split | with_reducible apply Frame.with_bbu | with_reducible apply Frame.with_handed)))

theorem Frame.balMode {l : List Part} {s t : State} {a m} (h : Frame l s t)
    (hl : [Part.bbu, Part.svp, Part.handed] ⊆ l) : Frame l s ((State.balMode a m t).1) :=
  h.trans (Frame.mono hl (by
    simp only [State.balMode, State.unclaimed, State.says]
    repeat' (first | with_reducible exact Frame.refl _ _ | decide | with_reducible apply Frame.ceilingAnew
                   | with_reducible apply Frame.reckon | with_reducible apply Frame.hand
                   | with_reducible apply Frame.notify | split | with_reducible apply Frame.with_bbu
                   | with_reducible apply Frame.with_svp | with_reducible apply Frame.with_handed)))

theorem Frame.balFixed {l : List Part} {s t : State} {a v} (h : Frame l s t)
    (hl : [Part.bbu, Part.svp, Part.handed] ⊆ l) : Frame l s ((State.balFixed a v t).1) :=
  h.trans (Frame.mono hl (by
    simp only [State.balFixed, State.unclaimed, State.says]
    repeat' (first | with_reducible exact Frame.refl _ _ | decide | with_reducible apply Frame.ceilingAnew
                   | with_reducible apply Frame.reckon | split | with_reducible apply Frame.with_bbu
                   | with_reducible apply Frame.with_svp | with_reducible apply Frame.with_handed)))

theorem Frame.requirementTaken {l : List Part} {s t : State} (h : Frame l s t)
    (hl : [Part.bbu, Part.handed] ⊆ l) : Frame l s (t.requirementTaken) :=
  h.trans (Frame.mono hl (by
    simp only [State.requirementTaken]
    repeat' (first | with_reducible exact Frame.refl _ _ | decide | with_reducible apply Frame.ceilingAnew
                   | with_reducible apply Frame.reckon | with_reducible apply Frame.with_bbu
                   | with_reducible apply Frame.with_handed)))

theorem Frame.minFlowTaken {l : List Part} {s t : State} {c} (h : Frame l s t)
    (hl : [Part.bbu, Part.handed] ⊆ l) : Frame l s (t.minFlowTaken c) :=
  h.trans (Frame.mono hl (by
    simp only [State.minFlowTaken]
    repeat' (first | with_reducible exact Frame.refl _ _ | decide | with_reducible apply Frame.allocate
                   | split | with_reducible apply Frame.with_bbu | with_reducible apply Frame.with_handed)))

theorem Frame.maxFlowTaken {l : List Part} {s t : State} {c} (h : Frame l s t)
    (hl : [Part.bbu, Part.handed] ⊆ l) : Frame l s (t.maxFlowTaken c) :=
  h.trans (Frame.mono hl (by
    simp only [State.maxFlowTaken]
    repeat' (first | with_reducible exact Frame.refl _ _ | decide | with_reducible apply Frame.allocate
                   | with_reducible apply Frame.ceilingAnew | split | with_reducible apply Frame.with_bbu
                   | with_reducible apply Frame.with_handed)))

theorem Frame.setStation {l : List Part} {s t : State} {e f} (h : Frame l s t)
    (hl : [Part.flc] ⊆ l) : Frame l s (t.setStation e f) :=
  h.trans (Frame.mono hl (by
    simp only [State.setStation]
    repeat' (first | with_reducible exact Frame.refl _ _ | decide | with_reducible apply Frame.with_flc)))

theorem Frame.placeSetAt {l : List Part} {s t : State} {e o} (h : Frame l s t)
    (hl : [Part.flc] ⊆ l) : Frame l s (t.placeSetAt e o) :=
  h.trans (Frame.mono hl (by
    simp only [State.placeSetAt]
    repeat' (first | with_reducible exact Frame.refl _ _ | decide | with_reducible apply Frame.setStation
                   | with_reducible apply Frame.with_flc)))

theorem Frame.startExchange {l : List Part} {s t : State} {a b c} (h : Frame l s t)
    (hl : [Part.flc] ⊆ l) : Frame l s (t.startExchange a b c) :=
  h.trans (Frame.mono hl (by
    simp only [State.startExchange]
    repeat' (first | with_reducible exact Frame.refl _ _ | decide | with_reducible apply Frame.with_flc)))

theorem Frame.startTrip {l : List Part} {s t : State} {a} (h : Frame l s t)
    (hl : [Part.flc] ⊆ l) : Frame l s (t.startTrip a) :=
  h.trans (Frame.mono hl (by
    simp only [State.startTrip]
    repeat' (first | with_reducible exact Frame.refl _ _ | decide | with_reducible apply Frame.startExchange
                   | with_reducible apply Frame.with_flc)))

theorem Frame.startSet {l : List Part} {s t : State} {a} (h : Frame l s t)
    (hl : [Part.flc] ⊆ l) : Frame l s (t.startSet a) :=
  h.trans (Frame.mono hl (by
    simp only [State.startSet]
    repeat' (first | with_reducible exact Frame.refl _ _ | decide | with_reducible apply Frame.startExchange
                   | with_reducible apply Frame.with_flc)))

theorem Frame.startPoll {l : List Part} {s t : State} {a b} (h : Frame l s t)
    (hl : [Part.flc] ⊆ l) : Frame l s (t.startPoll a b) :=
  h.trans (Frame.mono hl (by
    simp only [State.startPoll]
    repeat' (first | with_reducible exact Frame.refl _ _ | decide | with_reducible apply Frame.startExchange
                   | with_reducible apply Frame.with_flc)))

theorem Frame.choosePoll {l : List Part} {s t : State} (h : Frame l s t)
    (hl : [Part.flc] ⊆ l) : Frame l s (t.choosePoll) :=
  h.trans (Frame.mono hl (by
    simp only [State.choosePoll]
    repeat' (first | with_reducible exact Frame.refl _ _ | decide | with_reducible apply Frame.startPoll
                   | with_reducible apply Frame.startSet | split | with_reducible apply Frame.with_flc)))

theorem Frame.chooseWithin {l : List Part} {s t : State} (h : Frame l s t)
    (hl : [Part.flc] ⊆ l) : Frame l s (t.chooseWithin) :=
  h.trans (Frame.mono hl (by
    simp only [State.chooseWithin]
    repeat' (first | with_reducible exact Frame.refl _ _ | decide | with_reducible apply Frame.choosePoll
                   | with_reducible apply Frame.startSet | split | with_reducible apply Frame.with_flc)))

theorem Frame.arbitrate {l : List Part} {s t : State} (h : Frame l s t)
    (hl : [Part.flc] ⊆ l) : Frame l s (t.arbitrate) :=
  h.trans (Frame.mono hl (by
    simp only [State.arbitrate]
    repeat' (first | with_reducible exact Frame.refl _ _ | decide | with_reducible apply Frame.chooseWithin
                   | with_reducible apply Frame.startTrip | split | with_reducible apply Frame.with_flc)))

theorem Frame.retire {l : List Part} {s t : State} {a b} (h : Frame l s t)
    (hl : [Part.flc, Part.handed] ⊆ l) : Frame l s (t.retire a b) :=
  h.trans (Frame.mono hl (by
    simp only [State.retire]
    repeat' (first | with_reducible exact Frame.refl _ _ | decide | with_reducible apply Frame.hand
                   | with_reducible apply Frame.setStation | with_reducible apply Frame.with_flc
                   | with_reducible apply Frame.with_handed)))

theorem Frame.retireAll {l : List Part} {s t : State} {a} (h : Frame l s t)
    (hl : [Part.flc, Part.handed] ⊆ l) : Frame l s (t.retireAll a) :=
  h.trans (Frame.mono hl (by
    unfold State.retireAll
    exact Frame.fold _ _ (Frame.refl _ t) fun u x => (Frame.refl _ u).retire (by decide)))

theorem Frame.retireWaiting {l : List Part} {s t : State} {a} (h : Frame l s t)
    (hl : [Part.flc, Part.handed] ⊆ l) : Frame l s (t.retireWaiting a) :=
  h.trans (Frame.mono hl (by
    simp only [State.retireWaiting]
    repeat' (first | with_reducible exact Frame.refl _ _ | decide | with_reducible apply Frame.retireAll
                   | with_reducible apply Frame.with_flc | with_reducible apply Frame.with_handed)))

theorem Frame.retireStation {l : List Part} {s t : State} {a b} (h : Frame l s t)
    (hl : [Part.flc, Part.handed] ⊆ l) : Frame l s (t.retireStation a b) :=
  h.trans (Frame.mono hl (by
    simp only [State.retireStation]
    repeat' (first | with_reducible exact Frame.refl _ _ | decide | with_reducible apply Frame.retire | split
                   | with_reducible apply Frame.with_flc | with_reducible apply Frame.with_handed)))

theorem Frame.goodQueues {l : List Part} {s t : State} {f} (h : Frame l s t)
    (hl : [Part.flc] ⊆ l) : Frame l s (t.goodQueues f) :=
  h.trans (Frame.mono hl (by
    simp only [State.goodQueues]
    repeat' (first | with_reducible exact Frame.refl _ _ | decide | split
                   | with_reducible apply Frame.with_flc)))

theorem Frame.exchangeGood {l : List Part} {s t : State} {a b c} (h : Frame l s t)
    (hl : [Part.flc, Part.handed] ⊆ l) : Frame l s (t.exchangeGood a b c) :=
  h.trans (Frame.mono hl (by
    simp only [State.exchangeGood]
    repeat' (first | with_reducible exact Frame.refl _ _ | decide | with_reducible apply Frame.hand
                   | with_reducible apply Frame.setStation | with_reducible apply Frame.goodQueues
                   | with_reducible apply Frame.with_flc | with_reducible apply Frame.with_handed)))

theorem Frame.declareLost {l : List Part} {s t : State} {a b} (h : Frame l s t)
    (hl : [Part.flc, Part.handed] ⊆ l) : Frame l s (t.declareLost a b) :=
  h.trans (Frame.mono hl (by
    simp only [State.declareLost]
    repeat' (first | with_reducible exact Frame.refl _ _ | decide | with_reducible apply Frame.hand
                   | with_reducible apply Frame.setStation | with_reducible apply Frame.with_flc
                   | with_reducible apply Frame.with_handed)))

theorem Frame.exchangeFailed {l : List Part} {s t : State} {a b} (h : Frame l s t)
    (hl : [Part.flc, Part.handed] ⊆ l) : Frame l s (t.exchangeFailed a b) :=
  h.trans (Frame.mono hl (by
    simp only [State.exchangeFailed]
    repeat' (first | with_reducible exact Frame.refl _ _ | decide | with_reducible apply Frame.declareLost
                   | with_reducible apply Frame.hand | with_reducible apply Frame.setStation | split
                   | with_reducible apply Frame.with_flc | with_reducible apply Frame.with_handed)))

theorem Frame.endExchange {l : List Part} {s t : State} {a b c d} (h : Frame l s t)
    (hl : [Part.flc, Part.handed] ⊆ l) : Frame l s (t.endExchange a b c d) :=
  h.trans (Frame.mono hl (by
    simp only [State.endExchange]
    repeat' (first | with_reducible exact Frame.refl _ _ | decide | with_reducible apply Frame.arbitrate
                   | with_reducible apply Frame.retireWaiting | with_reducible apply Frame.exchangeGood
                   | with_reducible apply Frame.exchangeFailed | with_reducible apply Frame.hand | split
                   | with_reducible apply Frame.with_flc | with_reducible apply Frame.with_handed)))

theorem Frame.nextSlot {l : List Part} {s t : State} (h : Frame l s t)
    (hl : [Part.flc] ⊆ l) : Frame l s (t.nextSlot) :=
  h.trans (Frame.mono hl (by
    simp only [State.nextSlot]
    repeat' (first | with_reducible exact Frame.refl _ _ | decide | with_reducible apply Frame.with_flc)))

theorem Frame.setSlot {l : List Part} {s t : State} {a b} (h : Frame l s t)
    (hl : [Part.sqr] ⊆ l) : Frame l s (t.setSlot a b) :=
  h.trans (Frame.mono hl (by
    simp only [State.setSlot]
    repeat' (first | with_reducible exact Frame.refl _ _ | decide | with_reducible apply Frame.with_sqr)))

theorem Frame.moveSlot {l : List Part} {s t : State} {a b} (h : Frame l s t)
    (hl : [Part.sqr, Part.svp] ⊆ l) : Frame l s (t.moveSlot a b) :=
  h.trans (Frame.mono hl (by
    simp only [State.moveSlot]
    repeat' (first | with_reducible exact Frame.refl _ _ | decide | with_reducible apply Frame.notify
                   | with_reducible apply Frame.setSlot | with_reducible apply Frame.with_sqr
                   | with_reducible apply Frame.with_svp)))

theorem Frame.nextStep {l : List Part} {s t : State} {a} (h : Frame l s t)
    (hl : [Part.handed] ⊆ l) : Frame l s (t.nextStep a) :=
  h.trans (Frame.mono hl (by
    simp only [State.nextStep]
    repeat' (first | with_reducible exact Frame.refl _ _ | decide | with_reducible apply Frame.hand | split
                   | with_reducible apply Frame.with_handed)))

theorem Frame.runAt {l : List Part} {s t : State} {a b} (h : Frame l s t)
    (hl : [Part.sqr, Part.svp, Part.handed] ⊆ l) : Frame l s (t.runAt a b) :=
  h.trans (Frame.mono hl (by
    simp only [State.runAt]
    repeat' (first | with_reducible exact Frame.refl _ _ | decide | with_reducible apply Frame.nextStep
                   | with_reducible apply Frame.moveSlot | with_reducible apply Frame.with_sqr
                   | with_reducible apply Frame.with_svp | with_reducible apply Frame.with_handed)))

theorem Frame.finishSlot {l : List Part} {s t : State} {a} (h : Frame l s t)
    (hl : [Part.sqr, Part.svp] ⊆ l) : Frame l s (t.finishSlot a) :=
  h.trans (Frame.mono hl (by
    simp only [State.finishSlot]
    repeat' (first | with_reducible exact Frame.refl _ _ | decide | with_reducible apply Frame.moveSlot
                   | with_reducible apply Frame.with_sqr | with_reducible apply Frame.with_svp)))

theorem Frame.advance {l : List Part} {s t : State} {a} (h : Frame l s t)
    (hl : [Part.sqr, Part.svp, Part.handed] ⊆ l) : Frame l s (t.advance a) :=
  h.trans (Frame.mono hl (by
    simp only [State.advance]
    repeat' (first | with_reducible exact Frame.refl _ _ | decide | with_reducible apply Frame.runAt
                   | with_reducible apply Frame.finishSlot | split | with_reducible apply Frame.with_sqr
                   | with_reducible apply Frame.with_svp | with_reducible apply Frame.with_handed)))

theorem Frame.recordFailure {l : List Part} {s t : State} {a b} (h : Frame l s t)
    (hl : [Part.sqr] ⊆ l) : Frame l s (t.recordFailure a b) :=
  h.trans (Frame.mono hl (by
    simp only [State.recordFailure]
    repeat' (first | with_reducible exact Frame.refl _ _ | decide | with_reducible apply Frame.setSlot
                   | with_reducible apply Frame.with_sqr)))

theorem Frame.handledNotice {l : List Part} {s t : State} {a} (h : Frame l s t)
    (hl : [Part.svp] ⊆ l) : Frame l s (t.handledNotice a) :=
  h.trans (Frame.mono hl (by
    simp only [State.handledNotice]
    repeat' (first | with_reducible exact Frame.refl _ _ | decide | with_reducible apply Frame.notify
                   | with_reducible apply Frame.with_svp)))

theorem Frame.failStep {l : List Part} {s t : State} {a b} (h : Frame l s t)
    (hl : [Part.sqr, Part.svp, Part.handed] ⊆ l) : Frame l s (t.failStep a b) :=
  h.trans (Frame.mono hl (by
    simp only [State.failStep]
    repeat' (first | with_reducible exact Frame.refl _ _ | decide | with_reducible apply Frame.moveSlot
                   | with_reducible apply Frame.advance | with_reducible apply Frame.runAt
                   | with_reducible apply Frame.handledNotice | with_reducible apply Frame.recordFailure
                   | split | with_reducible apply Frame.with_sqr | with_reducible apply Frame.with_svp
                   | with_reducible apply Frame.with_handed)))

theorem Frame.beginWait {l : List Part} {s t : State} {a b} (h : Frame l s t)
    (hl : [Part.sqr, Part.svp, Part.handed] ⊆ l) : Frame l s (t.beginWait a b) :=
  h.trans (Frame.mono hl (by
    simp only [State.beginWait]
    repeat' (first | with_reducible exact Frame.refl _ _ | decide | with_reducible apply Frame.advance
                   | with_reducible apply Frame.moveSlot | split | with_reducible apply Frame.with_sqr
                   | with_reducible apply Frame.with_svp | with_reducible apply Frame.with_handed)))

theorem Frame.issueStep {l : List Part} {s t : State} {k x} (h : Frame l s t)
    (hl : [Part.svp, Part.handed, Part.hxc, Part.wcc, Part.tbc, Part.bbu] ⊆ l) : Frame l s ((t.issueStep k x).1) :=
  h.trans (Frame.mono hl (by
    unfold State.issueStep
    split
    · exact (Frame.refl _ t).onWell fun c => (Frame.refl _ t).wellStart (by decide)
    · exact (Frame.refl _ t).onWell fun c => (Frame.refl _ t).wellStop (by decide)
    · exact (Frame.refl _ t).onWell fun c => (Frame.refl _ t).wellWeight (by decide)
    · exact (Frame.refl _ t).balMode (by decide)
    · exact (Frame.refl _ t).turbStart (by decide)
    · exact (Frame.refl _ t).turbLoad (by decide)
    · exact (Frame.refl _ t).turbStop (by decide)
    · exact (Frame.refl _ t).hxOn (by decide)
    · exact (Frame.refl _ t).hxOff (by decide)
    · exact (Frame.refl _ t).hxOffset (by decide)
    · exact Frame.refl _ t))

theorem Frame.takeCommand {l : List Part} {s t : State} {k x} (h : Frame l s t)
    (hl : [Part.svp, Part.handed, Part.hxc, Part.wcc, Part.tbc, Part.bbu, Part.sqr] ⊆ l) : Frame l s (t.takeCommand k x) :=
  h.trans (Frame.mono hl (by
    simp only [State.takeCommand]
    repeat' (first | with_reducible exact Frame.refl _ _ | decide | with_reducible apply Frame.advance
                   | with_reducible apply Frame.failStep | with_reducible apply Frame.issueStep | split
                   | with_reducible apply Frame.with_svp | with_reducible apply Frame.with_handed
                   | with_reducible apply Frame.with_hxc | with_reducible apply Frame.with_wcc
                   | with_reducible apply Frame.with_tbc | with_reducible apply Frame.with_bbu
                   | with_reducible apply Frame.with_sqr)))

theorem Frame.slotQtyUpdate {l : List Part} {s t : State} {u k} (h : Frame l s t)
    (hl : [Part.sqr, Part.svp, Part.handed] ⊆ l) : Frame l s (Sys2Proof.Machine.slotQtyUpdate u t k) :=
  h.trans (Frame.mono hl (by
    simp only [Sys2Proof.Machine.slotQtyUpdate]
    repeat' (first | with_reducible exact Frame.refl _ _ | decide | with_reducible apply Frame.advance | split
                   | with_reducible apply Frame.with_sqr | with_reducible apply Frame.with_svp
                   | with_reducible apply Frame.with_handed)))

theorem Frame.slotStateChange {l : List Part} {s t : State} {a b k} (h : Frame l s t)
    (hl : [Part.sqr, Part.svp, Part.handed] ⊆ l) : Frame l s (Sys2Proof.Machine.slotStateChange a b t k) :=
  h.trans (Frame.mono hl (by
    simp only [Sys2Proof.Machine.slotStateChange]
    repeat' (first | with_reducible exact Frame.refl _ _ | decide | with_reducible apply Frame.advance | split
                   | with_reducible apply Frame.with_sqr | with_reducible apply Frame.with_svp
                   | with_reducible apply Frame.with_handed)))

theorem Frame.slotTripStop {l : List Part} {s t : State} {a b c k} (h : Frame l s t)
    (hl : [Part.sqr, Part.svp, Part.handed] ⊆ l) : Frame l s (Sys2Proof.Machine.slotTripStop a b c t k) :=
  h.trans (Frame.mono hl (by
    simp only [Sys2Proof.Machine.slotTripStop]
    repeat' (first | with_reducible exact Frame.refl _ _ | decide | with_reducible apply Frame.failStep
                   | with_reducible apply Frame.setSlot | split | with_reducible apply Frame.with_sqr
                   | with_reducible apply Frame.with_svp | with_reducible apply Frame.with_handed)))

theorem Frame.timerOut {l : List Part} {s t : State} {k} (h : Frame l s t)
    (hl : [Part.sqr, Part.svp, Part.handed] ⊆ l) : Frame l s (t.timerOut k) :=
  h.trans (Frame.mono hl (by
    simp only [State.timerOut]
    repeat' (first | with_reducible exact Frame.refl _ _ | decide | with_reducible apply Frame.failStep
                   | with_reducible apply Frame.advance | split | with_reducible apply Frame.with_sqr
                   | with_reducible apply Frame.with_svp | with_reducible apply Frame.with_handed)))

theorem Frame.slotSecond {l : List Part} {s t : State} {k} (h : Frame l s t)
    (hl : [Part.sqr, Part.svp, Part.handed] ⊆ l) : Frame l s (Sys2Proof.Machine.slotSecond t k) :=
  h.trans (Frame.mono hl (by
    simp only [Sys2Proof.Machine.slotSecond]
    repeat' (first | with_reducible exact Frame.refl _ _ | decide | with_reducible apply Frame.timerOut
                   | with_reducible apply Frame.setSlot | split | with_reducible apply Frame.with_sqr
                   | with_reducible apply Frame.with_svp | with_reducible apply Frame.with_handed)))

theorem Frame.seqLoad {l : List Part} {s t : State} {a k} (h : Frame l s t)
    (hl : [Part.sqr, Part.svp] ⊆ l) : Frame l s ((State.seqLoad a k t).1) :=
  h.trans (Frame.mono hl (by
    simp only [State.seqLoad, State.says]
    repeat' (first | with_reducible exact Frame.refl _ _ | decide | with_reducible apply Frame.moveSlot
                   | split | with_reducible apply Frame.with_sqr | with_reducible apply Frame.with_svp)))

theorem Frame.seqRun {l : List Part} {s t : State} {k} (h : Frame l s t)
    (hl : [Part.sqr, Part.svp, Part.handed] ⊆ l) : Frame l s ((State.seqRun k t).1) :=
  h.trans (Frame.mono hl (by
    simp only [State.seqRun, State.says]
    repeat' (first | with_reducible exact Frame.refl _ _ | decide | with_reducible apply Frame.nextStep
                   | with_reducible apply Frame.moveSlot | split | with_reducible apply Frame.with_sqr
                   | with_reducible apply Frame.with_svp | with_reducible apply Frame.with_handed)))

theorem Frame.seqSuspend {l : List Part} {s t : State} {k} (h : Frame l s t)
    (hl : [Part.sqr, Part.svp] ⊆ l) : Frame l s ((State.seqSuspend k t).1) :=
  h.trans (Frame.mono hl (by
    simp only [State.seqSuspend, State.says]
    repeat' (first | with_reducible exact Frame.refl _ _ | decide | with_reducible apply Frame.moveSlot
                   | split | with_reducible apply Frame.with_sqr | with_reducible apply Frame.with_svp)))

theorem Frame.resumeWait {l : List Part} {s t : State} {a} (h : Frame l s t)
    (hl : [Part.sqr, Part.svp, Part.handed] ⊆ l) : Frame l s (t.resumeWait a) :=
  h.trans (Frame.mono hl (by
    simp only [State.resumeWait]
    repeat' (first | with_reducible exact Frame.refl _ _ | decide | with_reducible apply Frame.moveSlot
                   | with_reducible apply Frame.advance | split | with_reducible apply Frame.with_sqr
                   | with_reducible apply Frame.with_svp | with_reducible apply Frame.with_handed)))

theorem Frame.resumeSlot {l : List Part} {s t : State} {k} (h : Frame l s t)
    (hl : [Part.sqr, Part.svp, Part.handed] ⊆ l) : Frame l s (t.resumeSlot k) :=
  h.trans (Frame.mono hl (by
    simp only [State.resumeSlot]
    repeat' (first | with_reducible exact Frame.refl _ _ | decide | with_reducible apply Frame.failStep
                   | with_reducible apply Frame.setSlot | with_reducible apply Frame.runAt
                   | with_reducible apply Frame.resumeWait | with_reducible apply Frame.advance | split
                   | with_reducible apply Frame.with_sqr | with_reducible apply Frame.with_svp
                   | with_reducible apply Frame.with_handed)))

theorem Frame.seqResume {l : List Part} {s t : State} {k} (h : Frame l s t)
    (hl : [Part.sqr, Part.svp, Part.handed] ⊆ l) : Frame l s ((State.seqResume k t).1) :=
  h.trans (Frame.mono hl (by
    simp only [State.seqResume, State.says]
    repeat' (first | with_reducible exact Frame.refl _ _ | decide | with_reducible apply Frame.resumeSlot
                   | split | with_reducible apply Frame.with_sqr | with_reducible apply Frame.with_svp
                   | with_reducible apply Frame.with_handed)))

theorem Frame.seqAbort {l : List Part} {s t : State} {k} (h : Frame l s t)
    (hl : [Part.sqr, Part.svp] ⊆ l) : Frame l s ((State.seqAbort k t).1) :=
  h.trans (Frame.mono hl (by
    simp only [State.seqAbort, State.says]
    repeat' (first | with_reducible exact Frame.refl _ _ | decide | with_reducible apply Frame.moveSlot
                   | split | with_reducible apply Frame.with_sqr | with_reducible apply Frame.with_svp)))

theorem Frame.withItem {l : List Part} {s t : State} {a b} (h : Frame l s t)
    (hl : [Part.ssl] ⊆ l) : Frame l s (t.withItem a b) :=
  h.trans (Frame.mono hl (by
    simp only [State.withItem]
    repeat' (first | with_reducible exact Frame.refl _ _ | decide | with_reducible apply Frame.with_ssl)))

/-- A request about an item. -/
theorem Frame.onItem {l : List Part} {s t : State} {g i} {f : Item → State → Answer}
    (h : Frame l s t) (hf : ∀ x, Frame l t (f x t).1) : Frame l s (Sys2Proof.Machine.onItem g i f t).1 := by
  unfold Sys2Proof.Machine.onItem
  split
  · exact h.trans (hf _)
  · exact h

theorem Frame.setHostLock {l : List Part} {s t : State} {a b} (h : Frame l s t)
    (hl : [Part.ssl] ⊆ l) : Frame l s ((State.setHostLock a b t).1) :=
  h.trans (Frame.mono hl (by
    simp only [State.setHostLock, State.says]
    repeat' (first | with_reducible exact Frame.refl _ _ | decide | split
                   | with_reducible apply Frame.with_ssl)))

theorem Frame.operateBoundary {l : List Part} {s t : State} {a} (h : Frame l s t)
    (hl : [Part.ssl] ⊆ l) : Frame l s ((State.operateBoundary a t).1) :=
  h.trans (Frame.mono hl (by
    simp only [State.operateBoundary]
    repeat' (first | with_reducible exact Frame.refl _ _ | decide | split
                   | with_reducible apply Frame.with_ssl)))

theorem Frame.operateLock {l : List Part} {s t : State} (h : Frame l s t)
    (hl : [Part.ssl] ⊆ l) : Frame l s ((State.operateLock t).1) :=
  h.trans (Frame.mono hl (by
    simp only [State.operateLock]
    repeat' (first | with_reducible exact Frame.refl _ _ | decide | split
                   | with_reducible apply Frame.with_ssl)))

theorem Frame.store {l : List Part} {s t : State} (h : Frame l s t)
    (hl : [Part.ssl] ⊆ l) : Frame l s ((State.store t).1) :=
  h.trans (Frame.mono hl (by
    simp only [State.store, State.says]
    repeat' (first | with_reducible exact Frame.refl _ _ | decide | split
                   | with_reducible apply Frame.with_ssl)))

theorem Frame.storePassed {l : List Part} {s t : State} {c} (h : Frame l s t)
    (hl : [Part.ssl, Part.tip, Part.handed] ⊆ l) : Frame l s (t.storePassed c) :=
  h.trans (Frame.mono hl (by constructor <;> intro k <;> first | rfl | exact absurd (by decide) k))

theorem Frame.storeFailed {l : List Part} {s t : State} (h : Frame l s t)
    (hl : [Part.ssl, Part.svp, Part.handed] ⊆ l) : Frame l s t.storeFailed :=
  h.trans (Frame.mono hl (by constructor <;> intro k <;> first | rfl | exact absurd (by decide) k))

theorem Frame.roleTaken {l : List Part} {s t : State} {c} (h : Frame l s t)
    (hl : [Part.handed] ⊆ l) : Frame l s (t.roleTaken c) :=
  h.trans (Frame.mono hl (by
    simp only [State.roleTaken]
    repeat' (first | with_reducible exact Frame.refl _ _ | decide | with_reducible apply Frame.hand
                   | with_reducible apply Frame.with_handed)))

theorem Frame.wellSettingTaken {l : List Part} {s t : State} {c i} (h : Frame l s t)
    (hl : [Part.bbu, Part.handed] ⊆ l) : Frame l s (t.wellSettingTaken c i) :=
  h.trans (Frame.mono hl (by
    simp only [State.wellSettingTaken]
    repeat' (first | with_reducible exact Frame.refl _ _ | decide | with_reducible apply Frame.roleTaken
                   | with_reducible apply Frame.minFlowTaken | with_reducible apply Frame.maxFlowTaken | split
                   | with_reducible apply Frame.with_bbu | with_reducible apply Frame.with_handed)))

theorem Frame.turbSettingTaken {l : List Part} {s t : State} {i} (h : Frame l s t)
    (hl : [Part.tbc, Part.svp, Part.handed] ⊆ l) : Frame l s (t.turbSettingTaken i) :=
  h.trans (Frame.mono hl (by
    simp only [State.turbSettingTaken]
    repeat' (first | with_reducible exact Frame.refl _ _ | decide | with_reducible apply Frame.ratedLoadTaken
                   | with_reducible apply Frame.steamRateTaken | with_reducible apply Frame.warmSteamTaken
                   | split | with_reducible apply Frame.with_tbc | with_reducible apply Frame.with_svp
                   | with_reducible apply Frame.with_handed)))

theorem Frame.hxSettingTaken {l : List Part} {s t : State} {i} (h : Frame l s t)
    (hl : [Part.hxc] ⊆ l) : Frame l s (t.hxSettingTaken i) :=
  h.trans (Frame.mono hl (by
    simp only [State.hxSettingTaken]
    repeat' (first | with_reducible exact Frame.refl _ _ | decide | with_reducible apply Frame.retarget
                   | split | with_reducible apply Frame.with_hxc)))

theorem Frame.balSettingTaken {l : List Part} {s t : State} {i} (h : Frame l s t)
    (hl : [Part.tbc, Part.bbu, Part.svp, Part.handed] ⊆ l) : Frame l s (t.balSettingTaken i) :=
  h.trans (Frame.mono hl (by
    simp only [State.balSettingTaken]
    repeat' (first | with_reducible exact Frame.refl _ _ | decide
                   | with_reducible apply Frame.requirementTaken | with_reducible apply Frame.steamRateTaken
                   | split | with_reducible apply Frame.with_tbc | with_reducible apply Frame.with_bbu
                   | with_reducible apply Frame.with_svp | with_reducible apply Frame.with_handed)))

theorem Frame.itemTaken {l : List Part} {s t : State} {i} (h : Frame l s t)
    (hl : touchesTaken (.item i) ⊆ l) : Frame l s (t.itemTaken i) := by
  have sub : ∀ {m : List Part}, m ⊆ touchesTaken (.item i) → m ⊆ l := fun k => List.Subset.trans k hl
  cases i with
  | well c x => exact h.wellSettingTaken hl
  | turbine x => exact h.turbSettingTaken hl
  | exchanger x => exact h.hxSettingTaken (sub (by simp [touchesTaken]))
  | scaling x => exact h
  | balance x => exact h.balSettingTaken hl
  | field x => exact h
  | entry e x => exact h
  | qty q x => exact h.qtySettingTaken hl

theorem Frame.limitTaken {l : List Part} {s t : State} {i} (h : Frame l s t)
    (hl : [Part.scm, Part.handed] ⊆ l) : Frame l s (t.limitTaken i) :=
  h.trans (Frame.mono hl (by
    simp only [State.limitTaken]
    repeat' (first | with_reducible exact Frame.refl _ _ | decide | with_reducible apply Frame.l5Taken
                   | with_reducible apply Frame.l6Taken | split | with_reducible apply Frame.with_scm
                   | with_reducible apply Frame.with_handed)))

/-- The retirement of R137 comes with an entry's settings alone. -/
theorem Frame.retireChanged {l : List Part} {s t : State} {a i} (h : Frame l s t)
    (hl : touchesWritten (some i) ⊆ l) : Frame l s (t.retireChanged a i) := by
  cases i with
  | entry e x =>
    simp only [State.retireChanged]
    split
    · exact h.retireStation hl
    · exact h
  | well c x => exact h
  | turbine x => exact h
  | exchanger x => exact h
  | scaling x => exact h
  | balance x => exact h
  | field x => exact h
  | qty q x => exact h

/-- What a written item's taking can change includes what its reader's taking can. -/
theorem touchesTaken_written (i : Item) : touchesTaken (.item i) ⊆ touchesWritten (some i) := by
  cases i <;> simp [touchesTaken, touchesWritten]

theorem Frame.applyItem {l : List Part} {s t : State} {i v} (h : Frame l s t) (hs : [Part.ssl] ⊆ l)
    (hl : touchesWritten (some i) ⊆ l) : Frame l s (t.applyItem i v) :=
  ((h.withItem hs).itemTaken (List.Subset.trans (touchesTaken_written i) hl)).retireChanged hl

theorem Frame.setItem {l : List Part} {s t : State} {i v} (h : Frame l s t) (hs : [Part.ssl] ⊆ l)
    (hl : touchesWritten (some i) ⊆ l) : Frame l s (State.setItem i v t).1 := by
  simp only [State.setItem, State.says]
  repeat' split
  all_goals first | exact h | exact h.applyItem hs hl

theorem Frame.setLimit {l : List Part} {s t : State} {a b} (h : Frame l s t)
    (hl : [Part.ssl, Part.scm, Part.handed] ⊆ l) : Frame l s ((State.setLimit a b t).1) :=
  h.trans (Frame.mono hl (by
    simp only [State.setLimit, State.applyLimit, State.says]
    repeat' (first | with_reducible exact Frame.refl _ _ | decide | with_reducible apply Frame.limitTaken
                   | split | with_reducible apply Frame.with_ssl | with_reducible apply Frame.with_scm
                   | with_reducible apply Frame.with_handed)))

theorem Frame.ackEntry {l : List Part} {s t : State} {a b} (h : Frame l s t)
    (hl : [Part.alt] ⊆ l) : Frame l s ((State.ackEntry a b t).1) :=
  h.trans (Frame.mono hl (by
    simp only [State.ackEntry, State.says]
    repeat' (first | with_reducible exact Frame.refl _ _ | decide | split
                   | with_reducible apply Frame.with_alt)))

theorem Frame.ack {l : List Part} {s t : State} {a b} (h : Frame l s t)
    (hl : [Part.alt] ⊆ l) : Frame l s ((State.ack a b t).1) :=
  h.trans (Frame.mono hl (by
    simp only [State.ack, State.says]
    repeat' (first | with_reducible exact Frame.refl _ _ | decide | with_reducible apply Frame.ackEntry
                   | split | with_reducible apply Frame.with_alt)))

theorem Frame.readAndClear {l : List Part} {s t : State} {a} (h : Frame l s t)
    (hl : [Part.alt] ⊆ l) : Frame l s ((State.readAndClear a t).1) :=
  h.trans (Frame.mono hl (by
    simp only [State.readAndClear, State.says]
    repeat' (first | with_reducible exact Frame.refl _ _ | decide | split
                   | with_reducible apply Frame.with_alt)))

theorem Frame.clearAll {l : List Part} {s t : State} {x} (h : Frame l s t)
    (hl : [Part.alt, Part.svp] ⊆ l) : Frame l s (t.clearAll x) :=
  h.trans (Frame.mono hl (by
    unfold State.clearAll
    exact Frame.fold _ _ (Frame.refl _ t) fun u x => (Frame.refl _ u).alarmClear (by decide)))

theorem Frame.restartRecords {l : List Part} {s t : State} (h : Frame l s t)
    (hl : [Part.svp, Part.qtb, Part.scm, Part.hxc, Part.tbc] ⊆ l) : Frame l s (t.restartRecords) :=
  h.trans (Frame.mono hl (by constructor <;> intro k <;> first | rfl | exact absurd (by decide) k))

theorem Frame.restartSlots {l : List Part} {s t : State} (h : Frame l s t)
    (hl : [Part.sqr] ⊆ l) : Frame l s (t.restartSlots) :=
  h.trans (Frame.mono hl (by
    simp only [State.restartSlots]
    repeat' (first | with_reducible exact Frame.refl _ _ | decide | with_reducible apply Frame.with_sqr)))

theorem Frame.restartBalance {l : List Part} {s t : State} (h : Frame l s t)
    (hl : [Part.bbu, Part.handed] ⊆ l) : Frame l s (t.restartBalance) :=
  h.trans (Frame.mono hl (by
    simp only [State.restartBalance]
    repeat' (first | with_reducible exact Frame.refl _ _ | decide | with_reducible apply Frame.hand
                   | with_reducible apply Frame.planned | with_reducible apply Frame.with_bbu
                   | with_reducible apply Frame.with_handed)))

theorem Frame.restartLink {l : List Part} {s t : State} (h : Frame l s t)
    (hl : [Part.flc, Part.handed] ⊆ l) : Frame l s (t.restartLink) :=
  h.trans (Frame.mono hl (by
    unfold State.restartLink
    exact (((Frame.refl _ t).with_flc (by decide)).retireAll (by decide)).with_flc (by decide)))

theorem Frame.startLink {l : List Part} {s t : State} (h : Frame l s t)
    (hl : [Part.flc, Part.handed] ⊆ l) : Frame l s (t.startLink) :=
  h.trans (Frame.mono hl (by
    simp only [State.startLink]
    repeat' (first | with_reducible exact Frame.refl _ _ | decide | with_reducible apply Frame.hand
                   | with_reducible apply Frame.arbitrate | with_reducible apply Frame.with_flc
                   | with_reducible apply Frame.with_handed)))

theorem Frame.selectAnswer {l : List Part} {s t : State} {a b} (h : Frame l s t)
    (hl : [Part.svp] ⊆ l) : Frame l s ((State.selectAnswer a b t).1) :=
  h.trans (Frame.mono hl (by
    simp only [State.selectAnswer, State.says]
    repeat' (first | with_reducible exact Frame.refl _ _ | decide | split
                   | with_reducible apply Frame.with_svp)))

theorem Frame.endReply {l : List Part} {s t : State} (h : Frame l s t)
    (hl : [Part.svp, Part.handed] ⊆ l) : Frame l s (t.endReply) :=
  h.trans (Frame.mono hl (by
    simp only [State.endReply]
    repeat' (first | with_reducible exact Frame.refl _ _ | decide | with_reducible apply Frame.hand | split
                   | with_reducible apply Frame.with_svp | with_reducible apply Frame.with_handed)))

theorem Frame.readQty {l : List Part} {s t : State} {a b} (h : Frame l s t) :
    Frame l s (State.readQty a b t).1 :=
  h.trans (by
    simp only [State.readQty, State.says]
    repeat' (first | with_reducible exact Frame.refl _ _ | split))

theorem Frame.readTable {l : List Part} {s t : State} {a} (h : Frame l s t) :
    Frame l s (State.readTable a t).1 :=
  h.trans (by
    simp only [State.readTable, State.says]
    repeat' (first | with_reducible exact Frame.refl _ _ | split))

theorem Frame.evalForward {l : List Part} {s t : State} {a b} (h : Frame l s t) :
    Frame l s (State.evalForward a b t).1 :=
  h.trans (by
    simp only [State.evalForward, State.says]
    repeat' (first | with_reducible exact Frame.refl _ _ | split))

theorem Frame.evalInverse {l : List Part} {s t : State} {a b c} (h : Frame l s t) :
    Frame l s (State.evalInverse a b c t).1 :=
  h.trans (by
    simp only [State.evalInverse, State.says]
    repeat' (first | with_reducible exact Frame.refl _ _ | split))

theorem Frame.readScaling {l : List Part} {s t : State} {a} (h : Frame l s t) :
    Frame l s (State.readScaling a t).1 :=
  h.trans (by
    simp only [State.readScaling, State.says]
    repeat' (first | with_reducible exact Frame.refl _ _ | split))

theorem Frame.readField {l : List Part} {s t : State} {a} (h : Frame l s t) :
    Frame l s (State.readField a t).1 :=
  h.trans (by
    simp only [State.readField, State.says]
    repeat' (first | with_reducible exact Frame.refl _ _ | split))

theorem Frame.readAlarms {l : List Part} {s t : State} {a b} (h : Frame l s t) :
    Frame l s (State.readAlarms a b t).1 :=
  h.trans (by
    simp only [State.readAlarms, State.says]
    repeat' (first | with_reducible exact Frame.refl _ _ | split))

theorem Frame.readCounters {l : List Part} {s t : State} {a} (h : Frame l s t) :
    Frame l s (State.readCounters a t).1 :=
  h.trans (by
    simp only [State.readCounters, State.says]
    repeat' (first | with_reducible exact Frame.refl _ _ | split))

theorem Frame.getItem {l : List Part} {s t : State} {a} (h : Frame l s t) :
    Frame l s (State.getItem a t).1 :=
  h.trans (by
    simp only [State.getItem, State.says]
    repeat' (first | with_reducible exact Frame.refl _ _ | split))


end Sys2Proof.Machine
end

