-- ==== Sys2Proof/Laws/Quantities.lean ====
section
/-! SUPPORT. What the shared operations over quantities do: the handing of an update to its takers, what an update
shows of its station, what a taker meets while an update waits, and a setting of a quantity taken. -/

namespace Sys2Proof.Laws

open Sys2Proof.Machine

/-! ## The takers of an update (R27) -/

theorem scmTakes_eq : ∀ q, scmTakes q = decide (q ∈ scmQtys) := by decide

theorem hxcTakes_eq : ∀ q, hxcTakes q = decide (q ∈ hxcQtys) := by decide

theorem wccTakes_eq : ∀ q, wccTakes q = decide (q ∈ wccQtys) := by decide

theorem tbcTakes_eq : ∀ q, tbcTakes q = decide (q ∈ tbcQtys) := by decide

theorem bbuTakes_eq : ∀ q, bbuTakes q = decide (q ∈ bbuQtys) := by decide

/-- What an update lists for a taker of some quantities. -/
theorem only_eq {takes : QtyNo → Bool} {qs : List QtyNo} (h : ∀ q, takes q = decide (q ∈ qs)) (u : Update) :
    u.only takes = listed qs u := by
  simp only [Update.only, listed, h]

theorem isEmpty_iff (u : Update) : u.isEmpty = true ↔ listsNothing u := by
  simp [Update.isEmpty, listsNothing]

theorem listed_all (u : Update) : u.only (fun _ => true) = u := by simp [Update.only]

/-- One taker's event of an update, and none when it lists nothing for the taker. -/
theorem part_eq {takes : QtyNo → Bool} {qs : List QtyNo} (h : ∀ q, takes q = decide (q ∈ qs)) (u : Update)
    (mk : Update → Instr) : (if (u.only takes).isEmpty then [] else [mk (u.only takes)])
      = if (listed qs u).isEmpty then [] else [mk (listed qs u)] := by
  rw [only_eq h]

/-- An update goes to exactly the blocks that take up a listed quantity, and to SQR (R27). -/
theorem updateEvents_handed (u : Update) : UpdateHanded u (updateEvents u) := by
  refine ⟨fun qs mk => if (listed qs u).isEmpty then [] else [mk (listed qs u)], fun qs mk => ⟨fun h => ?_, fun h => ?_⟩,
    if u.isEmpty then [] else [.sqrQtyUpdate u], fun h => ?_, fun h => ?_, ?_⟩
  · exact if_pos ((isEmpty_iff _).mpr h)
  · exact if_neg (mt (isEmpty_iff _).mp h)
  · rw [if_pos ((isEmpty_iff _).mpr h)]
  · rw [if_neg (mt (isEmpty_iff _).mp h)]
  · simp only [updateEvents, part_eq scmTakes_eq, part_eq hxcTakes_eq, part_eq wccTakes_eq, part_eq tbcTakes_eq,
      part_eq bbuTakes_eq, listed_all]

/-- An update that lists nothing is not handed. -/
theorem updateEvents_nothing {u : Update} (h : listsNothing u) : updateEvents u = [] := by
  simp [updateEvents, Update.only, Update.isEmpty, h.1, h.2]

/-! ## What an update shows (R27) -/

theorem lookup_mem {α β : Type} [BEq α] [LawfulBEq α] {l : List (α × β)} {a b} (h : l.lookup a = some b) :
    (a, b) ∈ l := by
  induction l with
  | nil => simp at h
  | cons x l ih =>
    obtain ⟨k, v⟩ := x
    by_cases e : a = k
    · subst e; simp_all
    · rw [List.lookup_cons, beq_false_of_ne e] at h; exact List.mem_cons_of_mem _ (ih h)

theorem lookup_filter_none {α β : Type} [BEq α] [LawfulBEq α] {l : List (α × β)} {p : α × β → Bool} {a}
    (h : l.lookup a = none) : (l.filter p).lookup a = none := by
  rw [List.lookup_eq_none_iff] at h ⊢
  exact fun x hx => h x (List.mem_filter.mp hx).1

theorem lookup_shown (s : State) (q : QtyNo) (l : List QtyNo) :
    (l.map s.shownOf).lookup q = if q ∈ l then some ((s.qtb.get q).state, s.reported q) else none := by
  induction l with
  | nil => rfl
  | cons x l ih =>
    simp only [List.map_cons, State.shownOf, List.lookup_cons, List.mem_cons]
    by_cases e : q = x
    · subst e; simp
    · rw [beq_false_of_ne e]; simpa [e] using ih

/-- An update read where it lists of a quantity what it shows of it. -/
theorem valid_of {w : Update} {z : State} {q : QtyNo} {x : QState × Int} (seen : w.seen z q = x)
    (h : ∀ v, w.newValue q = some v → x.1 = .valid) (h' : ∀ v, w.newValue q = some v → v = x.2)
    (hc : ∀ c, w.change q = some c → c.2 = x.1) :
    w.stateOf z q = x.1 ∧ (x.1 = .valid → w.valid z q = some x.2) ∧ (x.1 ≠ .valid → w.valid z q = none) := by
  have st : w.stateOf z q = x.1 := by
    unfold Update.stateOf Update.listsValue
    cases e : w.newValue q with
    | some v => simp [h v e]
    | none =>
      cases e' : w.change q with
      | some c => simp [hc c e']
      | none => simp [seen]
  refine ⟨st, fun k => ?_, fun k => ?_⟩ <;> unfold Update.valid
  · cases e : w.newValue q with
    | some v => simp [h' v e]
    | none => simp [st, seen, k]
  · cases e : w.newValue q with
    | some v => exact absurd (h v e) k
    | none => simp [st, k]

/-- An update that lists a state `t` truly, handed with its station, shows the station as it stands in `t`. -/
theorem shown_shows {u : Update} {t : State} {station : List QtyNo} (hs : u.shown = station.map t.shownOf)
    (hv : ∀ q v, (q, v) ∈ u.values → (t.qtb.get q).state = .valid ∧ v = t.reported q)
    (hc : ∀ q old new, (q, old, new) ∈ u.changes → new = (t.qtb.get q).state) :
    ShowsStation u station t := by
  intro qs z q
  have nv : ∀ v, (listed qs u).newValue q = some v → (t.qtb.get q).state = .valid ∧ v = t.reported q :=
    fun v h => hv q v (List.mem_filter.mp (lookup_mem h)).1
  have nc : ∀ c, (listed qs u).change q = some c → c.2 = (t.qtb.get q).state :=
    fun c h => hc q c.1 c.2 (List.mem_filter.mp (lookup_mem h)).1
  have seen : (listed qs u).seen z q
      = if q ∈ station then ((t.qtb.get q).state, t.reported q) else ((z.qtb.get q).state, z.reported q) := by
    simp only [Update.seen, listed, hs, lookup_shown]; split <;> rfl
  refine ⟨fun hq => ?_, fun hq h h' => ?_⟩
  · rw [if_pos hq] at seen
    exact valid_of seen (fun v h => (nv v h).1) (fun v h => (nv v h).2) nc
  · rw [if_neg hq] at seen
    exact valid_of seen (fun v e => nomatch (lookup_filter_none h).symm.trans e)
      (fun v e => nomatch (lookup_filter_none h).symm.trans e)
      (fun c e => nomatch (lookup_filter_none h').symm.trans e)

/-- An update handed with its station keeps the station as it stood in the old state (log 42). -/
theorem before_keeps {u : Update} {s : State} {station : List QtyNo} (hb : u.before = station.map s.shownOf) :
    KeepsBefore u station s := by
  intro qs q
  have e : (listed qs u).before.lookup q
      = if q ∈ station then some ((s.qtb.get q).state, s.reported q) else none := by
    simp only [listed, hb, lookup_shown]
  exact ⟨fun h => e.trans (if_pos h), fun h => e.trans (if_neg h)⟩

/-- The first element of a list of which `f` gives anything, and what it gives. -/
theorem findSome_split {α β : Type} {f : α → Option β} {x : α} {y : β} :
    ∀ {a b : List α}, f x = some y → (∀ z ∈ a, f z = none) → (a ++ x :: b).findSome? f = some y
  | [], _, h, _ => by simp [h]
  | z :: a, _, h, h' => by
    simpa [h' z (List.mem_cons_self ..)] using findSome_split h fun w k => h' w (List.mem_cons_of_mem _ k)

/-- What a taker meets (R115, R127). -/
theorem metBy_meets (s : State) (mine : Instr → Option Update) (q : QtyNo) : TakerMeets mine s q (s.metBy mine q) := by
  unfold State.metBy
  refine ⟨fun h => if_pos h, fun h => ?_⟩
  rw [if_neg h]
  refine ⟨fun a e b u hs hu y hy ha => ?_, fun ha => ?_⟩
  · rw [hs, findSome_split (y := y) (by simp [hu, hy])]
    · rfl
    · intro e' he'
      cases k : mine e' with
      | none => rfl
      | some u' => exact ha e' he' u' k
  · rw [List.findSome?_eq_none_iff.mpr]
    · rfl
    · intro e he
      cases k : mine e with
      | none => rfl
      | some u' => exact ha e he u' k

/-- A function gives nothing over a list, or something at a first element. -/
theorem none_or_first {α β : Type} (f : α → Option β) : ∀ l : List α, (∀ e ∈ l, f e = none)
    ∨ ∃ a e b y, l = a ++ e :: b ∧ f e = some y ∧ ∀ z ∈ a, f z = none
  | [] => .inl fun _ h => nomatch h
  | e :: l => by
    cases k : f e with
    | some y => exact .inr ⟨[], e, l, y, rfl, k, fun _ h => nomatch h⟩
    | none =>
      obtain h | ⟨a, e', b, y, rfl, hy, ha⟩ := none_or_first f l
      · exact .inl (List.forall_mem_cons.mpr ⟨k, h⟩)
      · exact .inr ⟨e :: a, e', b, y, rfl, hy, List.forall_mem_cons.mpr ⟨k, ha⟩⟩

/-- What a taker meets is fixed by the events handed and the quantity table. -/
theorem meets_metBy {s : State} {mine : Instr → Option Update} {q : QtyNo} {x : QState × Int}
    (h : TakerMeets mine s q x) : s.metBy mine q = x := by
  by_cases u : (s.qtb.get q).state = .unprimed
  · rw [h.1 u]; exact (metBy_meets s mine q).1 u
  have m := (metBy_meets s mine q).2 u
  have h := h.2 u
  have gives : ∀ e, (mine e).bind (fun u => u.before.lookup q) = none →
      ∀ u, mine e = some u → u.before.lookup q = none := fun e k u hu => by simpa [hu] using k
  obtain k | ⟨a, e, b, y, hs, hy, ha⟩ := none_or_first (fun e => (mine e).bind fun u => u.before.lookup q) s.handed
  · rw [m.2 fun e he => gives e (k e he), h.2 fun e he => gives e (k e he)]
  · obtain ⟨u, hu, hy⟩ := Option.bind_eq_some_iff.mp hy
    rw [m.1 a e b u hs hu y hy fun e' he' => gives e' (ha e' he'),
      h.1 a e b u hs hu y hy fun e' he' => gives e' (ha e' he')]

/-! ## A setting of a quantity taken (R18) -/

theorem makeStale_eq (r : Qty) : r.makeStale
    = if r.state = .priming ∨ r.state = .valid then { r with state := .stale, prime := 0 } else r := by
  cases h : r.state <;> simp [Qty.makeStale, h]

theorem feeds_well : ∀ q : QtyNo, q.val < 96 → q ∈ stationQtys .well (Fin.ofNat 16 (q.val / 6)) := by decide

set_option maxRecDepth 2000 in
theorem feeds_other : ∀ q : QtyNo, ¬q.val < 96 → (q.val < 101 → q ∈ stationQtys .turbine 0)
    ∧ (¬q.val < 101 → q ∉ stationQtys .brine 0 → (q = qSilica → q ∈ stationQtys .analyser 0)
      ∧ (q = qOutdoorT → q ∈ stationQtys .weather 0)
      ∧ (q ≠ qSilica → q ≠ qOutdoorT → q ∈ stationQtys .exchanger 0)) := by decide

/-- The station that feeds a quantity has it among its own. -/
theorem feeds (q : QtyNo) : ∃ kind c, feederQtys q = stationQtys kind c ∧ q ∈ stationQtys kind c := by
  unfold feederQtys
  by_cases h : q.val < 96
  · exact ⟨_, _, if_pos h, feeds_well q h⟩
  obtain ⟨turbine, rest⟩ := feeds_other q h
  rw [if_neg h]
  split
  · exact ⟨_, _, rfl, turbine ‹_›⟩
  split
  · exact ⟨_, _, rfl, ‹_›⟩
  obtain ⟨analyser, weather, exchanger⟩ := rest ‹_› ‹_›
  split
  · exact ⟨_, _, rfl, analyser ‹_›⟩
  split
  · exact ⟨_, _, rfl, weather ‹_›⟩
  · exact ⟨_, _, rfl, exchanger ‹_› ‹_›⟩

/-- One quantity made STALE, and the update that says so. -/
theorem staleAll_one (s : State) (q : QtyNo) : s.staleAll [q] = ({ s with qtb := s.qtb.set q (s.qtb.get q).makeStale },
    ⟨[], if (s.qtb.get q).state = .priming ∨ (s.qtb.get q).state = .valid then [(q, (s.qtb.get q).state, .stale)] else [],
      [], []⟩) := by
  rw [makeStale_eq]
  cases h : (s.qtb.get q).state <;> simp [State.staleAll, recordQty, makeStale_eq, h, listedMove, Update.empty]

/-- A setting of a quantity acts as R18 says. -/
theorem qtySettingTaken_acts (s : State) (q : QtyNo) (i : QtyItem) :
    QtySettingActs q i s (s.qtySettingTaken q i) := by
  refine ⟨_, rfl, ?_, ?_, ?_⟩
  · rintro rfl; rfl
  · intro h
    have e : s.qtySettingTaken q i = { s with
        qtb := s.qtb.set q ((s.qtb.get q).clampRange (s.qtySet q .rangeLow) (s.qtySet q .rangeHigh)) } := by
      rcases h with rfl | rfl <;> rfl
    refine ⟨((s.qtb.get q).clampRange (s.qtySet q .rangeLow) (s.qtySet q .rangeHigh)).y, ?_, fun h => ?_,
      fun h => ⟨fun k => ?_, fun k k' => ?_, fun k k' => ?_⟩⟩
    · rw [e]; unfold Qty.clampRange; repeat' split
      all_goals rfl
    · simp [Qty.clampRange, h]
    · simp [Qty.clampRange, h, show reportedOf (s.qtb.get q).y < _ from k]
    · simp [Qty.clampRange, h, show ¬reportedOf (s.qtb.get q).y < _ from not_lt.mpr k,
        show _ < reportedOf (s.qtb.get q).y from k']
    · simp [Qty.clampRange, h, show ¬reportedOf (s.qtb.get q).y < _ from not_lt.mpr k,
        show ¬_ < reportedOf (s.qtb.get q).y from not_lt.mpr k']
  · rintro rfl due hd
    have e : s.qtySettingTaken q .eraseLimit = if reaches (s.qtb.get q).run (s.qtySet q .eraseLimit) then
        (s.staleAll [q]).1.handUpdate s (feederQtys q) (s.staleAll [q]).2 else s := rfl
    rw [e, staleAll_one, makeStale_eq]
    refine ⟨fun h => ?_, fun h => ?_⟩
    · split
      · rename_i run
        have st : ¬((s.qtb.get q).state = .priming ∨ (s.qtb.get q).state = .valid) :=
          fun st => h (hd.mpr ⟨st, by simpa [reaches] using run⟩)
        have none : ∀ x y, updateEvents ⟨[], [], x, y⟩ = [] := fun x y => updateEvents_nothing ⟨rfl, rfl⟩
        simp [if_neg st, Bank.set_get_self, State.handUpdate, State.hand, none]
      · rfl
    · obtain ⟨st, run⟩ := hd.mp h
      obtain ⟨kind, c, hk, hq⟩ := feeds q
      rw [if_pos (by simpa [reaches] using run)]
      simp only [if_pos st, hk]
      refine ⟨_, _, kind, c, rfl, rfl, rfl, hq, shown_shows rfl ?_ ?_, before_keeps rfl, updateEvents_handed _⟩
      · simp
      · intro p old new hp
        obtain ⟨rfl, -, rfl⟩ : p = q ∧ old = _ ∧ new = _ := by simpa using hp
        simp [State.handUpdate]

end Sys2Proof.Laws
end

