-- ==== Sys2Proof/Laws/Requests.lean ====
section
/-! SUPPORT. What a request can do: taking it (R184), the selection record (R189), an operand that names one of a
numbered set, and the notice queue (R187). -/

namespace Sys2Proof.Laws

open Sys2Proof.Machine

/-- At an idle port no reply stands. -/
theorem portIdle_noReply {s : State} (h : s.portIdle) : s.svp.reply.isSome = false :=
    by simp [State.portIdle] at h; simp [h]

/-- A request taken at an idle port: its owner takes it after the selection is cancelled, and the reply is
formed from the answer. -/
theorem serve_idle {s : State} {k o} (h : s.portIdle) : s.serve k o = ((o s.deselect).1.answer k
    (o s.deselect).2.1 (o s.deselect).2.2) := by simp [State.serve, portIdle_noReply h]

/-- An OPERATE whose record is present with its object and argument is handed to its owner. -/
theorem operate_selected {s : State} {obj arg r owner} (h : s.portIdle) (hr : r = true)
    (hs : s.svp.selection = some (obj, arg)) : s.operate obj arg r owner = (owner
    s.deselect).1.answer 0x04 (owner s.deselect).2 .none := by
  unfold State.operate; rw [if_neg (by rw [portIdle_noReply h]; decide), hr];
      simp only [Bool.not_true, Bool.false_eq_true, if_false]; rw [if_pos hs]

/-- A number below the bound names a record. -/
theorem indexArg_lt {n k} (h : k < n) : indexArg n k = some ⟨k, h⟩ := by simp [indexArg, h]

/-- The number of a record names it. -/
theorem indexArg_fin {n} (k : Fin n) : indexArg n k = some k := by simp [indexArg]

/-- A number at or above the bound names none. -/
theorem indexArg_ge {n k} (h : n ≤ k) : indexArg n k = none := by simp [indexArg]; omega

/-- A request that completes while another is in progress is discarded (R184). -/
theorem serve_busy {s : State} {k o} (h : s.svp.reply.isSome = true) : s.serve k o = s.overrun := by
  simp [State.serve, h]

/-- An OPERATE that completes while another request is in progress is discarded (R184). -/
theorem operate_busy {s : State} {obj arg r owner} (h : s.svp.reply.isSome = true) :
    s.operate obj arg r owner = s.overrun := by simp [State.operate, h]

/-- An OPERATE with an argument out of range is BAD_VALUE and makes the record absent (R189). -/
theorem operate_badValue {s : State} {obj arg r owner} (h : s.portIdle) (hr : r = false) :
    s.operate obj arg r owner = s.deselect.answer 0x04 .badValue .none := by
  simp [State.operate, portIdle_noReply h, hr]

/-- An OPERATE whose record is absent or another one is NOT_SELECTED (R189). -/
theorem operate_notSelected {s : State} {obj arg r owner} (h : s.portIdle) (hr : r = true)
    (hs : s.svp.selection ≠ some (obj, arg)) :
    s.operate obj arg r owner = s.deselect.answer 0x04 .notSelected .none := by
  simp [State.operate, portIdle_noReply h, hr, hs]

/-- A notice with room joins the tail of the queue. -/
theorem queue_room {v : Svp} {n : Notice} (h : v.notices.length < Config.noticeCapacity) :
    v.queue n = { v with notices := v.notices ++ [n] } := if_pos h

/-- A notice without room is dropped, and NOTICES_LOST is set. -/
theorem queue_full {v : Svp} {n : Notice} (h : Config.noticeCapacity ≤ v.notices.length) :
    v.queue n = { v with noticesLost := true } := if_neg (by omega)

end Sys2Proof.Laws
end

