-- ==== Sys2Proof/Laws/Sequences.lean ====
section
/-! SUPPORT. What the operations of the Sequence Runner can do (chapter 9). -/

namespace Sys2Proof.Laws

open Sys2Proof.Machine

theorem isCommand_iff (k : StepKind) : isCommand k = true ↔ CommandKind k := by
  cases k <;> simp [isCommand, CommandKind]

theorem step_none_iff {r : Slot} : r.step = none ↔ r.steps.length ≤ r.ptr := by
  unfold Slot.step; exact List.getElem?_eq_none_iff

/-- A slot taking a new record, with its notice (R161). -/
theorem moveSlot_moves (k) (r : Slot) (s : State) : SlotMoves k r s (s.moveSlot k r) := by
  refine ⟨_, slotNotice k (s.sqr.get k).state r, rfl, fun h => ?_, fun h1 h2 h3 => ?_, rfl⟩
  · unfold slotNotice noticed
    rcases h with h | ⟨h, h'⟩ | ⟨h, h'⟩ <;> simp [*]
  · unfold slotNotice noticed
    rw [if_pos (by simp [h1]; tauto)]

theorem isStepOf_not (k) (i : Instr) : (!isStepOf k i) = decide (i ≠ .seqCommandStep k
        ∧ i ≠ .seqWaitStep k ∧ i ≠ .seqPauseStep k ∧ i ≠ .seqEndStep k) := by
  rw [Bool.eq_iff_iff, decide_eq_true_eq]
  cases i <;> simp [isStepOf]

/-- The current step of a slot handed, and the events of earlier steps dropped (log 31). -/
theorem nextStep_next (k) (s : State) : StepIsNext k s (s.nextStep k) := by
  unfold State.nextStep
  have hf : (fun i => !isStepOf k i) = fun i => decide (i ≠ .seqCommandStep k
        ∧ i ≠ .seqWaitStep k ∧ i ≠ .seqPauseStep k ∧ i ≠ .seqEndStep k) := funext fun i =>
            isStepOf_not k i
  rw [hf]
  cases hst : (s.sqr.get k).step with
  | none =>
    refine ⟨[], fun st h => ?_, fun _ => rfl, ?_⟩
    · unfold Slot.step at hst; rw [h] at hst; cases hst
    · simp
  | some st =>
    refine ⟨stepEvent k st, fun st' h => ?_, fun h => ?_, rfl⟩
    · unfold Slot.step at hst; rw [h] at hst; cases hst
      refine ⟨fun h => ?_, fun h => ?_, fun h => ?_, fun h => ?_, fun h => ?_⟩
      · unfold stepEvent; rw [if_pos ((isCommand_iff _).2 h)]
      · unfold stepEvent; rcases h with h | h | h <;> rw [h] <;> rfl
      · unfold stepEvent; rw [h]; rfl
      · unfold stepEvent; rw [h]; rfl
      · unfold stepEvent; rw [h]; rfl
    · rw [step_none_iff.2 h] at hst; cases hst

/-- A slot RUNNING at a step. -/
theorem runAt_runs (k n) (s : State) : RunsAt k n s (s.runAt k n) := ⟨_, moveSlot_moves _ _ _,
    nextStep_next _ _⟩

/-- A slot at the end of its steps. -/
theorem finishSlot_finishes (k) (s : State) : Finishes k s (s.finishSlot k) := moveSlot_moves _ _ _

/-- A slot moving on from its current step. -/
theorem advance_movesOn (k) (s : State) : MovesOn k s (s.advance k) := by
  unfold State.advance
  refine ⟨fun h => ?_, fun h => ?_⟩
  · simp only; rw [if_pos h]; exact runAt_runs _ _ _
  · simp only; rw [if_neg (by omega)]; exact finishSlot_finishes _ _

/-- A step failing, by its on-failure action (R158). -/
theorem failStep_fails (k why) (s : State) : StepFails k why s (s.failStep k why) := by
  refine ⟨_, _, (s.sqr.get k).onFail, _, _, rfl, fun st h => ?_, fun h => ?_, rfl, rfl, rfl,
      fun h => ?_, fun h => ?_, fun n h => ?_⟩
  · unfold Slot.onFail Slot.step; rw [h]
  · unfold Slot.onFail; rw [step_none_iff.2 h]
  · unfold State.failStep; rw [h]; simp only
    have := moveSlot_moves k { (s.recordFailure k why).sqr.get k with
      state := .failed, suspendedFrom := none, pendingFailure := none, claims :=
          [] } (s.recordFailure k why)
    have e : (s.recordFailure k why).sqr.get k =
        { s.sqr.get k with
            timer := .stopped, lastFailure := some ⟨(s.sqr.get k).ptr, why, s.svp.plantTime⟩ } := Bank.get_set_self ..
    rw [e] at this ⊢
    exact this
  · unfold State.failStep; rw [h]; simp only
    have : (s.recordFailure k why).handledNotice k =
        { s with
          sqr := s.sqr.set k { s.sqr.get k with
            timer := .stopped, lastFailure := some ⟨(s.sqr.get k).ptr, why, s.svp.plantTime⟩ }
          svp := (s.notify [.seq k .running .running (s.sqr.get k).ptr
            (some ⟨(s.sqr.get k).ptr, why, s.svp.plantTime⟩)]).svp } := by
      unfold State.handledNotice
      have e : (s.recordFailure k why).sqr.get k =
          { s.sqr.get k with
            timer := .stopped, lastFailure := some ⟨(s.sqr.get k).ptr, why, s.svp.plantTime⟩ } := Bank.get_set_self ..
      rw [e]; rfl
    rw [this]; exact advance_movesOn _ _
  · unfold State.failStep; rw [h]; simp only
    have : (s.recordFailure k why).handledNotice k =
        { s with
          sqr := s.sqr.set k { s.sqr.get k with
            timer := .stopped, lastFailure := some ⟨(s.sqr.get k).ptr, why, s.svp.plantTime⟩ }
          svp := (s.notify [.seq k .running .running (s.sqr.get k).ptr
            (some ⟨(s.sqr.get k).ptr, why, s.svp.plantTime⟩)]).svp } := by
      unfold State.handledNotice
      have e : (s.recordFailure k why).sqr.get k =
          { s.sqr.get k with
            timer := .stopped, lastFailure := some ⟨(s.sqr.get k).ptr, why, s.svp.plantTime⟩ } := Bank.get_set_self ..
      rw [e]; rfl
    rw [this]; exact runAt_runs _ _ _

theorem compares_iff (c v l) : compares c v l = true ↔ Meets c v l := by
  cases c <;> simp [compares, Meets]

theorem stepTarget_iff (st : Step) (t : Target) : st.target.bind stepTarget = some t ↔
    NamesTarget st t := by
  unfold NamesTarget
  rcases st with ⟨kd, tg, v, tm, of⟩
  simp only
  cases tg with
  | none => simp
  | some x =>
    cases x with
    | well c =>
      simp only [Option.bind_some, stepTarget]
      by_cases h : c < 16
      · rw [indexArg_lt h]; simp only [Option.map_some, Option.some.injEq, reduceCtorEq, and_false,
            or_false]
        constructor
        · rintro rfl; exact ⟨⟨c, h⟩, rfl, rfl⟩
        · rintro ⟨w, rfl, hw⟩; simp at hw; congr
      · rw [indexArg_ge (by omega)]; simp
        rintro w rfl hw; omega
    | turbine => simp [stepTarget, eq_comm]
    | exchanger => simp [stepTarget, eq_comm]
    | balance => simp [stepTarget, eq_comm]
    | qty q => simp [stepTarget]

theorem claimOf_iff (st : Step) (t : Target) : claimOf st = some t ↔ StepClaims st t := by
  unfold claimOf
  have : StepClaims st t ↔ CommandKind st.kind ∧ NamesTarget st t := Iff.rfl
  rw [this, ← isCommand_iff, ← stepTarget_iff]
  by_cases h : isCommand st.kind = true
  · rw [if_pos h]; simp [h]
  · rw [if_neg h]; simp [h]

/-- The claims of a sequence are the targets of its commands (R152). -/
theorem mem_claimsOf (l : List Step) (t) : t ∈ claimsOf l ↔ ∃ st ∈ l, StepClaims st t := by
  unfold claimsOf
  rw [List.mem_filter, List.any_eq_true]
  have hall : t ∈ allTargets := by
    unfold allTargets
    cases t with
    | well c => simp [wells]
    | turbine => simp
    | exchanger => simp
    | balance => simp
  simp [hall, claimOf_iff]

theorem timeoutOk_iff (kd : StepKind) (tg v tm of) : timeoutOk ⟨kd, tg, v, tm, of⟩ = true ↔
    ((kd = .waitQty ∨ kd = .waitState → ∃ t, 1 ≤ t ∧ t ≤ 86400 ∧ tm = some t) ∧ (kd ≠ .waitQty →
    kd ≠ .waitState → tm = none)) := by
  unfold timeoutOk
  generalize 86400 = N
  cases tm with
  | none => cases kd <;> simp
  | some t => cases kd <;> simp

theorem isWell_iff (tg) : isWell tg = true ↔ ∃ c, c < 16 ∧ tg = some (.well c) := by
    cases tg with
    | none => simp [isWell]
    | some x => cases x <;> simp [isWell]

theorem isNum_iff (v) : ∀ lo hi, isNum lo hi v = true ↔ ∃ x, lo ≤ x ∧ x ≤ hi ∧ v = some (.num x) :=
    by
    intro lo hi
    cases v with
    | none => simp [isNum]
    | some x => cases x <;> simp [isNum, inRange]

theorem isMode_iff (v) : isMode v = true ↔ ∃ m, v = some (.mode m) := by
    cases v with
    | none => simp [isMode]
    | some x => cases x <;> simp [isMode]

theorem isCompare_iff (tg v) : isCompare tg v = true ↔ ∃ q c l, q < 115 ∧ -1000 ≤ l ∧ l ≤ 60000
    ∧ tg = some (.qty q) ∧ v = some (.compare c l) := by
    unfold isCompare
    generalize (60000:Int) = N
    cases tg with
    | none => simp
    | some x =>
      cases v with
      | none => cases x <;> simp
      | some y => cases x <;> cases y <;> simp [inRange]

theorem onFailOk_iff (n of) : onFailOk n of = true ↔ ∀ m, of = .goto m → m < n := by
    cases of <;> simp [onFailOk]

theorem isStateOf_iff (tg v) : isStateOf tg v = true ↔ ∃ t x, tg = some t ∧ v = some (.state x) ∧
    NamesState t x := by
    unfold NamesState
    cases tg with
    | none => simp [isStateOf]
    | some x =>
      cases v with
      | none => cases x <;> simp [isStateOf]
      | some y =>
        cases x <;> cases y <;> simp [isStateOf] <;> (rename_i z; cases z <;> simp)

/-- The check of one step (R150). -/
theorem stepOk_iff (n : Nat) (st : Step) : stepOk n st = true ↔ StepFits n st := by
  rcases st with ⟨kd, tg, v, tm, of⟩
  unfold stepOk StepFits
  simp only [Bool.and_eq_true, onFailOk_iff, timeoutOk_iff]
  cases kd <;> (simp only [operandsOk, Bool.and_eq_true, decide_eq_true_eq,
      Option.isNone_iff_eq_none, isWell_iff, isNum_iff, isMode_iff, isCompare_iff, isStateOf_iff,
      reduceCtorEq, false_implies, and_true, true_and, ne_eq, not_false_eq_true,
      not_true_eq_false, or_false, or_true, forall_const, Bool.false_eq_true,
      false_and, and_false, or_self]; first | done | (simp only [and_comm, and_left_comm,
      and_assoc]))

/-- When a wait is met (R154). -/
theorem waitHolds_iff (s : State) (st : Step) : s.waitHolds st = true ↔ s.waitMet st := by
  rcases st with ⟨kd, tg, v, tm, of⟩
  unfold State.waitHolds State.waitMet
  cases kd <;> simp only [reduceCtorEq, false_and, or_false, false_or, true_and]
  case waitQty =>
    unfold waitedQty
    simp only
    cases tg with
    | none => simp
    | some x =>
      cases x with
      | qty q =>
        simp only
        by_cases h : q < 115
        · rw [indexArg_lt h]
          simp only [State.validNow]
          constructor
          · intro hh
            split at hh
            · rename_i v' hv
              split at hv
              · rename_i hval
                cases hv
                unfold meetsValue at hh
                simp only at hh
                cases v with
                | none => cases hh
                | some y =>
                  cases y with
                  | compare c l => exact ⟨⟨q, h⟩, c, l, rfl, rfl, hval, (compares_iff ..).1 hh⟩
                  | num _ => cases hh
                  | mode _ => cases hh
                  | state _ => cases hh
              · cases hv
            · cases hh
          · rintro ⟨q', c, l, hq, rfl, hval, hm⟩
            have : q' = ⟨q, h⟩ := by
              simp only [Option.some.injEq, StepTarget.qty.injEq] at hq; exact Fin.ext hq.symm
            subst this
            rw [if_pos hval]; simp only; unfold meetsValue; exact (compares_iff ..).2 hm
        · rw [indexArg_ge (by omega)]; simp; intro q' hq; omega
      | well c => simp
      | turbine => simp
      | exchanger => simp
      | balance => simp
  case waitState =>
    unfold waitedState
    simp only
    cases hb : tg.bind stepTarget with
    | none =>
      simp only [Bool.false_eq_true, false_iff, not_exists]
      rintro t x ⟨hn, _⟩
      have := (stepTarget_iff ⟨.waitState, tg, v, tm, of⟩ t).2 hn
      simp only at this; rw [hb] at this; cases this
    | some t =>
      have hu : ∀ t', NamesTarget ⟨.waitState, tg, v, tm, of⟩ t' ↔ t' = t := by
        intro t'; rw [← stepTarget_iff]; simp only; rw [hb]; simp [eq_comm]
      cases v with
      | none => simp
      | some y =>
        cases y with
        | state x =>
          simp only [decide_eq_true_eq]
          constructor
          · intro hm
            refine ⟨t, x, (hu t).2 rfl, rfl, ?_⟩
            unfold State.isIn; unfold State.targetStates at hm
            cases t <;> simp at hm ⊢ <;> exact hm
          · rintro ⟨t', x', h1, h2, h3⟩
            rw [hu] at h1; subst h1; cases h2
            unfold State.isIn at h3; unfold State.targetStates
            cases t' <;> simp at h3 ⊢ <;> exact h3
        | num _ => simp
        | mode _ => simp
        | compare _ _ => simp

end Sys2Proof.Laws
end

