-- ==== Sys2Proof/Laws/Settings.lean ====
section
/-! SUPPORT. What reading, writing and checking a setting can do (chapter 11). -/

namespace Sys2Proof.Laws

open Sys2Proof.Machine

theorem wellItemNo_inj : ∀ i j, wellItemNo i = wellItemNo j → i = j :=
    by intro i j h; cases i <;> cases j <;> first | rfl | exact absurd h (by decide)

theorem turbItemNo_inj : ∀ i j, turbItemNo i = turbItemNo j → i = j :=
    by intro i j h; cases i <;> cases j <;> first | rfl | exact absurd h (by decide)

theorem hxItemNo_inj : ∀ i j, hxItemNo i = hxItemNo j → i = j :=
    by intro i j h; cases i <;> cases j <;> first | rfl | exact absurd h (by decide)

theorem scaleItemNo_inj : ∀ i j, scaleItemNo i = scaleItemNo j → i = j :=
    by intro i j h; cases i <;> cases j <;> first | rfl | exact absurd h (by decide)

theorem balItemNo_inj : ∀ i j, balItemNo i = balItemNo j → i = j :=
    by intro i j h; cases i <;> cases j <;> first | rfl | exact absurd h (by decide)

theorem fieldItemNo_inj : ∀ i j, fieldItemNo i = fieldItemNo j → i = j :=
    by intro i j h; cases i <;> cases j <;> first | rfl | exact absurd h (by decide)

theorem entryItemNo_inj : ∀ i j, entryItemNo i = entryItemNo j → i = j :=
    by intro i j h; cases i <;> cases j <;> first | rfl | exact absurd h (by decide)

theorem qtyItemNo_inj : ∀ i j, qtyItemNo i = qtyItemNo j → i = j :=
    by intro i j h; cases i <;> cases j <;> first | rfl | exact absurd h (by decide)

/-- A record of a record read after one was written. -/
theorem get_get_modify_set {m n} {α} (b : Bank (Bank α m) n) (c d : Fin n) (i j : Fin m) (v : α) :
    ((b.modify c fun x => x.set i v).get d).get j = if c = d ∧ i = j then v else (b.get d).get j :=
    by
  rw [Bank.get_modify]
  by_cases h : c = d
  · subst h; rw [if_pos rfl, Bank.get_set]; simp
  · rw [if_neg h, if_neg (fun hh => h hh.1)]

/-- A setting read after a setting was written. -/
theorem read_write (t : Settings) (i j : Item) (v : Int) : (t.write i v).read j = if j = i then v else t.read j := by
  cases i with
  | well c i => cases j <;> first | (simp only [Settings.write, Settings.read, reduceCtorEq, if_false]; done) | skip
                rename_i d j
                simp only [Settings.write, Settings.read, get_get_modify_set, Item.well.injEq]
                congr 1; rw [eq_iff_iff]; constructor
                · rintro ⟨rfl, h⟩; exact ⟨rfl, (wellItemNo_inj _ _ h).symm⟩
                · rintro ⟨rfl, rfl⟩; exact ⟨rfl, rfl⟩
  | entry c i => cases j <;> first | (simp only [Settings.write, Settings.read, reduceCtorEq, if_false]; done) | skip
                 rename_i d j
                 simp only [Settings.write, Settings.read, get_get_modify_set, Item.entry.injEq]
                 congr 1; rw [eq_iff_iff]; constructor
                 · rintro ⟨rfl, h⟩; exact ⟨rfl, (entryItemNo_inj _ _ h).symm⟩
                 · rintro ⟨rfl, rfl⟩; exact ⟨rfl, rfl⟩
  | qty c i => cases j <;> first | (simp only [Settings.write, Settings.read, reduceCtorEq, if_false]; done) | skip
               rename_i d j
               simp only [Settings.write, Settings.read, get_get_modify_set, Item.qty.injEq]
               congr 1; rw [eq_iff_iff]; constructor
               · rintro ⟨rfl, h⟩; exact ⟨rfl, (qtyItemNo_inj _ _ h).symm⟩
               · rintro ⟨rfl, rfl⟩; exact ⟨rfl, rfl⟩
  | turbine i => cases j <;> first | (simp only [Settings.write, Settings.read, reduceCtorEq, if_false]; done) | skip
                 rename_i j
                 simp only [Settings.write, Settings.read, Bank.get_set, Item.turbine.injEq]
                 congr 1; rw [eq_iff_iff]; exact ⟨fun h => (turbItemNo_inj _ _ h).symm, fun h => by rw [h]⟩
  | exchanger i => cases j <;> first | (simp only [Settings.write, Settings.read, reduceCtorEq, if_false]; done) | skip
                   rename_i j
                   simp only [Settings.write, Settings.read, Bank.get_set, Item.exchanger.injEq]
                   congr 1; rw [eq_iff_iff]; exact ⟨fun h => (hxItemNo_inj _ _ h).symm, fun h => by rw [h]⟩
  | scaling i => cases j <;> first | (simp only [Settings.write, Settings.read, reduceCtorEq, if_false]; done) | skip
                 rename_i j
                 simp only [Settings.write, Settings.read, Bank.get_set, Item.scaling.injEq]
                 congr 1; rw [eq_iff_iff]; exact ⟨fun h => (scaleItemNo_inj _ _ h).symm, fun h => by rw [h]⟩
  | balance i => cases j <;> first | (simp only [Settings.write, Settings.read, reduceCtorEq, if_false]; done) | skip
                 rename_i j
                 simp only [Settings.write, Settings.read, Bank.get_set, Item.balance.injEq]
                 congr 1; rw [eq_iff_iff]; exact ⟨fun h => (balItemNo_inj _ _ h).symm, fun h => by rw [h]⟩
  | field i => cases j <;> first | (simp only [Settings.write, Settings.read, reduceCtorEq, if_false]; done) | skip
               rename_i j
               simp only [Settings.write, Settings.read, Bank.get_set, Item.field.injEq]
               congr 1; rw [eq_iff_iff]; exact ⟨fun h => (fieldItemNo_inj _ _ h).symm, fun h => by rw [h]⟩

/-- When two stations may stand together (R136). -/
theorem stationsClash_false (a b : Station) : stationsClash a b = false ↔ (a.kind ≠ .none →
    b.kind ≠ .none → a.address ≠ b.address ∧ (a.kind = b.kind → a.kind = .well ∧
    a.channel ≠ b.channel)) := by
  rw [← Bool.not_eq_true]; unfold stationsClash
  simp only [Bool.and_eq_true, Bool.or_eq_true, decide_eq_true_eq]
  constructor
  · intro h h1 h2
    refine ⟨fun h3 => h ⟨⟨h1, h2⟩, .inl (.inl h3)⟩, fun h3 => ?_⟩
    by_cases h4 : a.kind = .well
    · exact ⟨h4, fun h5 => h ⟨⟨h1, h2⟩, .inr ⟨h4, h3 ▸ h4, h5⟩⟩⟩
    · exact (h ⟨⟨h1, h2⟩, .inl (.inr ⟨h3, h4⟩)⟩).elim
  · rintro h ⟨⟨h1, h2⟩, h3⟩
    obtain ⟨p, q⟩ := h h1 h2
    rcases h3 with (h3 | ⟨h3, h4⟩) | ⟨h3, h4, h5⟩
    · exact p h3
    · exact h4 (q h3).1
    · exact (q (h3.trans h4.symm)).2 h5

/-- The order rules of a setting, as the statements say them. -/
theorem ordered_iff (s : State) (i) : s.ordered i = true ↔ s.itemOrder i := by
  cases i with
  | well c i =>
    simp only [State.ordered, State.itemOrder, Bool.and_eq_true, decide_eq_true_eq]; exact and_comm
  | turbine i => simp [State.ordered, State.itemOrder]
  | exchanger i => simp [State.ordered, State.itemOrder]
  | scaling i => simp [State.ordered, State.itemOrder]
  | balance i => simp [State.ordered, State.itemOrder]
  | field i => simp [State.ordered, State.itemOrder]
  | qty q i => simp [State.ordered, State.itemOrder]
  | entry e i =>
    simp only [State.ordered, State.itemOrder, State.entryUnique, List.all_eq_true, Bool.or_eq_true,
        decide_eq_true_eq, Bool.not_eq_true', stationsClash_false]
    constructor
    · intro h x hx; rcases h x (by simp [entryNos]) with h | h
      · exact absurd h hx
      · exact h
    · intro h x _; by_cases hx : x = e
      · exact .inl hx
      · exact .inr (h x hx)

/-- A group is locked by the host or by a claim on its target (R176). -/
theorem groupLocked_iff (s : State) (g) : s.groupLocked g = true ↔ s.isLocked g := by
  unfold State.groupLocked State.isLocked State.lockState
  rw [Bool.or_eq_true]
  apply or_congr Iff.rfl
  cases ht : groupTarget g with
  | none => simp
  | some t =>
    simp only [Option.bind_some, Option.some.injEq]
    unfold State.claimant
    rw [List.find?_isSome]
    constructor
    · rintro ⟨k, _, h⟩; exact ⟨k, t, rfl, of_decide_eq_true h⟩
    · rintro ⟨k, x, rfl, h⟩; exact ⟨k, by simp [slotNos], decide_eq_true h⟩

/-- A value is taken in its range and in order (R174). -/
theorem valueOk_iff (s : State) (i v) : s.valueOk i v = true ↔ (itemRange i).lo ≤ v ∧
    v ≤ (itemRange i).hi ∧ (s.setting i v).itemOrder i := by
  unfold State.valueOk
  rw [Bool.and_eq_true, decide_eq_true_eq, ordered_iff]; exact and_assoc

/-- A ROLE is taken in OFF alone (R77). -/
theorem stateAllows_iff (s : State) (i) : s.stateAllows i = true ↔ ∀ c, i = .well c .role →
    (s.wcc.get c).state = .off := by
  unfold State.stateAllows
  split
  · rename_i c; simp
  · rename_i h; simp; intro c hc; exact (h c hc).elim

end Sys2Proof.Laws
end

