-- ==== Sys2Proof/Laws/Tables.lean ====
section
/-! SUPPORT. What the checks and searches of the characteristic tables find (chapter 1). -/

namespace Sys2Proof.Laws

open Sys2Proof.Machine

/-- The order rule of an entry after the one before it, if there is one. -/
def inOrderAfter (n : TableName) (before : Option Int) (v : Int) : Bool :=
    match before with | none => true | some b => entryInOrder n b v

/-- The check of a table takes one entry at a time. -/
theorem offendingFrom_cons (n : TableName) (k0 : Nat) (before : Option Int) (v : Int) (vs : List
    Int) : offendingFrom n k0 before (v :: vs) = if (entryInRange n v && inOrderAfter n before v) =
    true then offendingFrom n (k0+1) (some v) vs else some k0 := by
  cases before <;> rfl

/-- The check names the first entry that is out of range or out of order after its neighbour. -/
theorem offendingFrom_eq (n : TableName) : ∀ (l : List Int) (k0 : Nat) (before : Option Int)
    (k : Nat),
   offendingFrom n k0 before l = some k ↔ ∃ j, k = k0 + j ∧ j < l.length ∧
     (entryInRange n (l.getD j 0) = false ∨ (∃ b, (if j = 0 then before else some (l.getD (j-1) 0))
         = some b ∧ entryInOrder n b (l.getD j 0) = false)) ∧
     ∀ i, i < j → entryInRange n (l.getD i 0) = true ∧ (∀ b,
         (if i = 0 then before else some (l.getD (i-1) 0)) = some b →
         entryInOrder n b (l.getD i 0) = true) := by
  intro l
  induction l with
  | nil => intro k0 b k; simp [offendingFrom]
  | cons v vs ih =>
    intro k0 before k
    rw [offendingFrom_cons]
    by_cases hv : (entryInRange n v && inOrderAfter n before v) = true
    · rw [if_pos hv, ih]
      constructor
      · rintro ⟨j, rfl, hj, ho, hall⟩
        refine ⟨j + 1, by omega, by simp; omega, ?_, ?_⟩
        · rcases ho with h | ⟨b, hb, h⟩
          · left; simpa using h
          · right; refine ⟨b, ?_, by simpa using h⟩
            rcases j with _ | j
            · simpa using hb
            · simpa using hb
        · intro i hi
          rcases i with _ | i
          · simp only [Bool.and_eq_true] at hv
            refine ⟨by simpa using hv.1, ?_⟩
            intro b hb; simp at hb; subst hb; simpa [inOrderAfter] using hv.2
          · have := hall i (by omega)
            refine ⟨by simpa using this.1, fun b hb => ?_⟩
            have h2 := this.2 b; simp at hb; simp
            apply h2; rcases i with _ | i <;> simpa using hb
      · rintro ⟨j, rfl, hj, ho, hall⟩
        rcases j with _ | j
        · exfalso; simp only [Bool.and_eq_true] at hv
          rcases ho with h | ⟨b, hb, h⟩
          · simp at h; rw [h] at hv; simp at hv
          · simp at hb h; subst hb; simp [h, inOrderAfter] at hv
        · refine ⟨j, by omega, by simpa using hj, ?_, ?_⟩
          · rcases ho with h | ⟨b, hb, h⟩
            · left; simpa using h
            · right; refine ⟨b, ?_, by simpa using h⟩
              rcases j with _ | j <;> simpa using hb
          · intro i hi
            have := hall (i+1) (by omega)
            refine ⟨by simpa using this.1, fun b hb => ?_⟩
            have h2 := this.2 b
            apply h2; rcases i with _ | i <;> simpa using hb
    · rw [if_neg hv]
      constructor
      · intro h; injection h with h; subst h
        refine ⟨0, rfl, by simp, ?_, by intro i hi; omega⟩
        simp only [Bool.and_eq_true, not_and_or, Bool.not_eq_true] at hv
        rcases hv with h | h
        · left; simpa using h
        · right
          rcases before with _ | b
          · simp [inOrderAfter] at h
          · exact ⟨b, by simp, by simpa [inOrderAfter] using h⟩
      · rintro ⟨j, rfl, hj, ho, hall⟩
        rcases j with _ | j
        · rfl
        · exfalso; apply hv
          have := hall 0 (by omega)
          simp only [Bool.and_eq_true]; refine ⟨by simpa using this.1, ?_⟩
          rcases before with _ | b
          · rfl
          · simpa [inOrderAfter] using this.2 b (by simp)

/-- The search of a curve stops at the first entry that reaches the value sought. -/
theorem segmentReaching_spec (s : Int) : ∀ l : List Int, segmentReaching s l ≤ l.length ∧
    (∀ j, j < segmentReaching s l → l.getD j 0 < s) ∧ (segmentReaching s l < l.length →
    s ≤ l.getD (segmentReaching s l) 0) := by
  intro l; induction l with
  | nil => simp [segmentReaching]
  | cons v vs ih =>
    simp only [segmentReaching]
    split
    · simp; assumption
    · refine ⟨by simp; omega, ?_, ?_⟩
      · intro j hj; rcases j with _ | j
        · simp; omega
        · simpa using ih.2.1 j (by omega)
      · intro h; simpa using ih.2.2 (by simpa using h)

/-- Every axis has a positive step. -/
theorem axisStep_pos (n) : 0 < axisStep n := by cases n <;> decide

/-- Every axis has an even step. -/
theorem axisStep_even (n) : 2 * (axisStep n / 2) = axisStep n := by cases n <;> decide

/-- A value interpolated in a segment lies between its ends. -/
theorem segment_between (st d f : Int) (h0 : 0 < st) (hf : 0 ≤ f) (hf2 : f < st) (hh : 2 * (st/2) =
    st) :
   min 0 d ≤ (d * f + st / 2) / st ∧ (d * f + st / 2) / st ≤ max 0 d := by
  set h := st / 2
  have hpos : 0 < h := by omega
  constructor
  · rw [Int.le_ediv_iff_mul_le h0]
    rcases le_total 0 d with hd | hd
    · rw [min_eq_left hd]; nlinarith
    · rw [min_eq_right hd]; nlinarith
  · rw [← Int.lt_add_one_iff, Int.ediv_lt_iff_lt_mul h0]
    rcases le_total 0 d with hd | hd
    · rw [max_eq_right hd]; nlinarith
    · rw [max_eq_left hd]; nlinarith

end Sys2Proof.Laws
end

