-- ==== Sys2Proof/Laws/Turbine.lean ====
section
/-! SUPPORT. What the operations of the Turbine Controller can do (chapter 6). -/

namespace Sys2Proof.Laws

open Sys2Proof.Machine

/-- When the turbine order is placed (R102). -/
theorem orderEvents_eq (s : State) (force : Bool) (r : Tbc) : s.orderEvents force r = (if (force =
    true ∨ r.order ≠ s.tbc.order) ∧ r.hold = 0
              ∧ (s.entryOfKind .turbine).isSome then [Instr.setPlaced (.turbine r.order)] else [])
                  := by
  unfold State.orderEvents
  by_cases h : (force = true ∨ r.order ≠ s.tbc.order) ∧ r.hold = 0 ∧ (s.entryOfKind .turbine).isSome
  · rw [if_pos h, if_pos]; rcases h with ⟨h1 | h1, h2, h3⟩ <;> simp [h1, h2, h3]
  · rw [if_neg h, if_neg]; intro hh; apply h; simpa [and_assoc] using hh

/-- The steam demand handed at a change of TBC's record that is no trip (R110). -/
theorem demandEvents_eq (s : State) (new d) (h : new ≠ .tripped ∨ new = s.tbc.state) :
    s.demandEvents new d = if d = s.tbc.steam then [] else [.bbuSteamDemand d] := by
  unfold State.demandEvents
  have : ¬(s.tbc.state ≠ .tripped ∧ new = .tripped) := by
    rintro ⟨a, b⟩; rcases h with h | h
    · exact h b
    · exact a (h ▸ b)
  simp only [this, not_false_eq_true, and_true]

/-- The steam demand handed at a trip, whatever it was (R114). -/
theorem demandEvents_trip (s : State) (d) (h : s.tbc.state ≠ .tripped) :
    s.demandEvents .tripped d = [.bbuSteamDemand d] := by
  unfold State.demandEvents; rw [if_neg (fun x => x.2 ⟨h, rfl⟩)]

/-- A record taken that is no trip: the order, the notice, the events and the steam demand. -/
theorem commit_takes (s : State) (force late r) (h : r.state ≠ .tripped ∨
    r.state = s.tbc.state) : TurbineTakes force late s r (s.commit force [] late none r) := by
  refine ⟨s.steamDemand r, ?_, ?_, ?_, ?_, ?_⟩
  · intro h; unfold State.steamDemand; rcases h with h | h <;> rw [h]
  · intro h; unfold State.steamDemand; rcases h with h | h | h <;> rw [h]
  · intro h; unfold State.steamDemand; rw [h]; rfl
  · intro h; unfold State.steamDemand; rw [h]; rfl
  · unfold State.commit; simp only
    rw [orderEvents_eq, demandEvents_eq _ _ _ h]
    unfold turbNotice turbEvents State.noticed changed
    by_cases he : s.tbc.state = r.state
    · have : TargetState.turbine s.tbc.state = TargetState.turbine r.state := by rw [he]
      rw [if_pos he, if_pos he, if_pos he, if_pos this, if_pos this]
      simp [State.hand, State.notify]
    · have : ¬ TargetState.turbine s.tbc.state = TargetState.turbine r.state := by simpa using he
      have ht : r.state ≠ .tripped := by rcases h with h | h; exact h; exact absurd h.symm he
      rw [if_neg he, if_neg he, if_neg he, if_neg this, if_neg this, if_neg ht]
      simp [State.hand, State.notify, List.append_assoc]

/-- Entering a state that carries no load. -/
theorem enter_eq (s : State) (st) (h : carries st = false) : s.enter st s.tbc = s.turbineInto st :=
    by
  unfold State.enter State.turbineInto; simp only; rw [h]; simp only [Bool.false_eq_true, if_false]
  cases s.tbc.shortfall <;> rfl

/-- A trip of the turbine, step by step (R114). -/
theorem tripTurbine_trips (s : State) (k) (h : s.tbc.state ≠ .tripped) : TurbineTrips k s
    (s.tripTurbine k) := by
  refine ⟨turbCauseCode k, by cases k <;> rfl, ?_⟩
  unfold State.tripTurbine State.commit; simp only
  rw [orderEvents_eq]
  have hr : (s.trippedRecord k) = { s.turbineInto .tripped with
        stageLeft := none, settle := 0, tripOut := true, load := 0, speed := 0, admission := 0
        breakerOpen := true, lastCause := some k } := by
    unfold State.trippedRecord; rw [enter_eq _ _ rfl]
  have hs : (s.trippedRecord k).state = .tripped := by rw [hr]; rfl
  have hh : (s.trippedRecord k).hold = 0 := by rw [hr]; rfl
  have ho : (s.trippedRecord k).order = ⟨.valve, 0, 0, 0, true⟩ := by rw [hr]; rfl
  have hd : s.steamDemand (s.trippedRecord k) = 0 := by unfold State.steamDemand; rw [hs]
  rw [hs, hh, ho, hd]
  unfold turbNotice turbEvents
  rw [if_neg h, if_neg h, if_pos rfl]
  have hsc : s.shortfallEnd = s.shortfallClear := rfl
  simp only [State.hand, State.notify, hsc]
  rw [demandEvents_trip _ _ h, hr]
  by_cases hx : (s.entryOfKind .turbine).isSome = true
  · rw [if_pos hx, if_pos hx, if_pos ⟨.inl trivial, trivial, hx⟩]; simp only [List.append_assoc,
        List.cons_append, List.nil_append]; rfl
  · rw [if_neg hx, if_neg hx, if_neg (fun h => hx h.2.2)]; simp only [List.append_assoc,
        List.cons_append, List.nil_append]; rfl

end Sys2Proof.Laws
end

