-- ==== Sys2Proof/WellFormed.lean ====
section
/-! DEFINITION. When a command is well formed: an event between blocks carries what its owner could hand.
Requests carry whatever the host writes, so each of them is well formed (log 8). No meaning reads this. -/

namespace Sys2Proof

/-- A list names no record twice. -/
def noRepeat {α : Type} [DecidableEq α] (l : List α) : Bool := decide l.Nodup

/-- A delivery names a station of a kind, only that station's quantities and each once, and a sample
number only beside an analyser's (R19 to R21, R136). -/
def Delivery.wellFormed (d : Delivery) : Bool :=
  decide (d.kind ≠ .none)
    && d.readings.all (fun x => decide (x.1 ∈ Machine.stationQtys d.kind d.channel))
    && noRepeat (d.readings.map Prod.fst)
    && (d.sampleNo.isNone || decide (d.kind = .analyser))

/-- A change an update lists is a move that R27 lists. -/
def changeListed (x : QtyNo × QState × QState) : Bool := Machine.listedMove x.2.1 x.2.2

/-- What an update shows of a quantity agrees with what it lists of it. -/
def Update.agrees (u : Update) (x : QtyNo × QState × Int) : Bool :=
  (match u.newValue x.1 with
    | some v => decide (x.2 = (.valid, v))
    | none => true)
  && match u.change x.1 with
    | some c => decide (x.2.1 = c.2)
    | none => true

/-- An update is not empty, lists each quantity once in each list, lists only moves of R27, gives values only of
quantities it leaves VALID, and shows each quantity once before the event and once after it, as it lists it. -/
def Update.wellFormed (u : Update) : Bool :=
  !u.isEmpty && noRepeat (u.values.map Prod.fst) && noRepeat (u.changes.map Prod.fst)
    && u.changes.all changeListed && noRepeat (u.shown.map Prod.fst) && u.shown.all u.agrees
    && noRepeat (u.before.map Prod.fst)
    && u.values.all fun x =>
      match u.changes.lookup x.1 with
      | some c => decide (c.2 = .valid)
      | none => true

/-- A SET carries a demand in its station's range (R54, R76, R100). -/
def SetOrder.wellFormed : SetOrder → Bool
  | .well _ flow => decide (0 ≤ flow ∧ flow ≤ 600)
  | .exchanger bypass => decide (0 ≤ bypass ∧ bypass ≤ 1000)
  | .turbine o => decide (0 ≤ o.speed ∧ 0 ≤ o.load ∧ 0 ≤ o.admission ∧ o.admission ≤ 1000)

/-- A retired station had a kind and an address (R136, R137). -/
def Station.wellFormed (x : Station) : Bool :=
  decide (x.kind ≠ .none ∧ 1 ≤ x.address ∧ x.address ≤ 63)

/-- A state is one of a target's (R150). -/
def Target.hasState : Target → TargetState → Bool
  | .well _, .well _ => true
  | .turbine, .turbine _ => true
  | .exchanger, .exchanger _ => true
  | .balance, .balance _ => true
  | .balance, .hold _ => true
  | _, _ => false

/-- A cause is one of a target's trips: the exchanger's trips carry none (R66, R95, R118). -/
def Target.hasCause : Target → Option TripCause → Bool
  | .well _, some (.well _) => true
  | .turbine, some (.turbine _) => true
  | .exchanger, none => true
  | _, _ => false

/-- A change of state of a target: two different states, both of the target, and a cause exactly at a trip of
a well or the turbine (R95, R118). -/
def changeOf (t : Target) (move : TargetState × TargetState) (cause : Option TripCause) : Bool :=
  decide (move.1 ≠ move.2) && t.hasState move.1 && t.hasState move.2
    && if Machine.isTripState move.2 then t.hasCause cause else cause.isNone

/-- A trip or stop of a target: the balance has neither, a stop alone carries its origin, and a trip alone its
cause (R157). -/
def tripStopOf (t : Target) (what : TripStop) (origin : TripOrigin) : Bool :=
  decide (t ≠ .balance) && match what, origin with
    | .trip, .cause k => t.hasCause k
    | .stop, .command _ => true
    | _, _ => false

/-- A change of a well's state: two different states, and a cause exactly at a trip (R95). -/
def wellChangeOf (move : WellState × WellState) (cause : Option WellCause) : Bool :=
  decide (move.1 ≠ move.2) && (Machine.isWellTrip move.2 == cause.isSome)

/-- A command is well formed. -/
def Instr.wellFormed : Instr → Bool
  | .qtbDelivery d => d.wellFormed
  | .qtbStationLost kind _ => decide (kind ≠ .none)
  | .scmUpdate u => u.wellFormed
  | .hxcUpdate u => u.wellFormed
  | .wccUpdate u => u.wellFormed
  | .tbcUpdate u => u.wellFormed
  | .bbuTankUpdate u => u.wellFormed
  | .sqrQtyUpdate u => u.wellFormed
  | .setPlaced o => o.wellFormed
  | .stationRetire _ old => old.wellFormed
  | .sqrStateChange t move cause => changeOf t move cause
  | .sqrTargetTripStop t what origin => tripStopOf t what origin
  | .alarmChange code source _ => Machine.codeNames code source
  | .alarmClear code source => Machine.codeNames code source
  | .counterIncrement cs => !cs.isEmpty
  | .frameDiscarded bytes => !bytes.isEmpty
  | .wccTarget _ (some t) => decide (0 ≤ t)
  | .scmWellState _ move cause => wellChangeOf move cause
  | .hxcSp0Change old new => decide (old ≠ new)
  | .tbcWellState _ move cause => wellChangeOf move cause
  | .bbuTurbineState move cause =>
    decide (move.1 ≠ move.2) && (decide (move.2 = .tripped) == cause.isSome)
  | .bbuWellState _ move cause =>
    if move.1 = move.2 then cause.isNone else wellChangeOf move cause
  | .powerOn _ _ _ _ => true | .ident => true | .setTime _ => true | .select _ _ => true
  | .operateWellTrip _ => true | .operateWellUnlock _ => true | .operateTurbineTrip _ => true
  | .operateTurbineReset _ => true | .operateSetBoundary _ => true
  | .operateCommissionLock _ => true | .operateRestart _ => true | .restart => true
  | .selectWindowExpiry => true | .plantTimeTick => true | .readQty _ _ => true
  | .loadTable _ _ => true | .readTable _ => true | .evalTableForward _ _ => true
  | .evalTableInverse _ _ _ => true | .readScaling _ => true | .readTrend _ _ => true
  | .captureBaseline _ => true | .hxCmdOn => true | .hxCmdOff => true | .hxCmdIsolate => true
  | .hxCmdResume => true | .hxCmdOffset _ => true | .readExchanger => true
  | .wellCmdStart _ => true | .wellCmdStop _ => true | .wellCmdResetTrip _ => true
  | .wellCmdWeight _ _ => true | .readWell _ => true | .turbCmdStart => true | .turbCmdStop => true
  | .turbCmdLoad _ => true | .readTurbine => true | .balCmdMode _ => true
  | .balCmdFixedTarget _ => true | .readBalance => true | .readField _ => true
  | .seqLoad _ _ => true | .seqRun _ => true | .seqSuspend _ => true | .seqResume _ => true
  | .seqAbort _ => true | .readSeq _ => true | .ack _ _ => true | .ackAll => true
  | .readAlarms _ _ => true | .readCounters _ => true | .readAndClear _ => true
  | .setParam _ _ _ => true | .getParam _ _ => true | .lockGroup _ => true | .unlockGroup _ => true
  | .setLimit _ _ => true | .readLimits => true | .store => true | .storeComplete _ => true
  | .badKind _ => true | .linkOverrun => true | .replyComplete => true | .portResync => true
  | .noticeStart => true | .noticeComplete => true | .tripInAsserted => true
  | .tripInCleared => true | .slotExpiry => true | .fieldReplyReceived _ => true
  | .replyTimeout => true | .tripPlaced _ => true | .settingChangeTaken _ _ => true
  | .scmRoleChange _ _ => true | .staleClockExpiry => true | .trendIntervalExpiry => true
  | .hxcSilicaStale _ => true | .hxcLinkLost => true | .hxcSecondTimer => true
  | .heatLimitedMin => true | .wccStatusEvent _ => true | .wccFlashMargin _ _ => true
  | .wccFlashHold _ _ => true | .wccLinkLost _ => true | .wccTarget _ none => true
  | .rampTimerExpiry _ => true | .startTimerExpiry _ => true | .wccSecondTimer => true
  | .tbcStatusEvent _ => true | .tbcLinkLost => true | .tbcWellDemand _ => true
  | .stageTimerExpiry => true | .tbcSecondTimer => true | .settleComplete => true
  | .runupTimeout => true | .syncTimeout => true | .valveMismatch => true | .adoptHoldEnd => true
  | .bbuSteamDemand _ => true | .bbuWellDemand _ => true
  | .bbuWellWeight _ => true | .bbuFlashHold _ _ => true | .holdTimerExpiry => true
  | .seqCommandStep _ => true | .seqWaitStep _ => true | .seqPauseStep _ => true
  | .seqEndStep _ => true | .sqrSecondTimer => true | .waitTimeout _ => true
  | .delayExpiry _ => true | .staleClockSecond => true

end Sys2Proof
end

