-- ==== Sys2Proof/Tests/Slice0.lean ====
section
/-! SUPPORT. Tests: ill-formed commands that each check of WellFormed refuses, the worked figures and sequences
of the spec, and for every statement that has hypotheses a witness that meets them. Expected values are the
spec's own, named in each comment. -/

open Sys2Proof Sys2Proof.Machine

namespace Sys2Proof.Tests

set_option maxRecDepth 10000

/-! ## Small states -/

/-- An update that shows no more than it lists. -/
def upd (values : List (QtyNo × Int)) (changes : List (QtyNo × QState × QState)) : Update := ⟨values, changes, [], []⟩

/-- The state a command leaves. -/
def after (i : Instr) (s : State) : State :=
  match exec i s with
  | .next t => t
  | _ => s

/-- The status of the reply that stands. -/
def replied (s : State) : Option (Status × Content) := s.svp.reply.map fun r => (r.status, r.content)

/-- The events a command hands on, from a state that holds none handed. -/
def hands (i : Instr) (s : State) : List Instr := (after i s).handed

/-- A setting given a value. -/
def withItem (i : Item) (v : Int) (s : State) : State := s.setting i v

/-- A channel's record changed. -/
def well (c : WellNo) (f : Well → Well) (s : State) : State := { s with wcc := s.wcc.modify c f }

/-- The turbine's record changed. -/
def turb (f : Tbc → Tbc) (s : State) : State := { s with tbc := f s.tbc }

/-- The exchanger's record changed. -/
def hx (f : Hxc → Hxc) (s : State) : State := { s with hxc := f s.hxc }

/-- The balance's record changed. -/
def bal (f : Bbu → Bbu) (s : State) : State := { s with bbu := f s.bbu }

/-- A slot's record changed. -/
def slot (k : SlotNo) (f : Slot → Slot) (s : State) : State := { s with sqr := s.sqr.modify k f }

/-- The Scaling Monitor changed. -/
def scale (f : Scm → Scm) (s : State) : State := { s with scm := f s.scm }

/-- The link changed. -/
def link (f : Flc → Flc) (s : State) : State := { s with flc := f s.flc }

/-- The port changed. -/
def port (f : Svp → Svp) (s : State) : State := { s with svp := f s.svp }

/-- Settings and Limits changed. -/
def store (f : Ssl → Ssl) (s : State) : State := { s with ssl := f s.ssl }

/-- A quantity VALID at a value. -/
def valid (q : QtyNo) (v : Int) (s : State) : State :=
  { s with qtb := s.qtb.set q ⟨.valid, 16 * v, 4, 0, some 0, none⟩ }

/-- The brine floor FRESH at a value. -/
def floorAt (v : Int) (s : State) : State :=
  scale (fun m => { m with floor := ⟨.fresh, some v, some 682, .none, v, none, false⟩ }) s

/-- The part after reset with a sound store, an empty alarm table and no notice waiting. -/
def plant : State :=
  { State.reset with
    svp := { State.reset.svp with notices := [], storeFaultSeen := false }
    alt := { State.reset.alt with table := [], alarmOut := false }
    ssl := { State.reset.ssl with storeFault := false } }

/-- A station bound to an entry and ONLINE. -/
def station (e : EntryNo) (k : Kind) (address channel : Int) (s : State) : State :=
  link (fun f => { f with stations := f.stations.set e ⟨.online, 0, none⟩ })
    (withItem (.entry e .kind) (kindCode k) (withItem (.entry e .address) address
      (withItem (.entry e .channel) channel s)))

/-- A production well W3 and a reinjection well W8, each with its station, and the other three stations. -/
def field : State :=
  station 0 .well 3 3 <| station 1 .well 5 8 <| station 2 .turbine 7 0 <| station 3 .exchanger 9 0
    <| withItem (.well 3 .role) 0 <| withItem (.well 8 .role) 1 plant

/-- A slot 1 that runs one step and claims one target. -/
def claims (t : Target) (s : State) : State :=
  slot 1 (fun r => { r with state := .running, steps := [⟨.fin, none, none, none, .abort⟩], claims := [t] }) s

/-! ## WellFormed: each check refuses an ill-formed command -/

theorem smoke_good_delivery : Instr.wellFormed
    (.qtbDelivery ⟨.analyser, 0, [(113, .value 612 .good)], some 40⟩) = true := by decide
theorem smoke_delivery_kind : Instr.wellFormed (.qtbDelivery ⟨.none, 0, [], none⟩) = false := by decide
theorem smoke_delivery_other_station : Instr.wellFormed
    (.qtbDelivery ⟨.weather, 0, [(113, .erasure)], none⟩) = false := by decide
theorem smoke_delivery_repeats : Instr.wellFormed
    (.qtbDelivery ⟨.weather, 0, [(114, .erasure), (114, .erasure)], none⟩) = false := by decide
theorem smoke_delivery_number : Instr.wellFormed
    (.qtbDelivery ⟨.weather, 0, [(114, .erasure)], some 1⟩) = false := by decide
theorem smoke_lost_kind : Instr.wellFormed (.qtbStationLost .none 0) = false := by decide
theorem smoke_good_update : Instr.wellFormed
    (.scmUpdate (upd [(113, 619)] [(113, .priming, .valid)])) = true := by decide
theorem smoke_update_empty : Instr.wellFormed (.scmUpdate (upd [] [])) = false := by decide
theorem smoke_update_values_repeat : Instr.wellFormed
    (.hxcUpdate (upd [(103, 1), (103, 2)] [])) = false := by decide
theorem smoke_update_changes_repeat : Instr.wellFormed
    (.wccUpdate (upd [] [(0, .valid, .stale), (0, .priming, .stale)])) = false := by decide
theorem smoke_update_unlisted_move : Instr.wellFormed
    (.tbcUpdate (upd [] [(96, .unprimed, .priming)])) = false := by decide
theorem smoke_update_value_not_valid : Instr.wellFormed
    (.bbuTankUpdate (upd [(111, 5)] [(111, .valid, .stale)])) = false := by decide
theorem smoke_update_shows_otherwise : Instr.wellFormed
    (.scmUpdate ⟨[(113, 619)], [], [(113, .valid, 618)], []⟩) = false := by decide
theorem smoke_update_shows_twice : Instr.wellFormed
    (.scmUpdate ⟨[(113, 619)], [], [(112, .stale, 0), (112, .valid, 0)], []⟩) = false := by decide
theorem smoke_sequence_update_empty : Instr.wellFormed (.sqrQtyUpdate (upd [] [])) = false := by decide
theorem smoke_set_flow : Instr.wellFormed (.setPlaced (.well 0 601)) = false := by decide
theorem smoke_set_bypass : Instr.wellFormed (.setPlaced (.exchanger 1001)) = false := by decide
theorem smoke_set_admission : Instr.wellFormed
    (.setPlaced (.turbine ⟨.valve, 0, 0, 1001, false⟩)) = false := by decide
theorem smoke_retired_kind : Instr.wellFormed (.stationRetire 0 ⟨.none, 3, 0⟩) = false := by decide
theorem smoke_retired_address : Instr.wellFormed (.stationRetire 0 ⟨.brine, 64, 0⟩) = false := by decide
theorem smoke_change_equal : Instr.wellFormed
    (.sqrStateChange .turbine (.turbine .loaded, .turbine .loaded) none) = false := by decide
theorem smoke_change_old : Instr.wellFormed
    (.sqrStateChange .turbine (.well .off, .turbine .loaded) none) = false := by decide
theorem smoke_change_new : Instr.wellFormed
    (.sqrStateChange (.well 0) (.well .off, .hold .normal) none) = false := by decide
theorem smoke_trip_of_balance : Instr.wellFormed
    (.sqrTargetTripStop .balance .trip (.cause none)) = false := by decide
theorem smoke_stop_without_origin : Instr.wellFormed
    (.sqrTargetTripStop .turbine .stop (.cause none)) = false := by decide
theorem smoke_trip_without_cause : Instr.wellFormed
    (.sqrStateChange (.well 0) (.well .running, .well .tripped) none) = false := by decide
theorem smoke_cause_without_trip : Instr.wellFormed
    (.bbuWellState 0 (.running, .stopping) (some .flash)) = false := by decide
theorem smoke_turbine_trip_without_cause : Instr.wellFormed
    (.bbuTurbineState (.loaded, .tripped) none) = false := by decide
theorem smoke_cause_of_another_target : Instr.wellFormed
    (.sqrTargetTripStop .turbine .trip (.cause (some (.well .flash)))) = false := by decide
theorem smoke_alarm_source : Instr.wellFormed
    (.alarmChange .turbTrip .store (.raise .trip 1)) = false := by decide
theorem smoke_clear_address : Instr.wellFormed (.alarmClear .stationLost (.station 64)) = false := by decide
theorem smoke_no_increment : Instr.wellFormed (.counterIncrement []) = false := by decide
theorem smoke_no_bytes : Instr.wellFormed (.frameDiscarded []) = false := by decide
theorem smoke_target_negative : Instr.wellFormed (.wccTarget 0 (some (-1))) = false := by decide
theorem smoke_well_stays : Instr.wellFormed (.scmWellState 0 (.off, .off) none) = false := by decide
theorem smoke_point_stays : Instr.wellFormed (.hxcSp0Change .watch .watch) = false := by decide
theorem smoke_well_stays_for_turbine : Instr.wellFormed (.tbcWellState 0 (.off, .off) none) = false := by decide
theorem smoke_turbine_stays : Instr.wellFormed (.bbuTurbineState (.loaded, .loaded) none) = false := by decide

/-! ## The step and the queue -/

/-- An empty queue with nothing handed idles (log 2). -/
theorem test_idle : step State.reset = .next State.reset := by rfl

/-- A command goes before an event handed; the oldest event handed goes before the next (log 1). -/
theorem test_order :
    let s := { plant with pending := [.tripInAsserted], handed := [.alarmClear .storeFault .store, .hxcLinkLost] }
    step s = exec .tripInAsserted { s with pending := [] }
      ∧ step { s with pending := [] } = exec (.alarmClear .storeFault .store) { s with pending := [] } :=
  ⟨rfl, rfl⟩

/-- No word spells a command (log 8). -/
theorem test_no_word : decodeTableWord 32 5 = none ∧ State.reset.withFetchWord 32 5 = State.reset := ⟨rfl, rfl⟩

/-! ## Chapter 1: the worked figures -/

theorem test_forward_silica : [150, 275, 700, 1375, 1950, 2600, 2750].map (forward .silica factorySilica)
    = [(106, .clampLow), (124, .none), (246, .none), (550, .none), (909, .none), (1409, .none),
      (1409, .clampHigh)] := by decide
theorem test_forward_psat : [150, 1200, 1625, 1800, 2450, 2900].map (forward .psat factoryPsat)
    = [(2, .clampLow), (202, .none), (668, .none), (1013, .none), (3650, .none), (4692, .clampHigh)] := by
  decide
theorem test_forward_curve : [-450, -133, -125, 190, 230, 400, 480].map (forward .curve factoryCurve)
    = [(1200, .clampLow), (1036, .none), (1030, .none), (752, .none), (750, .none), (750, .none),
      (750, .clampHigh)] := by decide
theorem test_inverse : [(96, 100), (97, 100), (620, 0), (650, 0), (620, 100), (1280, 100), (1281, 100)].map
      (fun x => inverse factorySilica x.1 x.2)
    = [(106, 200, .low), (107, 205, .none), (620, 1499, .none), (650, 1550, .none), (682, 1603, .none),
      (1408, 2599, .none), (1410, 2600, .unreachable)] := by decide

/-- The refused and the accepted load of R6's worked sequence. -/
theorem test_load_refused : replied (after (.loadTable (some .curve) [1200, 1170, 1140, 1110, 1080, 1050, 1010,
    970, 930, 880, 820, 740, 750, 750, 750, 750, 750]) plant) = some (.badTable, .badIndex 12) := by decide
theorem test_load_accepted :
    let t := after (.loadTable (some .curve) [1200, 1170, 1140, 1110, 1080, 1050, 1010, 970, 930, 880, 820, 740,
      740, 740, 740, 740, 740]) plant
    replied t = some (.ok, .none) ∧ t.tip.curve.origin = .loaded ∧ (t.tip.curve.entries.get 12) = 740 := by decide
theorem test_read_table : replied (after (.readTable (some .psat)) plant)
    = some (.ok, .table factoryPsat .factory) := by decide
theorem test_eval_forward : replied (after (.evalTableForward (some .curve) (-133)) plant)
    = some (.ok, .forward 1036 .none) := by decide
theorem test_eval_inverse : replied (after (.evalTableInverse (some .silica) 620 100) plant)
    = some (.ok, .inverse 682 1603 .none) := by decide

/-! ## Chapter 2: the worked sequences -/

/-- The smoothing figures: 9600 takes 640 with weight 4 to 9760, and 650 to 9920, reported 610 and 620. -/
theorem test_smoothing :
    let a := (⟨.valid, 9600, 4, 0, none, none⟩ : Qty).sample 0 4 640
    let b := a.sample 0 4 650
    (a.y, reportedOf a.y, b.y, reportedOf b.y) = (9760, 610, 9920, 620) := by decide

/-- A FLOW of 640 lies above the plausible range of R16, so it is an erasure (R19, log 30). -/
theorem test_out_of_range : ((after (.qtbDelivery ⟨.well, 0, [(0, .value 640 .good)], none⟩)
    (valid 0 600 plant)).qtb.get 0) = ⟨.valid, 9600, 4, 1, some 0, none⟩ := by decide

/-- Sample no. 45: −84/16 is truncated to −5, and SILICA becomes VALID with the new value 619. -/
theorem test_priming_ends :
    let s := { plant with qtb := plant.qtb.set qSilica ⟨.priming, 9909, 3, 0, some 0, some 44⟩ }
    let t := after (.qtbDelivery ⟨.analyser, 0, [(113, .value 618 .good)], some 45⟩)
      (withItem (.qty 113 .weight) 4 s)
    t.qtb.get qSilica = ⟨.valid, 9904, 4, 0, some 0, some 45⟩
      ∧ t.handed.head? = some (.scmUpdate ⟨[(113, 619)], [(113, .priming, .valid)], [(113, .valid, 619)],
        [(113, .priming, 619)]⟩) := by decide

/-- A taker reads the other quantities of the update's station as the update left them (R27): INTAKE_P has gone
on to 1500 and the update still gives 1400. -/
theorem test_update_is_one_reply :
    let u : Update := ⟨[(qWhTemp 3, 1800)], [], [(qIntakeP 3, .valid, 1400), (qWhTemp 3, .valid, 1800)], []⟩
    let t := after (.scmUpdate u) (valid (qIntakeP 3) 1500 (valid (qWhTemp 3) 1800 field))
    (t.scm.calcite.get 3).margin = some 387 := by decide

/-- R18 at SET_PARAM: a value above the new upper end goes to it, and a run that has reached a lowered erasure
limit makes the quantity STALE and hands the update; nothing waits for a later event (log 33). -/
theorem test_range_taken_at_once :
    ((after (.setParam (some (itemGroup (.qty 113 .rangeHigh))) (some (.qty 113 .rangeHigh)) 600) (valid 113 619 plant)).qtb.get 113)
      = ⟨.valid, 9600, 4, 0, some 0, none⟩ := by decide
theorem test_erase_limit_taken_at_once :
    let s : State := { plant with qtb := plant.qtb.set qTankLevel ⟨.valid, 800, 4, 2, some 0, none⟩ }
    let t := after (.setParam (some (itemGroup (.qty 111 .eraseLimit))) (some (.qty 111 .eraseLimit)) 2) s
    t.qtb.get qTankLevel = ⟨.stale, 800, 0, 2, some 0, none⟩
      ∧ t.handed.any (fun i => match i with | .bbuTankUpdate _ => true | _ => false) := by decide

/-- A LOST station's VALID quantity becomes STALE and keeps its Y. -/
theorem test_lost : ((after (.qtbStationLost .analyser 0) (valid 113 619 plant)).qtb.get 113)
    = ⟨.stale, 9904, 0, 0, some 0, none⟩ := by decide
theorem test_read_qty : (replied (after (.readQty 113 1) (valid 113 619 plant)))
    = some (.ok, .qtys [⟨113, .valid, some 619, 4, 0, some 0, none⟩]) := by decide

/-! ## Chapter 3: the worked sequences -/

/-- SP0 as the worked sequence has it before line 4, with SILICA VALID at 620. -/
def sp0 (f : Point → Point) (s : State) : State :=
  scale (fun m => { m with points := m.points.modify 0 f }) (valid qSilica 620 s)

/-- Line 4: at 1450 the watch run reaches 3, the SI is 1047 and WATCH is raised. -/
theorem test_point_watch :
    let s := valid qHxOutT 1450 (sp0 (fun r => { r with watchRun := 2 }) plant)
    let t := after (.scmUpdate (upd [(qHxOutT, 1450)] [])) s
    ((t.scm.points.get 0).state, (t.scm.points.get 0).si, (t.scm.points.get 0).watchRun) = (.watch, some 1047, 3)
      ∧ t.handed = [.alarmChange .silicaSi (.point 0) (.raise .watch 1047), .hxcSp0Change .clear .watch] := by
  decide

/-- Line 10: the third fall at 910 takes ALARM to WATCH, and the fall run starts again. -/
theorem test_point_falls :
    let s := valid qHxOutT 1600 (sp0 (fun r => { r with state := .alarm, fallRun := 2 }) plant)
    let t := after (.scmUpdate (upd [(qHxOutT, 1600)] [])) s
    ((t.scm.points.get 0).state, (t.scm.points.get 0).si, (t.scm.points.get 0).fallRun) = (.watch, some 910, 0)
      ∧ t.handed = [.alarmChange .silicaSi (.point 0) (.deescalate .watch), .hxcSp0Change .alarm .watch] := by
  decide

/-- The floor through an analyser outage: 1603 is held at 1653, and 628 brings 1617. -/
theorem test_floor_held :
    let t := after (.scmUpdate (upd [] [(qSilica, .valid, .stale)])) (floorAt 1603 plant)
    t.scm.floor = ⟨.staleHeld, some 1603, some 682, .none, 1653, some 0, false⟩ := by decide
theorem test_floor_returns :
    let s := scale (fun m => { m with floor := ⟨.staleHeld, some 1603, some 682, .none, 1653, some 1800, true⟩ })
      (valid qSilica 628 plant)
    let t := after (.scmUpdate (upd [(qSilica, 628)] [(qSilica, .priming, .valid)])) s
    t.scm.floor = ⟨.fresh, some 1617, some 691, .none, 1617, none, false⟩
      ∧ t.handed.take 2 = [.alarmClear .silicaStale .floor, .hxcSilicaStale false] := by decide
theorem test_silica_stale :
    let s := scale (fun m => { m with
      floor := ⟨.staleHeld, some 1603, some 682, .none, 1653, some 1799, false⟩ }) plant
    hands .staleClockSecond s = [.alarmChange .silicaStale .floor (.raise .alarm 30), .hxcSilicaStale true] := by
  decide
theorem test_silica_stale_expiry :
    let s := scale (fun m => { m with
      floor := ⟨.staleHeld, some 1603, some 682, .none, 1653, some 1800, false⟩ }) plant
    hands .staleClockExpiry s = [.alarmChange .silicaStale .floor (.raise .alarm 30), .hxcSilicaStale true] := by
  decide

/-- The flash margin at WH_TEMP 1800 and INTAKE_P 1400 is +387 kPa. -/
theorem test_flash_margin :
    let s := valid (qIntakeP 3) 1400 (valid (qWhTemp 3) 1800 field)
    let t := after (.scmUpdate (upd [(qIntakeP 3, 1400), (qWhTemp 3, 1800)] [])) s
    (t.scm.calcite.get 3).margin = some 387 ∧ Instr.wccFlashMargin 3 (some 387) ∈ t.handed := by decide

/-- Reply 3 of the pump fouling figures: 1045 over a baseline of 800 is 1306, which escalates. -/
theorem test_fouling :
    let s := withItem (.well 3 .ratedFlow) 200 (valid (qFlow 3) 198 (valid (qPumpDp 3) 1045 field))
    let s := scale (fun m => { m with fouling := m.fouling.set 3 ⟨some 800, some 1163, .watch⟩ }) s
    let t := after (.scmUpdate (upd [(qFlow 3, 198), (qPumpDp 3, 1045)] [])) s
    t.scm.fouling.get 3 = ⟨some 800, some 1306, .alarm⟩
      ∧ t.handed = [.alarmChange .pumpFouling (.well 3) (.escalate .alarm 1306)] := by decide
theorem test_capture :
    let s := valid qHxBrineFlow 300 (valid qHxDp 800 (withItem (.exchanger .ratedBrineFlow) 300 plant))
    (after (.captureBaseline .exchanger) s).scm.hxFouling = ⟨some 800, some 1000, .none⟩ := by decide
theorem test_well_leaves_running :
    let s := scale (fun m => { m with
      calcite := m.calcite.set 3 ⟨none, .none, false, 5, .watch, true⟩ }) field
    hands (.scmWellState 3 (.running, .stopping) none) s = [.alarmClear .calciteRisk (.well 3)] := by decide
theorem test_role_leaves_production :
    let s := scale (fun m => { m with
      calcite := m.calcite.set 3 ⟨some 387, .none, false, 5, .watch, true⟩ }) field
    hands (.scmRoleChange 3 .unused) s = [.wccFlashMargin 3 none, .alarmClear .calciteRisk (.well 3)] := by decide

/-- Three records, numbered 0 to 2: a request for first 1, count 8 gives 1, 2 and 0. -/
def trend (n : Nat) : Trend := ⟨BitVec.ofNat 32 n, 0, 0, .clear, false, 0, 0, 0, 1, 1700⟩
theorem test_read_trend :
    let s := scale (fun m => { m with trend := [trend 0, trend 1, trend 2], nextSeq := 3 }) plant
    replied (after (.readTrend 1 8) s) = some (.ok, .trend 2 3 false [trend 1, trend 2, trend 0]) := by decide
theorem test_trend_written :
    let s := sp0 (fun r => { r with figures := ⟨910, 975, 1885, 2, false⟩ }) (floorAt 1603 plant)
    (after .trendIntervalExpiry s).scm.trend = [⟨0, 0, 0, .clear, false, 910, 975, 943, 2, 1603⟩] := by decide
theorem test_read_floor : replied (after (.readScaling (some .floor)) plant)
    = some (.ok, .floor ⟨.none, none, none, .none, 1700, none, false⟩) := by decide

/-! ## Chapter 4: the worked sequences -/

/-- The exchanger of the worked sequences, with its station, a target of 1030 and the floor at 1603. -/
def heater (mode : HxMode) (bypass : Int) : State :=
  hx (fun h => { h with mode := mode, bypass := bypass, target := 1030 }) (floorAt 1603 field)

/-- One EXCHANGER reply with a supply and an outlet. -/
def exReply (mode : HxMode) (bypass supply outlet : Int) : State :=
  after (.hxcUpdate (upd [(qHxOutT, outlet), (qNetSupplyT, supply)] []))
    (valid qHxOutT outlet (heater mode bypass))

theorem test_control_line_1 :
    let t := exReply .heating 386 985 1625
    (t.hxc.mode, t.hxc.bypass) = (.heatLimited, 396) := by decide
theorem test_control_lines : ([(.heating, 400, 1000, 1680), (.heating, 394, 987, 1640),
      (.heatLimited, 396, 980, 1638), (.heatLimited, 396, 1050, 1645), (.heatLimited, 400, 1000, 1660),
      (.heating, 394, 900, 1700)] : List (HxMode × Int × Int × Int)).map
        (fun x => ((exReply x.1 x.2.1 x.2.2.1 x.2.2.2).hxc.mode, (exReply x.1 x.2.1 x.2.2.1 x.2.2.2).hxc.bypass))
    = [(.heating, 394), (.heating, 386), (.heatLimited, 396), (.heatLimited, 400), (.heating, 394),
      (.heating, 374)] := by decide
theorem test_isolation :
    let s := heater .heating 374
    hands (.hxcSp0Change .watch .alarm) s = [.setPlaced (.exchanger 1000),
      .alarmChange .hxIsolated .exchanger (.raise .alarm 1), .counterIncrement [.isolations],
      .sqrTargetTripStop .exchanger .trip (.cause none),
      .sqrStateChange .exchanger (.exchanger .heating, .exchanger .isolated) none] := by decide
theorem test_resume_refused : replied (after .hxCmdResume
    (hx (fun h => { h with causes := ⟨true, false, false, true⟩ }) (heater .isolated 1000)))
    = some (.refusedState, .none) := by decide
theorem test_resume :
    let s := hx (fun h => { h with causes := ⟨false, false, false, true⟩ }) (heater .isolated 1000)
    let t := after .hxCmdResume s
    (t.hxc.mode, t.hxc.bypass, t.hxc.causes.host) = (.heating, 1000, false)
      ∧ Instr.alarmClear .hxIsolated .exchanger ∈ t.handed := by decide
theorem test_hx_on : (after .hxCmdOn plant).hxc.mode = .heating := by decide
theorem test_hx_off : (after .hxCmdOff (heater .heating 374)).hxc.bypass = 1000 := by decide
theorem test_hx_isolate : (after .hxCmdIsolate (heater .heating 374)).hxc.causes = ⟨false, false, false, true⟩ := by
  decide
theorem test_silica_stale_reaches_exchanger : (after (.hxcSilicaStale true) (heater .heating 374)).hxc.mode
    = .isolated := by decide
theorem test_link_lost_adds_nothing : (after .hxcLinkLost (heater .heating 374)).hxc = (heater .heating 374).hxc := by
  decide

/-- The target figures: −250 over a held base of 1110 gives −200 and 910, CLAMPED. -/
theorem test_offset :
    let t := after (.hxCmdOffset (-250))
      (hx (fun h => { h with source := .held, curveBase := some 1110, offset := 50 }) plant)
    (t.hxc.offset, t.hxc.target) = (-200, 910) ∧ replied t = some (.clamped, .none) := by decide
theorem test_target : (after (.hxcUpdate (upd [(qOutdoorT, 190)] [])) (hx (fun h => { h with offset := -200 })
      (withItem (.exchanger .supplyMin) 600 plant))).hxc.target = 600 := by decide

/-- The breach figures: the third value below 1603 raises; 1603 keeps; 1604 clears. -/
theorem test_breach :
    let s := hx (fun h => { h with breachRun := 2 }) (heater .heatLimited 400)
    hands (.hxcUpdate (upd [(qHxOutT, 1590)] [])) s = [.alarmChange .floorBreach .exchanger (.raise .alarm 1590),
      .counterIncrement [.floorBreaches]] := by decide
theorem test_breach_ends :
    let s := hx (fun h => { h with breachRun := 3, breach := true }) (heater .heatLimited 400)
    hands (.hxcUpdate (upd [(qHxOutT, 1603)] [])) s = []
      ∧ hands (.hxcUpdate (upd [(qHxOutT, 1604)] [])) s = [.alarmClear .floorBreach .exchanger] := by decide
theorem test_heat :
    let s := valid qHxBrineFlow 300 (valid qHxInT 1750 (valid qNetFlow 800
      (valid qNetSupplyT 1030 (valid qNetReturnT 550 (floorAt 1603 plant)))))
    let t := after (.hxcUpdate (upd [(qHxBrineFlow, 300), (qNetFlow, 800)] [])) s
    (t.hxc.qmax, t.hxc.heat) = (some 4192, some 44693) := by decide
theorem test_limited_minute : hands .hxcSecondTimer (hx (fun h => { h with limitedSeconds := 59 })
    (heater .heatLimited 400)) = [.counterIncrement [.heatLimitedMin]] := by decide
theorem test_limited_minute_row : hands .heatLimitedMin (hx (fun h => { h with limitedSeconds := 59 })
    (heater .heatLimited 400)) = [.counterIncrement [.heatLimitedMin]] := by decide

/-! ## Chapter 5: the worked sequences -/

/-- W3 in a state, with its ramp timer as the state has it. -/
def pump (st : WellState) (demand : Int) (s : State) : State :=
  well 3 (fun w => { w with state := st, demand := demand, adopting := false
                            ramp := decide (st = .starting ∨ st = .running ∨ st = .stopping)
                            startLeft := if st = .starting then some 120 else none }) s

theorem test_start :
    let t := after (.wellCmdStart 3) field
    ((t.wcc.get 3).state, (t.wcc.get 3).ramp, (t.wcc.get 3).startLeft) = (.starting, true, some 120)
      ∧ replied t = some (.ok, .none) := by decide
theorem test_start_needs_store : replied (after (.wellCmdStart 3) (store (fun x => { x with storeFault := true })
    field)) = some (.refusedStore, .none) := by decide
theorem test_ramp_starts :
    let s := withItem (.well 3 .minFlow) 60 (withItem (.well 3 .rampStep) 10
      (pump .starting 50 field))
    let t := after (.rampTimerExpiry 3) s
    (t.wcc.get 3).demand = 60 ∧ Instr.setPlaced (.well 3 60) ∈ t.handed
      ∧ hands (.rampTimerExpiry 3) (pump .starting 60 s) = [] := by decide
theorem test_start_ends :
    let s := withItem (.well 3 .startThreshold) 40 (pump .starting 60 field)
    let t := after (.wccUpdate (upd [(qFlow 3, 46)] [])) s
    ((t.wcc.get 3).state, (t.wcc.get 3).demand, (t.wcc.get 3).startLeft) = (.running, 60, none) := by decide
theorem test_target_taken : ((after (.wccTarget 3 (some 150)) (pump .running 60 field)).wcc.get 3).target
    = some 150 := by decide

/-- Reply n+1: both runs at 2 with TRIP_PERSIST 2; OVERCURRENT is recorded and counted. -/
theorem test_two_causes :
    let s := withItem (.well 3 .tripPersist) 2 (well 3 (fun w => { w with ocRun := 2, flashRun := 2 })
      (pump .running 150 field))
    let t := after (.wccStatusEvent ⟨3, true, false, 150, .good⟩) s
    ((t.wcc.get 3).state, (t.wcc.get 3).lastCause, (t.wcc.get 3).demand) = (.tripped, some .overcurrent, 0)
      ∧ t.handed.count (.counterIncrement [.wellTrips 3 .overcurrent]) = 1
      ∧ t.handed.count (.alarmChange .wellTrip (.well 3) (.raise .trip 3)) = 1 := by decide
theorem test_overcurrent_run : ((after (.wccUpdate (upd [(qCurrent 3, 1560)] [])) (pump .running 150 field)).wcc.get 3).ocRun
    = 1 := by decide
theorem test_flash_run :
    let t := after (.wccFlashMargin 3 (some 80)) (pump .running 150 field)
    ((t.wcc.get 3).flashRun, (t.wcc.get 3).margin) = (1, some 80) := by decide

/-- The lockout figures of W7, at W3: 300 lies outside the window at 4200; the count of 3 at 5100 locks out. -/
def lockout (now : U32) (history : List U32) : State :=
  port (fun v => { v with plantTime := now }) (withItem (.well 3 .lockoutWindow) 60
    (withItem (.well 3 .lockoutCount) 3 (withItem (.well 3 .cooldown) 300
      (well 3 (fun w => { w with history := history }) (pump .running 150 field)))))
theorem test_trip :
    let t := after (.wccLinkLost 3) (lockout 4200 [300, 3000])
    ((t.wcc.get 3).state, (t.wcc.get 3).history, (t.wcc.get 3).cooldown) = (.tripped, [300, 3000, 4200], 300) := by
  decide
theorem test_lockout :
    let t := after (.wccLinkLost 3) (lockout 5100 [300, 3000, 4200])
    (t.wcc.get 3).state = .lockedOut
      ∧ Instr.alarmChange .wellLockout (.well 3) (.raise .alarm 3) ∈ t.handed := by decide
theorem test_reset_trip_waits : replied (after (.wellCmdResetTrip 3) (well 3 (fun w => { w with cooldown := 150 })
    (pump .tripped 0 field))) = some (.refusedState, .seconds 150) := by decide
theorem test_reset_trip_locked_out : replied (after (.wellCmdResetTrip 3) (pump .lockedOut 0 field))
    = some (.refusedState, .seconds 0) := by decide
theorem test_unlock :
    let s := port (fun v => { v with selection := some (.wellUnlock, 3) })
      (well 3 (fun w => { w with history := [1, 2] }) (pump .lockedOut 0 field))
    let t := after (.operateWellUnlock 3) s
    ((t.wcc.get 3).state, (t.wcc.get 3).history) = (.off, []) := by decide
theorem test_well_trip :
    let s := port (fun v => { v with selection := some (.wellTrip, 3) })
      (pump .running 150 field)
    ((after (.operateWellTrip 3) s).wcc.get 3).lastCause = some .operator := by decide
theorem test_start_fails : ((after (.startTimerExpiry 3) (pump .starting 30 field)).wcc.get 3).lastCause
    = some .startFail := by decide
theorem test_stop : ((after (.wellCmdStop 3) (pump .running 150 field)).wcc.get 3).state = .stopping := by decide
theorem test_weight_clamped :
    let t := after (.wellCmdWeight 3 150) field
    (t.wcc.get 3).weight = 100 ∧ replied t = some (.clamped, .none) := by decide
theorem test_read_well : replied (after (.readWell 16) field) = some (.badValue, .none) := by decide
theorem test_well_second : ((after .wccSecondTimer (well 3 (fun w => { w with cooldown := 1 }) field)).wcc.get 3).cooldown
    = 0 := by decide
theorem test_flash_hold_taken : ((after (.wccFlashHold 3 true) field).wcc.get 3).flashHold = true := by decide

/-! ## Chapter 6: the worked sequences -/

theorem test_turbine_start :
    let t := after .turbCmdStart field
    (t.tbc.state, t.tbc.admission, t.tbc.stageLeft, t.tbc.steam) = (.warming, 50, some 600, 20) := by decide
theorem test_runup :
    let t := after .stageTimerExpiry (valid qTurbSpeed 240
      (turb (fun r => { r with state := .warming, stageLeft := some 1, admission := 50 }) field))
    (t.tbc.state, t.tbc.speed, t.tbc.stageLeft) = (.runup, 240, some 900) := by decide
theorem test_runup_second :
    let t := after .tbcSecondTimer
      (turb (fun r => { r with state := .runup, speed := 240, stageLeft := some 900 }) field)
    (t.tbc.speed, t.tbc.stageLeft, t.tbc.settle) = (245, some 899, 0) := by decide
theorem test_settle :
    let t := after .tbcSecondTimer
      (turb (fun r => { r with state := .runup, speed := 3000, inBand := true, settle := 9, stageLeft := some 340 }) field)
    (t.tbc.state, t.tbc.stageLeft) = (.syncWait, some 300) := by decide
theorem test_settle_row : (after .settleComplete
      (turb (fun r => { r with state := .runup, speed := 3000, inBand := true, stageLeft := some 340 }) field)).tbc.state
    = .syncWait := by decide
theorem test_breaker_closes :
    let t := after (.tbcStatusEvent ⟨true, 3000, .good, 0, .good⟩)
      (turb (fun r => { r with state := .syncWait, speed := 3000, loadDemand := 21600, adopting := false
                               stageLeft := some 300 }) field)
    (t.tbc.state, t.tbc.admission, t.tbc.stageLeft, t.tbc.steam) = (.loaded, 80, none, 180) := by decide

/-- The turbine of the ceiling figures, LOADED at a setpoint of 21000 under its ceiling. -/
def loadedTurbine (shortRun : Nat) (raised : Bool) (ceiling load : Int) : State :=
  turb (fun r => { r with state := .loaded, loadDemand := 21600, load := load, speed := 3000, admission := 724
                          steamAvail := 175, ceiling := ceiling, shortRun := shortRun, shortfall := raised
                          steam := 180, adopting := false }) (pump .running 875 field)
theorem test_shortfall :
    let t := after (.tbcUpdate (upd [(qSteamFlow, 150)] []))
      (valid qSteamFlow 150 (loadedTurbine 2 false 21000 21000))
    (t.tbc.ceiling, t.tbc.load, t.tbc.admission, t.tbc.shortRun) = (18000, 18000, 632, 3)
      ∧ Instr.alarmChange .steamShortfall .turbine (.raise .alarm 150) ∈ t.handed := by decide
theorem test_shortfall_ends :
    let t := after (.tbcUpdate (upd [(qSteamFlow, 160)] []))
      (valid qSteamFlow 160 (loadedTurbine 4 true 18240 18000))
    (t.tbc.ceiling, t.tbc.load, t.tbc.shortfall) = (21000, 18000, false) := by decide
theorem test_load_climbs :
    let t := after .tbcSecondTimer (loadedTurbine 0 false 21000 20950)
    (t.tbc.load, t.tbc.admission) = (21000, 724) := by decide

/-- TRIP_IN trips the LOADED turbine, with its outputs; the overspeed after it records nothing. -/
theorem test_external_trip :
    let t := after .tripInAsserted (loadedTurbine 0 false 21000 21000)
    (t.tbc.state, t.tbc.tripOut, t.tbc.admission, t.tbc.steam) = (.tripped, true, 0, 0)
      ∧ Instr.alarmChange .turbTrip .turbine (.raise .trip 1) ∈ t.handed := by decide
theorem test_overspeed_after_trip :
    let s := turb (fun r => { r with state := .tripped, tripOut := true }) field
    hands (.tbcUpdate (upd [(qTurbSpeed, 3320)] [])) s = [] := by decide

/-- A TRIPPED turbine, selected for its reset. -/
def tripped (speed : Int) (tripIn : Bool) : State :=
  port (fun v => { v with selection := some (.turbineReset, 0) }) (valid qTurbSpeed speed
    (turb (fun r => { r with state := .tripped, tripOut := true, tripIn := tripIn, breakerOpen := true }) field))
theorem test_turbine_reset_refused : replied (after (.operateTurbineReset 0) (tripped 2800 true))
    = some (.refusedState, .none) := by decide

/-- OPERATE first: TBC has not taken the update that brings the speed below RESET_SPEED (R115). -/
theorem test_turbine_reset_first : replied (after (.operateTurbineReset 0) { tripped 420 false with
    handed := [.tbcUpdate ⟨[(qTurbSpeed, 420)], [], [(qTurbSpeed, .valid, 420)], [(qTurbSpeed, .valid, 2800)]⟩] })
    = some (.refusedState, .none) := by decide
theorem test_turbine_reset :
    let t := after (.operateTurbineReset 0) (tripped 420 false)
    (t.tbc.state, t.tbc.tripOut, t.tbc.breakerOpen) = (.offline, false, false)
      ∧ Instr.alarmClear .turbTrip .turbine ∈ t.handed := by decide
theorem test_turbine_trip_refused : replied (after (.operateTurbineTrip 0)
    (port (fun v => { v with selection := some (.turbineTrip, 0) }) field)) = some (.refusedState, .none) := by decide
theorem test_trip_in_clears : (after .tripInCleared (tripped 420 true)).tbc.tripIn = false := by decide
theorem test_runup_times_out : (after .runupTimeout (turb (fun r => { r with state := .runup, stageLeft := some 1 })
    field)).tbc.lastCause = some .runupFail := by decide
theorem test_sync_times_out : (after .syncTimeout (turb (fun r => { r with state := .syncWait, stageLeft := some 1 })
    field)).tbc.lastCause = some .syncFail := by decide
theorem test_turbine_link_lost : (after .tbcLinkLost (loadedTurbine 0 false 21000 21000)).tbc.lastCause
    = some .linkLost := by decide
theorem test_mismatch_row : (after .valveMismatch (turb (fun r => { r with mismatch := some 9 })
    (loadedTurbine 0 false 21000 21000))).tbc.lastCause = some .valveMismatch := by decide
theorem test_turbine_stop : (after .turbCmdStop (loadedTurbine 0 false 21000 21000)).tbc.state = .unloading := by
  decide
theorem test_load_clamped :
    let t := after (.turbCmdLoad (some 40000)) (loadedTurbine 0 false 21000 21000)
    t.tbc.loadDemand = 30000 ∧ replied t = some (.clamped, .none) := by decide
theorem test_well_demand_ceiling :
    let t := after (.tbcWellDemand 3) (loadedTurbine 0 false 0 0)
    (t.tbc.steamAvail, t.tbc.ceiling) = (175, 21000) := by decide
theorem test_well_state_ceiling : (after (.tbcWellState 3 (.running, .tripped) (some .overcurrent))
    (pump .tripped 0 (loadedTurbine 0 false 21000 21000))).tbc.ceiling = 0 := by decide
theorem test_adopt_hold_ends : (after .adoptHoldEnd (turb (fun r => { r with hold := 1 })
    (loadedTurbine 0 false 21000 21000))).tbc.hold = 0 := by decide

/-! ## Chapter 7: the worked allocation and the trip ripple -/

/-- A RUNNING well with its role, flows and weight. -/
def runs (c : WellNo) (role minFlow maxFlow weight demand : Int) (s : State) : State :=
  well c (fun w => { w with state := .running, ramp := true, weight := weight, demand := demand
                            adopting := false })
    (withItem (.well c .role) role (withItem (.well c .minFlow) minFlow
      (withItem (.well c .maxFlow) maxFlow s)))

/-- The wells of the worked allocation, at its targets. -/
def allocation : State :=
  runs 0 0 60 250 3 250 <| runs 1 0 60 200 3 200 <| runs 2 0 50 300 2 275 <| runs 3 0 50 250 2 150
    <| runs 8 1 40 250 1 250 <| runs 9 1 40 250 1 250 <| runs 10 1 40 200 1 200
    <| bal (fun b => { b with steam := 180, tReq := 900, caps := b.caps.set 3 (some 150) }) plant

/-- The targets an allocation hands, by channel. -/
def targets (s : State) : List (Option Int) := [0, 1, 2, 3, 8, 9, 10].map fun c => (s.bbu.rows.get c).target

theorem test_allocation :
    let t := after (.bbuWellState 8 (.starting, .running) none) allocation
    (t.bbu.capacity, t.bbu.brineLimit, t.bbu.ceiling, t.bbu.production, t.bbu.request, t.bbu.brineOver)
      = (700, 875, 875, 875, 700, false)
      ∧ targets t = [some 250, some 200, some 275, some 150, some 250, some 250, some 200] := by decide
theorem test_allocation_501 :
    let t := after (.balCmdFixedTarget 501) (bal (fun b => { b with mode := .fixed }) allocation)
    t.bbu.ceiling = 501 ∧ (targets t).take 4 = [some 145, some 144, some 106, some 106] := by decide
theorem test_ripple :
    let t := after (.bbuTurbineState (.loaded, .tripped) (some .external)) allocation
    (t.bbu.afterTrip, t.bbu.fastDown, t.bbu.tReq, t.bbu.ceiling) = (true, true, 300, 300)
      ∧ targets t = [some 84, some 84, some 66, some 66, some 80, some 80, some 80] := by decide
theorem test_fast_ramp :
    let s := withItem (.well 2 .tripRampStep) 40 (well 2 (fun w => { w with target := some 66 })
      (bal (fun b => { b with fastDown := true }) allocation))
    ((after (.rampTimerExpiry 2) s).wcc.get 2).demand = 235 := by decide
theorem test_fast_down_ends :
    let s := bal (fun b => { b with fastDown := true, tReq := 875 }) allocation
    (after (.bbuWellDemand 2) s).bbu.fastDown = false
      ∧ (after (.bbuWellDemand 2) (bal (fun b => { b with tReq := 874 }) s)).bbu.fastDown = true := by decide
theorem test_steam_demand : (after (.bbuSteamDemand 0) allocation).bbu.tReq = 300 := by decide
theorem test_mode : (after (.balCmdMode (some .heat)) allocation).bbu.mode = .heat := by decide
theorem test_flash_cap :
    ((after (.bbuFlashHold 2 true) allocation).bbu.caps.get 2) = some 275 := by decide
theorem test_weight_reallocates :
    (after (.bbuWellWeight 2) (well 2 (fun w => { w with weight := 100 }) (bal (fun b =>
      { b with ceiling := 300 }) allocation))).bbu.production = 300 := by decide

/-- TANK_XOFF holds the production demand less HOLD_STEP, and TANK_XON lets go of it (R127). -/
theorem test_tank_hold :
    let s := withItem (.balance .tankXoff) 800 (withItem (.balance .holdStep) 25 allocation)
    let t := after (.bbuTankUpdate (upd [(qTankLevel, 800)] [])) s
    (t.bbu.hold, t.bbu.holdCeiling, t.bbu.ceiling) = (.hold, some 850, 850)
      ∧ (after (.bbuTankUpdate (upd [(qTankLevel, 799)] [])) s).bbu.hold = .normal := by decide
theorem test_tank_frozen :
    let t := after (.bbuTankUpdate (upd [] [(qTankLevel, .valid, .stale)])) allocation
    (t.bbu.hold, t.bbu.holdCeiling) = (.frozen, some 875) := by decide
theorem test_hold_timer :
    let s := valid qTankLevel 900 (withItem (.balance .holdStep) 25 (bal (fun b =>
      { b with hold := .hold, holdTimer := true, holdCeiling := some 850, tankXoff := 800 }) allocation))
    (after .holdTimerExpiry s).bbu.holdCeiling = some 825
      ∧ (after .holdTimerExpiry (withItem (.balance .tankXoff) 901 s)).bbu.holdCeiling = some 825
      ∧ (after .holdTimerExpiry (bal (fun b => { b with tankXoff := 901 }) s)).bbu.holdCeiling = some 850 := by decide

/-- Expiry first: the level has fallen and BBU has not taken the update, so the expiry finds the old one (R127). -/
theorem test_hold_timer_first :
    let s := valid qTankLevel 600 (withItem (.balance .holdStep) 25 (bal (fun b =>
      { b with hold := .hold, holdTimer := true, holdCeiling := some 850, tankXoff := 800 }) allocation))
    let u : Update := ⟨[(qTankLevel, 600)], [], [(qTankLevel, .valid, 600)], [(qTankLevel, .valid, 900)]⟩
    (after .holdTimerExpiry { s with handed := [.bbuTankUpdate u] }).bbu.holdCeiling = some 825
      ∧ (after .holdTimerExpiry s).bbu.holdCeiling = some 850 := by decide

/-! ## Chapter 8: the crowded slot -/

/-- The five stations of the worked slot, polled at position 1. -/
def scan : State :=
  let polled (e : EntryNo) (k : Kind) (a c : Int) (s : State) :=
    withItem (.entry e .pollMask) 2 (station e k a c s)
  withItem (.field .patternLength) 4 <| withItem (.field .slotBudget) 4 <| withItem (.field .pollBurst) 2
    <| polled 0 .well 3 0 <| polled 1 .well 5 1 <| polled 2 .exchanger 9 0 <| polled 3 .analyser 12 0
    <| polled 4 .brine 20 0
    <| link (fun f => { f with setQ := [⟨1, .well 1 150, false, false⟩, ⟨2, .exchanger 394, false, false⟩] }) plant

/-- The queue's entries, and the exchange in flight with its entry. -/
def inFlight (s : State) : Option (Exchange × EntryNo) := s.flc.flight.map fun f => (f.exchange, f.entry)

theorem test_slot :
    let t := after .slotExpiry scan
    (t.flc.position, t.flc.started, t.flc.burst, t.flc.pollList) = (1, 1, 1, [1, 2, 3, 4])
      ∧ inFlight t = some (.poll, 0) := by decide
theorem test_set_keeps_its_place :
    let t := after (.setPlaced (.well 1 160)) (after .slotExpiry scan)
    t.flc.setQ = [⟨1, .well 1 160, false, false⟩, ⟨2, .exchanger 394, false, false⟩] := by decide

/-- A POLL ends; after POLL_BURST polls a SET goes; a TRIP goes ahead of all (the lines of R139). -/
theorem test_burst_then_set :
    let s := { after .slotExpiry scan with handed := [] }
    let s := link (fun f => { f with started := 2, burst := 2, pollList := [2, 3, 4] }) s
    inFlight (after .replyTimeout s) = some (.set, 1) := by decide
theorem test_trip_goes_first :
    let s := after (.tripPlaced (.well 0)) (after .slotExpiry scan)
    s.flc.tripQ = [⟨0, 0⟩] ∧ inFlight (after .replyTimeout s) = some (.trip, 0) := by decide

/-- The body of a good reply of the BRINE station: four values of 100, all GOOD. -/
def brineBody : List Byte := (List.replicate 4 [0, 0, 0, 100, 0]).flatten
theorem test_good_reply :
    let s := link (fun f => { f with flight := some ⟨.poll, 4, ⟨.brine, 20, 0⟩, 100, []⟩, pollList := [] }) scan
    let t := after (.fieldReplyReceived (fieldFrame 20 0x91 brineBody)) s
    t.handed.head? = some (.counterIncrement [.exchanges 4, .outcomes 4 .good])
      ∧ t.handed.any (fun i => match i with | .qtbDelivery d => d.readings.length == 4 | _ => false) := by
  decide
theorem test_bad_check :
    let s := link (fun f => { f with flight := some ⟨.poll, 4, ⟨.brine, 20, 0⟩, 100, []⟩, pollList := [] }) scan
    (after (.fieldReplyReceived (20 :: (fieldFrame 20 0x91 brineBody).tail.dropLast ++ [0])) s).handed.head?
      = some (.counterIncrement [.exchanges 4, .outcomes 4 .badCheck]) := by decide
theorem test_skipped_polls :
    let t := after .slotExpiry (link (fun f => { f with pollList := [3, 4] }) scan)
    t.handed.count (.counterIncrement [.scanOverruns]) = 2
      ∧ t.handed.count (.counterIncrement [.deferredPolls 4]) = 1 := by decide
theorem test_retire :
    let t := after (.stationRetire 2 ⟨.exchanger, 9, 0⟩) (withItem (.entry 2 .kind) 0 scan)
    t.flc.setQ = [⟨1, .well 1 150, false, false⟩] ∧ (t.flc.stations.get 2) = ⟨.unknown, 0, none⟩ := by decide


/-- Two changes of one entry during its exchange: both old stations are retired, in order, when it ends. -/
theorem test_both_retirements_taken :
    let s := after .slotExpiry scan
    let s := after (.stationRetire 0 ⟨.well, 4, 1⟩) (after (.stationRetire 0 ⟨.well, 3, 0⟩) s)
    let t := after .replyTimeout { s with handed := [] }
    s.flc.retiring = [(0, ⟨.well, 3, 0⟩), (0, ⟨.well, 4, 1⟩)] ∧ t.flc.retiring = []
      ∧ t.handed.filter (fun i => match i with | .qtbStationLost _ _ => true | _ => false)
        = [.qtbStationLost .well 0, .qtbStationLost .well 1] := by decide

/-! ## Chapter 9: the load-up with a suspend -/

/-- The list of the worked sequence. -/
def loadUp : List Step :=
  [⟨.wellStart, some (.well 3), none, none, .abort⟩,
    ⟨.waitState, some (.well 3), some (.state (.well .running)), some 300, .abort⟩,
    ⟨.wellWeight, some (.well 3), some (.num 3), none, .continue⟩,
    ⟨.delay, none, some (.num 600), none, .abort⟩,
    ⟨.turbLoad, some .turbine, some (.num 24000), none, .abort⟩,
    ⟨.fin, none, none, none, .abort⟩]

/-- Slot 1 with that list at a step. -/
def sequence (st : SlotState) (ptr : Nat) (timer : Timer) (s : State) : State :=
  slot 1 (fun r => { r with state := st, steps := loadUp, ptr := ptr, timer := timer
                            claims := [.well 3, .turbine] }) s

theorem test_seq_load : (replied (after (.seqLoad 1 loadUp) field), ((after (.seqLoad 1 loadUp) field).sqr.get 1).state)
    = (some (.ok, .none), .loaded) := by decide
theorem test_seq_load_bad_step : replied (after (.seqLoad 1 [⟨.delay, none, some (.num 0), none, .abort⟩]) field)
    = some (.badValue, .badIndex 0) := by decide
theorem test_seq_run :
    let t := after (.seqRun 1) (after .replyComplete (after (.seqLoad 1 loadUp) field))
    (t.sqr.get 1).state = .running ∧ (t.sqr.get 1).claims = [.well 3, .turbine]
      ∧ t.handed = [.seqCommandStep 1] := by decide
theorem test_command_step :
    let t := after (.seqCommandStep 1) (sequence .running 0 .stopped field)
    ((t.wcc.get 3).state, (t.sqr.get 1).ptr) = (.starting, 1) ∧ Instr.seqWaitStep 1 ∈ t.handed := by decide
theorem test_step_refused_by_another_claim :
    let s := slot 2 (fun r => { r with state := .running, claims := [.well 3] })
      (slot 1 (fun r => { r with claims := [] }) (sequence .running 0 .stopped field))
    let t := after (.seqCommandStep 1) s
    (t.wcc.get 3).state = .off ∧ (t.sqr.get 1).lastFailure = some ⟨0, .refused .refusedClaimed, 0⟩ := by decide
theorem test_wait_begins :
    let t := after (.seqWaitStep 1) (sequence .running 1 .stopped field)
    ((t.sqr.get 1).state, (t.sqr.get 1).timer) = (.waiting, .running 300) := by decide
theorem test_wait_ends :
    let t := after (.sqrStateChange (.well 3) (.well .starting, .well .running) none) (sequence .waiting 1 (.running 210) field)
    ((t.sqr.get 1).state, (t.sqr.get 1).ptr, (t.sqr.get 1).timer) = (.running, 2, .stopped) := by decide
theorem test_suspend :
    let t := after (.seqSuspend 1) (sequence .waiting 3 (.running 300) field)
    ((t.sqr.get 1).state, (t.sqr.get 1).timer, (t.sqr.get 1).suspendedFrom)
      = (.suspended, .frozen 300, some .waiting) := by decide
theorem test_claimed : replied (after (.turbCmdLoad (some 20000)) (sequence .suspended 3 (.frozen 300) field))
    = some (.refusedClaimed, .none) := by decide
theorem test_claim_lock : replied (after (.setParam (some (.well 3)) (some (.well 3 .cooldown)) 60)
    (sequence .suspended 3 (.frozen 300) field)) = some (.refusedLocked, .none) := by decide
theorem test_resume_waiting :
    let s := slot 1 (fun r => { r with suspendedFrom := some .waiting }) (sequence .suspended 3 (.frozen 300) field)
    let t := after (.seqResume 1) s
    ((t.sqr.get 1).state, (t.sqr.get 1).timer, (t.sqr.get 1).suspendedFrom) = (.waiting, .running 300, none) := by
  decide
theorem test_delay_second :
    let t := after .sqrSecondTimer (sequence .waiting 3 (.running 1) field)
    ((t.sqr.get 1).state, (t.sqr.get 1).ptr) = (.running, 4) := by decide
theorem test_delay_row :
    ((after (.delayExpiry 1) (sequence .waiting 3 (.running 1) field)).sqr.get 1).ptr = 4 := by decide
theorem test_wait_times_out :
    let t := after (.waitTimeout 1) (sequence .waiting 1 (.running 1) field)
    ((t.sqr.get 1).state, (t.sqr.get 1).lastFailure) = (.failed, some ⟨1, .timeout, 0⟩) := by decide
theorem test_end_step :
    let t := after (.seqEndStep 1) (sequence .running 5 .stopped field)
    ((t.sqr.get 1).state, (t.sqr.get 1).ptr, (t.sqr.get 1).claims) = (.finished, 5, []) := by decide
theorem test_pause_step :
    let s := slot 1 (fun r => { r with steps := [⟨.pause, none, none, none, .abort⟩] }) (sequence .running 0 .stopped field)
    ((after (.seqPauseStep 1) s).sqr.get 1).suspendedFrom = some .pause := by decide
theorem test_trip_pends :
    ((after (.sqrTargetTripStop (.well 3) .trip (.cause (some (.well .flash))))
      (sequence .suspended 3 (.frozen 300) field)).sqr.get 1).pendingFailure = some (.well 3, .trip) := by
  decide
theorem test_abort :
    let t := after (.seqAbort 1) (sequence .waiting 3 (.running 1) field)
    ((t.sqr.get 1).state, (t.sqr.get 1).lastFailure, (t.sqr.get 1).claims)
      = (.aborted, some ⟨3, .aborted, 0⟩, []) := by decide
theorem test_wait_quantity :
    let s := slot 1 (fun r => { r with
      steps := [⟨.waitQty, some (.qty 111), some (.compare .atLeast 500), some 9, .abort⟩] })
      (sequence .waiting 0 (.running 9) field)
    ((after (.sqrQtyUpdate (upd [(111, 500)] [])) s).sqr.get 1).state = .finished
      ∧ ((after (.sqrQtyUpdate (upd [(111, 499)] [])) s).sqr.get 1).state = .waiting := by decide

/-! ## Chapter 10: the life of an alarm -/

/-- The entry of the worked sequence. -/
def si (sev : Severity) (st : AlarmState) (last : U32) (value : Int) : AlarmEntry :=
  ⟨.silicaSi, .point 0, sev, st, 5000, last, 1, value⟩

/-- A table of one entry, at a plant time. -/
def alarmed (e : AlarmEntry) (now : U32) : State :=
  { port (fun v => { v with plantTime := now }) plant with alt := { plant.alt with table := [e], alarmOut := true } }

theorem test_alarm_raised :
    let s := port (fun v => { v with plantTime := 5000 }) plant
    let t := after (.alarmChange .silicaSi (.point 0) (.raise .watch 1047)) s
    t.alt.table = [si .watch .activeUnacked 5000 1047] ∧ t.alt.alarmOut = true
      ∧ t.svp.notices = [.alarm (si .watch .activeUnacked 5000 1047) .raised] := by decide
theorem test_alarm_deescalated :
    let t := after (.alarmChange .silicaSi (.point 0) (.deescalate .watch)) (alarmed (si .alarm .activeAcked 5100 1101) 5420)
    t.alt.table = [si .watch .activeAcked 5420 1101] ∧ t.alt.alarmOut = false := by decide
theorem test_alarm_removed :
    let t := after (.alarmClear .silicaSi (.point 0)) (alarmed (si .watch .activeAcked 5420 1101) 5510)
    t.alt.table = [] ∧ t.svp.notices = [.alarm (si .watch .activeAcked 5420 1101) .removed] := by decide
theorem test_alarm_cleared_unacked :
    let t := after (.alarmClear .silicaSi (.point 0)) (alarmed (si .watch .activeUnacked 5420 1101) 5510)
    t.alt.table = [si .watch .clearedUnacked 5510 1101] ∧ t.alt.alarmOut = false := by decide
theorem test_ack :
    let t := after (.ack (some .silicaSi) (some (.point 0))) (alarmed (si .alarm .activeUnacked 5030 1101) 5100)
    t.alt.table = [si .alarm .activeAcked 5100 1101] ∧ t.alt.alarmOut = true := by decide
theorem test_ack_not_found : replied (after (.ack (some .turbTrip) (some .turbine)) plant)
    = some (.notFound, .none) := by decide
theorem test_ack_all : replied (after .ackAll (alarmed (si .alarm .activeUnacked 5030 1101) 5100))
    = some (.ok, .acked 1 0) := by decide
theorem test_read_alarms : replied (after (.readAlarms 0 8) State.reset)
    = some (.ok, .alarms 1 false true .cleared [storeFaultEntry]) := by decide
theorem test_counters :
    let t := after (.counterIncrement [.exchanges 2, .outcomes 2 .good]) plant
    t.alt.counters.of (.entry 2) = [1, 1, 0, 0, 0, 0, 0] := by decide
theorem test_read_and_clear :
    let t := after (.readAndClear (some .device)) (after (.counterIncrement [.scanOverruns]) plant)
    replied t = some (.ok, .counters [1] .cleared) ∧ t.alt.counters.of .device = [0] := by decide
theorem test_read_counters : replied (after (.readCounters (some .exchanger)) plant)
    = some (.ok, .counters [0, 0, 0] .cleared) := by decide

/-! ## Chapter 11: commissioning a plant -/

theorem test_set_limit :
    let t := after (.setLimit 5 1600) State.reset
    (after (.setLimit 0 3250) State.reset).limit 0 = 3250 ∧ t.scm.floor.inUse = 1600 ∧ t.handed = [] := by decide

/-- A lower L6 that the running clock has passed raises SILICA_STALE in the step that writes it (R38). -/
theorem test_set_limit_stale :
    let s := scale (fun m => { m with floor := { m.floor with state := .staleHeld, clock := some 1200 } }) plant
    (after (.setLimit 6 20) s).handed
        = [.alarmChange .silicaStale .floor (.raise .alarm 20), .hxcSilicaStale true]
      ∧ (after (.setLimit 6 21) s).handed = [] := by decide
theorem test_set_limit_protected : replied (after (.setLimit 0 3200) (store (fun x => { x with boundary := 7 })
    State.reset)) = some (.refusedProtected, .none) := by decide
theorem test_set_boundary :
    (after (.operateSetBoundary 7) (port (fun v => { v with selection := some (.setBoundary, 7) })
      State.reset)).ssl.boundary = 7 := by decide
theorem test_store_busy :
    let t := after .store State.reset
    replied t = some (.ok, .none)
      ∧ replied (after (.setLimit 16 1450) (after .replyComplete t)) = some (.busy, .none) := by decide
theorem test_store_completes :
    let t := after (.storeComplete true) (after .replyComplete (after .store State.reset))
    (t.ssl.storeFault, t.storeBusy, t.tip.curve.origin) = (false, false, .stored)
      ∧ t.handed = [.alarmClear .storeFault .store] := by decide

/-- A STORE_FAULT raised and seen is not shown again once a STORE has passed (R180, R185). -/
theorem test_store_fault_shown_once :
    let s := after .replyComplete (after .ident State.reset)
    let t := after .ident (after (.storeComplete true) (after .replyComplete (after .store s)))
    (s.svp.storeFaultSeen, t.svp.reply.map fun r => r.flags.storeFault) = (false, some false) := by decide
theorem test_commission_lock :
    let t := after (.operateCommissionLock 0) (port (fun v => { v with selection := some (.commissionLock, 0) })
      (store (fun x => { x with boundary := 7 }) plant))
    t.ssl.locked = true ∧ t.ssl.record = some ⟨7, defaultLimits⟩ := by decide
theorem test_set_param :
    let t := after (.setParam (some .turbine) (some (.turbine .warmTime)) 20) plant
    t.turbSet .warmTime = 20 ∧ t.handed = [] := by decide

/-- Each write of ROLE hands the role it sets, even when another write follows before SCM takes it (R43, R77). -/
theorem test_set_role :
    let role := fun (v : Int) => after (.setParam (some (.well 5)) (some (.well 5 .role)) v)
    (role 0 (after .replyComplete (role 2 plant))).handed = [.scmRoleChange 5 .unused,
      .bbuWellState 5 (.off, .off) none, .scmRoleChange 5 .production, .bbuWellState 5 (.off, .off) none] := by decide
theorem test_get_param : replied (after (.getParam (some .balance) (some (.balance .steamFraction))) plant)
    = some (.ok, .param 200 50 500 ⟨false, none⟩) := by decide
theorem test_lock : replied (after (.setParam (some .turbine) (some (.turbine .warmTime)) 20)
    (after .replyComplete (after (.lockGroup (some .turbine)) plant))) = some (.refusedLocked, .none) := by decide
theorem test_unlock_group :
    (after (.unlockGroup (some .turbine)) (after .replyComplete (after (.lockGroup (some .turbine)) plant))).ssl.hostLocks
      = plant.ssl.hostLocks := by decide

/-- The last power-on of the worked sequence: the copy fails, and the record keeps the lock, P and L0. -/
theorem test_power_on :
    let s := store (fun x => { x with
      limits := (x.limits.set 0 3250).set 16 1450, boundary := 7, locked := true
      record := some ⟨7, x.limits.set 0 3250⟩ }) plant
    let t := after (.powerOn ⟨0, 0, false⟩ false ⟨false, true, false⟩ false) s
    (t.limit 0, t.limit 16, t.ssl.boundary, t.ssl.locked, t.ssl.storeFault) = (3250, 1500, 7, true, true) := by
  decide

/-- With both of the record's copies failing, P is 0 and the lock clear (R179, R182). -/
theorem test_power_on_without_record :
    let t := after (.powerOn ⟨0, 0, false⟩ false ⟨false, false, false⟩ false)
      (store (fun x => { x with boundary := 7, locked := true, record := some ⟨7, x.limits⟩ }) plant)
    (t.ssl.boundary, t.ssl.locked, t.ssl.record) = (0, false, none) := by decide

/-! ## Chapter 12 -/

/-- The turbine reset of the worked sequence: a read cancels the selection; the right OPERATE finds it. -/
theorem test_select :
    let s := after .replyComplete (after (.select (some .turbineReset) 0) (tripped 420 false))
    replied (after (.operateTurbineReset 0) (after .replyComplete (after .readTurbine s))) = some (.notSelected, .none)
      ∧ replied (after (.operateTurbineTrip 0) s) = some (.notSelected, .none)
      ∧ replied (after (.operateTurbineReset 0) (after .selectWindowExpiry s)) = some (.notSelected, .none)
      ∧ replied (after (.operateTurbineReset 0) s) = some (.ok, .none) := by decide
theorem test_overrun :
    let t := after .ident (after .ident plant)
    t.svp.linkOverrun = true ∧ t.svp.reply = (after .ident plant).svp.reply := by decide
theorem test_ident : replied (after .ident plant) = some (.ok, .ident 0x2E17 48 1 ⟨0, 0, false⟩ 16 0) := by decide
theorem test_set_time : (after (.setTime 77) plant).svp.plantTime = 77 := by decide
theorem test_time_wraps : (after .plantTimeTick (port (fun v => { v with plantTime := 4294967295 }) plant)).svp.plantTime
    = 0 := by decide
theorem test_bad_kind : replied (after (.badKind 0xFF) plant) = some (.badKind, .none) := by decide
theorem test_notices :
    let s := after .noticeStart State.reset
    s.svp.sending = true ∧ (after .noticeComplete s).svp.notices = [] := by decide
theorem test_notice_kinds : [Notice.alarm storeFaultEntry .raised, .state .turbine (.turbine .loaded) (.turbine .tripped)
    (some 1), .seq 1 .running .failed 0 none].map noticeKind = [0xE1#8, 0xE2#8, 0xE3#8] := by decide

/-- A NOTICE_ALARM has 18 bytes of body between its start byte, length and kind and its CRC (R193). -/
theorem test_notice_frame :
    let f := (noticeFrame (.alarm storeFaultEntry .raised)).getD []
    (f.length, f.take 8) = (24, [0xC3, 0, 18, 0xE1, 17, 35, 1, 0]) := by decide
theorem test_layout_sizes :
    ((replyBody ⟨0x62, .ok, plant.portFlags, .alarms 1 false true .cleared [storeFaultEntry]⟩).map List.length,
      (replyBody ⟨0x21, .ok, plant.portFlags, .trend 1 2 false [trend 0, trend 1]⟩).map List.length)
    = (some 24, some 56) := by decide
theorem test_resync : (after .portResync (port (fun v => { v with rx := [0xC3], selection := some (.restart, 0) })
    plant)).svp = plant.svp := by decide
theorem test_restart_follows_reply :
    let s := after (.operateRestart 0) (port (fun v => { v with selection := some (.restart, 0) }) plant)
    s.svp.restartDue = true ∧ (after .replyComplete s).handed = [.restart] := by decide
theorem test_restart :
    let t := after .restart (sequence .waiting 3 (.running 1) (valid qSilica 620 (floorAt 1603 field)))
    ((t.sqr.get 1).state, (t.qtb.get qSilica).state, t.scm.floor.state) = (.aborted, .unprimed, .staleHeld) := by
  decide

/-- A raise of STATION_LOST handed before the restart is taken before the restart's clear of it (R164). -/
theorem test_restart_clears_in_turn :
    let t := after .restart { plant with handed :=
      [.alarmChange .stationLost (.station 1) (.raise .alarm 1), .restart] }
    t.alt = plant.alt ∧ t.handed.take 1 = [.alarmChange .stationLost (.station 1) (.raise .alarm 1)]
      ∧ Instr.alarmClear .stationLost (.station 1) ∈ t.handed.drop 1 := by decide
theorem test_link_overrun : (after .linkOverrun (after .ident plant)).svp.linkOverrun = true := by decide
theorem test_crc : crc16 [0x31, 0x32, 0x33, 0x34, 0x35, 0x36, 0x37, 0x38, 0x39] = 0x29B1#16 := by decide
theorem test_partial_frame : (after (.frameDiscarded [0x00, 0xC3, 0x00]) plant).svp.rx = [0xC3, 0x00] := by decide

/-! ## Witnesses: the hypotheses of each statement, clause by clause, at the ends of their ranges -/

theorem plant_idle : plant.portIdle := rfl
theorem field_idle : field.portIdle := rfl

/-- A part that is answering a request, and one that is writing its stored copy. -/
def busy : State := after .ident plant
def storing : State := after .replyComplete (after .store plant)

/-- A commissioned part with P at 7. -/
def commissioned : State := store (fun x => { x with boundary := 7, locked := true, record := some ⟨7, defaultLimits⟩ }) plant

theorem witness_StepRunsTheFrontCommand :
    ({ plant with pending := [.ident] } : State).pending = .ident :: [] ∧ plant.pending = [] ∧ plant.handed = []
      ∧ ({ plant with handed := [.hxcLinkLost] } : State).handed = .hxcLinkLost :: [] := ⟨rfl, rfl, rfl, rfl⟩
theorem witness_BusyPortDiscardsRequests :
    requestKind .ident = some 0x01 ∧ busy.svp.reply.isSome = true ∧ requestKind (.seqRun 9) = some 0x51 := by decide
theorem witness_EveryRequestIsAnswered :
    requestKind (.select none 0) = some 0x03 ∧ requestKind .readLimits = some 0x75 ∧ plant.portIdle
      ∧ (port (fun v => { v with noticesLost := true }) plant).svp.noticesLost = true := by
  unfold State.portIdle; decide

theorem witness_SelectOperateAndRestart :
    plant.portIdle ∧ 15 ≤ lastArg .wellTrip ∧ lastArg .wellTrip < 16 ∧ 55 ≤ lastArg .setBoundary
      ∧ lastArg .restart < 1 ∧ plant.svp.selection ≠ some (.wellTrip, 15)
      ∧ (port (fun v => { v with selection := some (.restart, 0) }) plant).svp.selection = some (.restart, 0)
      ∧ busy.svp.reply.isSome = true ∧ busy.svp.sending = false ∧ busy.svp.restartDue = false
      ∧ (port (fun v => { v with restartDue := true }) busy).svp.restartDue = true
      ∧ plant.svp.reply = none ∧ (port (fun v => { v with sending := true }) busy).svp.sending = true := by
  unfold State.portIdle; decide

/-- A queue of `n` notices. -/
def notices (n : Nat) : State :=
  port (fun v => { v with notices := List.replicate n (.alarm storeFaultEntry .raised) }) plant
theorem witness_NoticesQueueAndGoOut :
    (notices 32).portIdle ∧     (notices 31).svp.notices.length < 32 ∧ 32 ≤ (notices 32).svp.notices.length
      ∧ (notices 1).svp.reply = none ∧ (notices 1).svp.sending = false ∧ (notices 1).svp.notices ≠ []
      ∧ busy.svp.reply.isSome = true ∧ (notices 0).svp.notices = []
      ∧ (port (fun v => { v with sending := true }) (notices 1)).svp.sending = true := by
  unfold State.portIdle; decide

theorem witness_FramesAreFoundAndLaidOut :
    (0xC2#8 : Byte) ≠ 0xC3#8 ∧ 240 < u16 0x00 0xF1 ∧ (List.replicate 240 (0 : Byte)).length ≤ 240
      ∧ u16 0x00 0xF0 ≤ 240 ∧ ([] : List Byte).length = u16 0 0 ∧ crcBytes [0, 0, 1] ≠ [0, 0]
      ∧ receiver [0xC3] = .partial_ [0xC3]
      ∧ receiver (plant.svp.rx ++ [0xC3]) = .partial_ [0xC3]
      ∧ (replyBody ⟨0x01, .badKind, plant.portFlags, .none⟩).isSome = true
      ∧ (replyBody ⟨0x21, .ok, plant.portFlags, .trend 2 1 true [trend 2]⟩).isSome = true
      ∧ (replyBody ⟨0x62, .ok, plant.portFlags, .alarms 0 true false .lost []⟩).isSome = true := by decide
theorem witness_PortRequestsAndEvents : plant.portIdle ∧ 0xFF ∉ catalogue ∧ 0x76 ∈ catalogue := by
  unfold State.portIdle; decide
/-- A link with a retirement that waits for the exchange and a demand that was last issued. -/
def retiringLink : State :=
  link (fun f => { f with retiring := [(2, ⟨.exchanger, 9, 0⟩)] })
    (after (.setPlaced (.exchanger 394)) (after (.setPlaced (.well 1 150)) scan))
theorem retiringLink_legal : retiringLink.wellsLegal ∧ retiringLink.ssl.settings.inOrder := by
  unfold State.wellsLegal Well.legal Settings.inOrder; decide
theorem witness_RestartActsOnEveryBlock :
    retiringLink.wellsLegal ∧ retiringLink.ssl.settings.inOrder ∧ retiringLink.flc.retiring ≠ []
      ∧ (after .slotExpiry scan).flc.flight.isSome = true
      ∧ (retiringLink.flc.stations.get 1).lastDemand = some (.well 1 150)
      ∧ activeSlot (claims .turbine field |>.sqr.get 1).state = true :=
  ⟨retiringLink_legal.1, retiringLink_legal.2, by decide⟩
theorem witness_PowerOnActsOnEveryBlock :
    let stored := after (.storeComplete true) storing
    commissioned.ssl.record = some ⟨7, defaultLimits⟩ ∧ (6 : RowNo).val < 7 ∧ 7 ≤ (7 : RowNo).val
      ∧ plant.ssl.record = none ∧ stored.ssl.copy.isSome = true ∧ stored.ssl.record = none
      ∧ plant.ssl.copy = none ∧ plant.alt.legal ∧ State.reset.alt.legal ∧ State.reset.alt.table ≠ [] := by
  unfold Alt.legal; decide

theorem witness_LoadTableChecksInOrder :
    plant.portIdle ∧ factorySilica.rows.length = 17 ∧ ([0] : List Int).length ≠ 17
      ∧ storing.ssl.storing.isSome = true ∧ plant.ssl.storing = none ∧ commissioned.ssl.locked = true
      ∧ TableName.silica ≠ .curve ∧ plant.ssl.locked = false
      ∧ offendingIndex .silica [0] = some 0 ∧ offendingIndex .silica [1, 1] = some 1
      ∧ offendingIndex .psat [1, 9999] = none ∧ offendingIndex .curve [1500, 1500, 0] = none
      ∧ offendingIndex .curve [1501] = some 0 ∧ offendingIndex .psat [10000] = some 0 := by
  unfold State.portIdle; decide
theorem witness_ForwardInterpolation :
    (199 : Int) < axis0 .silica ∧ 200 = axis0 .silica ∧ 2600 = axis0 .silica + 16 * axisStep .silica
      ∧ axis0 .silica + 16 * axisStep .silica < 2601 ∧ axis0 .silica < 201
      ∧ 2599 < axis0 .silica + 16 * axisStep .silica := by decide
theorem witness_InverseInterpolation :
    wellFormedAs .silica factorySilica ∧ (inverse factorySilica 0 0).1 ≤ entryAt factorySilica 0
      ∧ (inverse factorySilica 96 100).1 ≤ entryAt factorySilica 0
      ∧ entryAt factorySilica 0 < (inverse factorySilica 97 100).1
      ∧ (inverse factorySilica 1280 100).1 ≤ entryAt factorySilica 16
      ∧ entryAt factorySilica 16 < (inverse factorySilica 2000 500).1 := by
  unfold wellFormedAs; decide

theorem witness_SamplesAndErasures :
    (1 : Int) ≤ 1 ∧ (16 : Int) ≤ 16 ∧ newQty.state = .unprimed
      ∧ (⟨.priming, 0, 2, 0, none, none⟩ : Qty).prime ≤ 2 ∧ (⟨.priming, 0, 3, 0, none, none⟩ : Qty).prime = 3
      ∧ (((⟨.valid, 0, 4, 1, none, none⟩ : Qty).erase 3).run : Int) < 3
      ∧ (3 : Int) ≤ ((⟨.valid, 0, 4, 2, none, none⟩ : Qty).erase 3).run
      ∧ (3 : Int) ≤ ((⟨.priming, 0, 1, 15, none, none⟩ : Qty).erase 3).run := by decide
theorem witness_DeliveryIsTakenWhole :
    let d : Delivery := ⟨.analyser, 0, [(113, .value 2000 .good)], some 40⟩
    let s : State := { plant with qtb := plant.qtb.set qSilica ⟨.valid, 9904, 4, 0, some 0, some 40⟩ }
    (d.readings.map Prod.fst).Nodup ∧ (s.qtb.get qSilica).sampleNo = d.sampleNo
      ∧ (plant.qtb.get qSilica).sampleNo ≠ d.sampleNo ∧ d.kind = .analyser ∧ d.sampleNo.isSome = true
      ∧ s.qtySet 113 .rangeLow ≤ 0 ∧ 2000 ≤ s.qtySet 113 .rangeHigh ∧ ¬(2001 ≤ s.qtySet 113 .rangeHigh) := by decide
theorem witness_LostStationMakesStale :
    qSilica ∈ stationQtys .analyser 0 ∧ ((valid qSilica 619 plant).qtb.get qSilica).state = .valid := by decide
theorem witness_QuantityLawIsKept :
    1 ≤ plant.qtySet 113 .weight ∧ plant.qtySet 113 .weight ≤ 16 ∧ 1 ≤ plant.qtySet 113 .eraseLimit
      ∧ plant.qtySet 113 .rangeLow < plant.qtySet 113 .rangeHigh
      ∧ (valid 113 2000 plant).valueInRange 113 ∧ (valid 113 2000 plant).runBelowLimit 113
      ∧ (valid 113 2000 plant).reported 113 = plant.qtySet 113 .rangeHigh
      ∧ (valid 113 2001 plant).reported 113 > plant.qtySet 113 .rangeHigh
      ∧ (valid 113 (-1) plant).reported 113 < plant.qtySet 113 .rangeLow
      ∧ plant.qtySet 113 .eraseLimit ≤ ({ plant.qtb.get 113 with state := .priming, run := 3 } : Qty).run := by
  unfold State.valueInRange State.runBelowLimit; decide
theorem witness_ReadsOfWholeBlocks : plant.portIdle := rfl
theorem witness_ReadsOfNamedRecords :
    plant.portIdle ∧ indexArg 16 16 = none ∧ indexArg 24 24 = none ∧ indexArg 4 4 = none
      ∧ 114 + 1 ≤ 115 ∧ 115 < 92 + 24 ∧ (plant.qtb.get 0).state = .unprimed
      ∧ ((valid 0 7 plant).qtb.get 0).state ≠ .unprimed
      ∧ some (itemGroup (.qty 111 .weight)) ≠ some (Group.scaling) := by
  unfold State.portIdle; decide

/-! ### Scaling watch -/

theorem witness_PointsAreComputed :
    let s := valid qHxOutT 1450 (sp0 id plant)
    let u : Update := upd [(qHxOutT, 1450)] []
    pointQty 0 = qHxOutT ∧ u.listsValue (pointQty 0) = true ∧ u.valid s (pointQty 0) = some 1450
      ∧ u.valid s qSilica = some 620 ∧ u.listsValue (pointQty 1) = false ∧ u.listsValue qSilica = false
      ∧ u.valid plant qSilica = none ∧ (s.scm.points.get 0).figures.count = 0 := by decide
theorem witness_FloorFollowsSilica :
    let u : Update := upd [(qSilica, 620)] []
    let v : Update := upd [] [(qSilica, .valid, .stale)]
    u.listsValue qSilica = true ∧ u.intoStale qSilica = false ∧ u.newValue qSilica = some 620
      ∧ v.listsValue qSilica = false ∧ v.newValue qSilica = none ∧ v.intoStale qSilica = true
      ∧ (floorAt 1603 plant).scm.floor.state = .fresh ∧ (floorAt 1603 plant).scm.floor.last = some 1603
      ∧ plant.scm.floor.state = .none ∧ plant.scm.floor.clock = none
      ∧ (upd [] []).intoStale qSilica = false := by decide

/-- The floor held, with a stale clock. -/
def held (clock : Nat) (raised : Bool) : State :=
  scale (fun m => { m with floor := ⟨.staleHeld, some 1603, some 682, .none, 1653, some clock, raised⟩ }) plant
theorem witness_StaleClockTargetAndMinutes :
    plant.scm.floor.clock = none ∧ (held 4294967294 true).scm.floor.clock = some 4294967294
      ∧ (held 4294967295 true).scm.floor.clock = some 4294967295 ∧ (held 0 false).scm.floor.silicaStale = false
      ∧ (1798 : Int) + 1 < plant.limit 6 * 60 ∧ plant.limit 6 * 60 ≤ (1799 : Int) + 1
      ∧ plant.limit 6 * 60 ≤ 1800 ∧ (1799 : Int) < plant.limit 6 * 60
      ∧ plant.scm.floor.state = .none ∧ (held 0 false).scm.floor.state ≠ .none
      ∧ plant.hxc.source = .fallback ∧ plant.hxc.mode ≠ .heatLimited
      ∧ (heater .heatLimited 400).hxc.mode = .heatLimited ∧ (heater .heatLimited 400).hxc.limitedSeconds < 59
      ∧ (hx (fun h => { h with limitedSeconds := 59 }) (heater .heatLimited 400)).hxc.limitedSeconds = 59 := by decide

theorem witness_WellWatchTakesAnUpdate :
    let u : Update := upd [(qIntakeP 3, 1400), (qWhTemp 3, 1800), (qInhibFeed 3, 0)] []
    let lost : Update := upd [] [(qIntakeP 3, .valid, .stale)]
    let s := valid (qIntakeP 3) 1400 (valid (qWhTemp 3) 1800 field)
    let stale : State := { field with qtb := field.qtb.set (qInhibFeed 3) ⟨.stale, 0, 0, 3, some 0, none⟩ }
    field.role 3 = .production ∧ (∀ x ∈ u.values, x.1 ∈ stationQtys .well 3)
      ∧ (∀ x ∈ lost.changes, x.1 ∈ stationQtys .well 3) ∧ lost.outOfValid (qIntakeP 3) = true
      ∧ u.listsValue (qWhTemp 3) = true ∧ u.valid s (qIntakeP 3) = some 1400 ∧ u.valid s (qWhTemp 3) = some 1800
      ∧ u.valid field (qInhibFeed 3) = some 0 ∧ lost.valid stale (qInhibFeed 3) = none
      ∧ lost.stateOf stale (qInhibFeed 3) = .stale ∧ lost.stateOf field (qInhibFeed 3) ≠ .stale
      ∧ ¬listsNothing u ∧ (field.scm.calcite.get 3).running = false
      ∧ field.scaleSet .calcitePersist ≤ 15 ∧ ¬(field.scaleSet .calcitePersist ≤ 0) := by
  unfold listsNothing; decide

theorem witness_ExchangerFoulingAndBaselines :
    let u : Update := upd [(qHxDp, 800)] []
    let s := valid qHxBrineFlow 300 (valid qHxDp 800 (withItem (.exchanger .ratedBrineFlow) 300 field))
    (∀ x ∈ u.values, x.1 ∈ stationQtys .exchanger 0) ∧ field.role 4 ≠ .production ∧ field.role 3 = .production
      ∧ storing.ssl.storing.isSome = true ∧ field.ssl.storing = none
      ∧ (claims .exchanger field).groupLocked .exchanger = true ∧ field.groupLocked .exchanger = false
      ∧ (field.qtb.get qHxDp).state ≠ .valid ∧ (s.qtb.get qHxDp).state = .valid
      ∧ (s.qtb.get qHxBrineFlow).state = .valid
      ∧ |s.reported qHxBrineFlow - 300| * 1000 ≤ s.scaleSet .foulBand * 300
      ∧ |(330 : Int) - 300| * 1000 ≤ s.scaleSet .foulBand * 300
      ∧ s.scaleSet .foulBand * 300 < |(331 : Int) - 300| * 1000 ∧ s.reported qHxDp ≠ 0
      ∧ (valid qHxDp 0 s).reported qHxDp = 0 := by decide
theorem witness_WellReportsReachTheWatch :
    WellState.stopping ≠ .running ∧ Role.unused ≠ .production ∧ (plant.scm.calcite.get 3).state = .none := by decide
theorem witness_TrendLogKeepsAndGives :
    let s := scale (fun m => { m with trend := [trend 0, trend 1, trend 2], nextSeq := 3 }) plant
    plant.portIdle ∧ plant.scm.trend = [] ∧ s.scm.trend ≠ [] ∧ s.scm.trend.length ≤ 256
      ∧ (s.scm.nextSeq - 1 - 0).toNat < s.scm.trend.length
      ∧ s.scm.trend.length ≤ (s.scm.nextSeq - 1 - 3).toNat := by
  unfold State.portIdle; decide

/-! ### The exchanger -/

theorem witness_ControlStepsObeyTheFloor :
    let u : Update := upd [(qNetSupplyT, 1000), (qOutdoorT, 190)] []
    let s := valid qHxOutT 1633 (heater .heatLimited 400)
    u.intoStale qHxOutT = false ∧ u.newValue qOutdoorT = some 190 ∧ u.newValue qNetSupplyT = some 1000
      ∧ (upd [] []).newValue qNetSupplyT = none ∧ s.hxc.mode = .heatLimited
      ∧ (heater .heating 400).hxc.mode = .heating ∧ u.valid s qHxOutT = some 1633
      ∧ u.valid (heater .heating 400) qHxOutT = none
      ∧ s.scm.floor.inUse + s.hxSet .deadband = 1633 ∧ (1632 : Int) < s.scm.floor.inUse + s.hxSet .deadband
      ∧ 1652 < s.scm.floor.inUse + s.hxSet .deadband + s.hxSet .hyst
      ∧ s.scm.floor.inUse + s.hxSet .deadband + s.hxSet .hyst ≤ 1653 := by decide
theorem witness_BreachAndHeatFigures :
    let u : Update := upd [(qHxOutT, 1602), (qHxBrineFlow, 300), (qNetFlow, 800)] []
    let lost : Update := upd [] [(qHxInT, .valid, .stale), (qNetFlow, .valid, .stale)]
    let s := valid qHxInT 1750 (valid qNetSupplyT 1030 (valid qNetReturnT 550 (heater .heating 400)))
    u.intoStale qHxOutT = false ∧ u.newValue qHxOutT = some 1602 ∧ (after (.hxcUpdate u) s).hxc.mode = .heating
      ∧ (1602 : Int) < s.scm.floor.inUse ∧ 1603 = s.scm.floor.inUse ∧ s.scm.floor.inUse < 1604
      ∧ s.hxc.breach = false ∧ u.valid s qHxBrineFlow = some 300 ∧ u.valid s qHxInT = some 1750
      ∧ u.valid s qNetFlow = some 800 ∧ lost.outOfValid qHxInT = true ∧ lost.outOfValid qNetFlow = true := by decide
theorem witness_IsolationIsLatched :
    let u : Update := upd [] [(qHxOutT, .valid, .stale)]
    plant.portIdle ∧ u.intoStale qHxOutT = true ∧ plant.hxc.causes.outletStale = false
      ∧ (heater .heating 374).hxc.mode ≠ .isolated ∧ (heater .isolated 1000).hxc.mode = .isolated := by
  unfold State.portIdle; decide
theorem witness_ExchangerCommands :
    plant.portIdle ∧ ((claims .exchanger plant).claimant .exchanger).isSome = true
      ∧ plant.claimant .exchanger = none ∧ plant.hxc.mode = .off
      ∧ plant.hxc.causes = ⟨false, false, false, false⟩ ∧ (heater .isolated 1000).hxc.mode = .isolated
      ∧ (heater .isolated 1000).hxc.causes.sp0Alarm = false ∧ (heater .heating 400).hxc.mode ≠ .off := by
  unfold State.portIdle; decide

/-! ### Wells -/

/-- W3's entry with its station LOST. -/
def lostField : State := link (fun f => { f with stations := f.stations.set 0 ⟨.lost, 3, none⟩ }) field
theorem witness_WellCommands :
    field.portIdle ∧ ((claims (.well 3) field).claimant (.well 3)).isSome = true
      ∧ field.claimant (.well 3) = none ∧ State.reset.ssl.storeFault = true ∧ field.ssl.storeFault = false
      ∧ (field.wcc.get 3).state = .off ∧ field.role 3 ≠ .unused ∧ field.role 4 = .unused
      ∧ field.entryOfWell 3 = some 0 ∧ field.entryOfWell 4 = none
      ∧ (field.flc.stations.get 0).status ≠ .lost ∧ (lostField.flc.stations.get 0).status = .lost
      ∧ ((pump .tripped 0 field).wcc.get 3).state = .tripped ∧ ((pump .tripped 0 field).wcc.get 3).cooldown = 0
      ∧ ((well 3 (fun w => { w with cooldown := 1 }) field).wcc.get 3).cooldown ≠ 0
      ∧ ((pump .starting 0 field).wcc.get 3).state = .starting
      ∧ ((pump .running 50 field).wcc.get 3).state = .running := by
  unfold State.portIdle; decide
theorem witness_WellTripsAndLockout :
    let s := port (fun v => { v with selection := some (.wellTrip, 3) }) (pump .running 50 field)
    let u := port (fun v => { v with selection := some (.wellUnlock, 3) }) (pump .lockedOut 0 field)
    (s.wcc.get 3).state = .running ∧ s.portIdle ∧ s.svp.selection = some (.wellTrip, 3)
      ∧ (field.wcc.get 3).state = .off ∧ ((pump .starting 0 field).wcc.get 3).startLeft.isSome = true
      ∧ (u.wcc.get 3).state = .lockedOut ∧ u.svp.selection = some (.wellUnlock, 3)
      ∧ u.claimant (.well 3) = none ∧ ((claims (.well 3) u).claimant (.well 3)).isSome = true := by
  unfold State.portIdle; decide
theorem witness_RampsMoveTheDemand :
    let s := well 3 (fun w => { w with target := some 60 }) (pump .running 50 field)
    (field.wcc.get 3).ramp = false ∧ (s.wcc.get 3).ramp = true ∧ (s.wcc.get 3).target = some 60
      ∧ (s.wcc.get 3).demand < 60 ∧ ((pump .running 61 field).wcc.get 3).demand > 60
      ∧ ((pump .starting 49 field).wcc.get 3).demand < field.wellSet 3 .minFlow
      ∧ field.wellSet 3 .minFlow ≤ ((pump .starting 50 field).wcc.get 3).demand
      ∧ 0 ≤ ((pump .stopping 0 field).wcc.get 3).demand ∧ ((pump .running 50 field).wcc.get 3).target = none := by
  decide
theorem witness_StatusEventAdoptsAndDecides :
    let s := well 3 (fun w => { w with adopting := false }) field
    (s.wcc.get 3).adopting = false ∧ (field.wcc.get 3).adopting = true ∧ (field.wcc.get 3).state = .off
      ∧ field.role 3 ≠ .unused ∧ field.role 4 = .unused := by decide
theorem witness_WellTakesUpdatesAndHandedValues :
    let u : Update := upd [(qFlow 3, 46), (qCurrent 3, 1560)] []
    let s := pump .running 50 field
    u.newValue (qCurrent 3) = some 1560 ∧ u.newValue (qCurrent 4) = none ∧ (s.wcc.get 3).state = .running
      ∧ s.role 3 = .production ∧ u.listsValue (qFlow 3) = true ∧ u.valid s (qFlow 3) = some 46
      ∧ u.valid s (qCurrent 3) = some 1560 ∧ (field.wcc.get 3).state ≠ .running ∧ field.role 8 ≠ .production := by
  decide

/-! ### The turbine -/

theorem witness_TurbineCommands :
    field.portIdle ∧ ((claims .turbine field).claimant .turbine).isSome = true ∧ field.claimant .turbine = none
      ∧ State.reset.ssl.storeFault = true ∧ field.ssl.storeFault = false ∧ field.tbc.state = .offline
      ∧ field.tbc.tripIn = false ∧ field.entryOfKind .turbine = some 2 ∧ plant.entryOfKind .turbine = none
      ∧ (field.flc.stations.get 2).status ≠ .lost ∧ (tripped 420 false).tbc.state = .tripped
      ∧ (loadedTurbine 0 false 0 0).tbc.state ≠ .offline ∧ (loadedTurbine 0 false 0 0).tbc.state = .loaded := by
  unfold State.portIdle; decide
theorem witness_TurbineTripsAndReset :
    let s := tripped 499 false
    let u : Update := ⟨[(qTurbSpeed, 499)], [], [(qTurbSpeed, .valid, 499)], [(qTurbSpeed, .valid, 500)]⟩
    TakerMeets tbcUpdateOf s qTurbSpeed (.valid, 499)
      ∧ TakerMeets tbcUpdateOf { s with handed := [.tbcUpdate u] } qTurbSpeed (.valid, 500) ∧
    let r := turb (fun r => { r with state := .runup, stageLeft := some 1 }) field
    (tripped 420 true).tbc.tripIn = true ∧ (loadedTurbine 0 false 0 0).tbc.tripIn = false
      ∧ (loadedTurbine 0 false 0 0).tbc.state = .loaded ∧ r.tbc.state = .runup ∧ r.tbc.stageLeft.isSome = true
      ∧ s.portIdle ∧ s.svp.selection = some (.turbineReset, 0) ∧ s.claimant .turbine = none
      ∧ s.tbc.state = .tripped ∧ 499 < s.turbSet .resetSpeed ∧ s.turbSet .resetSpeed ≤ 500
      ∧ s.entryOfKind .turbine = some 2 ∧ (s.flc.stations.get 2).status = .online
      ∧ ((claims .turbine s).claimant .turbine).isSome = true := by
  refine ⟨Laws.metBy_meets _ _ _, Laws.metBy_meets _ tbcUpdateOf _, ?_⟩
  unfold State.portIdle; decide
theorem witness_TurbineStagesAndBreaker :
    let w := turb (fun r => { r with state := .warming, stageLeft := some 1 }) field
    let r := turb (fun r => { r with state := .runup, inBand := true, speed := 3000 }) field
    (field.qtb.get qAdmPos).state ≠ .valid ∧ ((valid qAdmPos 80 field).qtb.get qAdmPos).state = .valid
      ∧ w.tbc.state = .warming ∧ w.tbc.stageLeft.isSome = true ∧ r.tbc.speed = r.turbSet .ratedSpeed
      ∧ (turb (fun r => { r with hold := 1 }) (loadedTurbine 0 false 0 0)).tbc.hold > 0
      ∧ (loadedTurbine 0 false 0 0).tbc.hold = 0 ∧ field.tbc.adopting = true ∧ field.tbc.state = .offline
      ∧ (loadedTurbine 0 false 0 0).tbc.adopting = false ∧ field.turbSet .resetSpeed < 501
      ∧ 500 ≤ field.turbSet .resetSpeed := by decide
theorem witness_TurbineSecond :
    let r := turb (fun r => { r with state := .runup, speed := 2999, stageLeft := some 1 }) field
    let m := turb (fun r => { r with mismatch := some 1 }) (loadedTurbine 0 false 21000 0)
    r.tbc.speed < r.turbSet .ratedSpeed ∧ r.tbc.stageLeft = some 1 ∧ field.tbc.state = .offline
      ∧ m.tbc.mismatch = some 1 ∧ (1 : Int) + 1 < m.turbSet .mismatchTime ∧ m.turbSet .mismatchTime ≤ (3599 : Int) + 1
      ∧ m.tbc.load < min m.tbc.loadDemand m.tbc.ceiling
      ∧ min (loadedTurbine 0 false 0 0).tbc.loadDemand 0 ≤ (loadedTurbine 0 false 0 0).tbc.load
      ∧ (turb (fun r => { r with hold := 1 }) m).tbc.hold = 1 := by decide
theorem witness_TurbineTakesAnUpdate :
    let u : Update := upd [(qTurbSpeed, 3301), (qInletP, 0), (qAdmPos, 700), (qSteamFlow, 157), (qGenLoad, 0)] []
    let s := loadedTurbine 2 false 21000 21000
    u.newValue qInletP = some 0 ∧ u.newValue qTurbSpeed = some 3301 ∧ s.limit 0 < 3301 ∧ ¬(s.limit 0 < 3300)
      ∧ s.tbc.state = .loaded ∧ u.newValue qAdmPos = some 700 ∧ u.newValue qSteamFlow = some 157
      ∧ (157 : Int) * 1000 < s.tbc.steamAvail * (1000 - s.turbSet .shortfallMargin)
      ∧ s.tbc.steamAvail * (1000 - s.turbSet .shortfallMargin) ≤ 158 * 1000 ∧ s.tbc.shortfall = false := by decide
theorem witness_CeilingFollowsTheWells :
    field.role 3 = .production ∧ field.role 8 ≠ .production ∧ field.tbc.shortfall = false
      ∧ (field.qtb.get qSteamFlow).state ≠ .valid := by decide

/-! ### The balance -/

theorem allocation_legal : allocation.wellsLegal := by
  intro c; unfold Well.legal; revert c; decide
theorem allocation_order : allocation.ssl.settings.inOrder := by unfold Settings.inOrder; decide
theorem witness_RequirementAndFastDown :
    allocation.wellsLegal ∧ allocation.ssl.settings.inOrder ∧ allocation.portIdle
      ∧ allocation.claimant .balance = none ∧ ((claims .balance allocation).claimant .balance).isSome = true
      ∧ allocation.bbu.mode = .power ∧ (bal (fun b => { b with mode := .heat }) allocation).bbu.mode ≠ .power :=
  ⟨allocation_legal, allocation_order, by unfold State.portIdle; decide⟩
theorem witness_AllocationEvents :
    allocation.wellsLegal ∧ allocation.ssl.settings.inOrder ∧ allocation.role 8 = .reinjection
      ∧ allocation.role 3 = .production ∧ allocation.role 4 = .unused ∧ WellItem.cooldown ≠ .role :=
  ⟨allocation_legal, allocation_order, by decide⟩

theorem allocation_range : allocation.ssl.settings.inRange := by
  intro i
  rcases i with ⟨c, i⟩ | i | i | i | i | i | ⟨e, i⟩ | ⟨q, i⟩
  · revert c; cases i <;> decide
  on_goal 6 => revert e
  on_goal 7 => revert q
  all_goals cases i <;> decide
theorem witness_BrineStaysWithinCapacity :
    allocation.wellsLegal ∧ allocation.ssl.settings.inOrder ∧ allocation.ssl.settings.inRange
      ∧ allocation.role 8 = .reinjection
      ∧ ((after (.bbuWellState 8 (.off, .running) none) allocation).bbu.rows.get 3).target = some 150
      ∧ allocation.bbu.caps.get 3 = some 150 ∧ (allocation.wcc.get 3).state = .running
      ∧ (after (.bbuWellState 8 (.off, .running) none) allocation).bbu.brineOver = false
      ∧ (after (.bbuWellState 8 (.running, .tripped) (some .overcurrent)) (well 8 (fun w => { w with state := .tripped })
        (well 9 (fun w => { w with state := .tripped }) (well 10 (fun w => { w with state := .tripped })
          allocation)))).bbu.brineOver = true :=
  ⟨allocation_legal, allocation_order, allocation_range, by decide⟩
theorem witness_TankHoldFollowsTheLevel :
    let u : Update := upd [(qTankLevel, 8000)] []
    let lost : Update := upd [] [(qTankLevel, .valid, .stale)]
    let s := valid qTankLevel 8000 (bal (fun b => { b with hold := .hold, holdTimer := true, holdCeiling := some 850 })
      allocation)
    let f := bal (fun b => { b with hold := .frozen }) s
    TakerMeets bbuUpdateOf s qTankLevel (.valid, 8000) ∧ allocation.wellsLegal ∧ allocation.ssl.settings.inOrder ∧ u.newValue qTankLevel = some 8000
      ∧ lost.newValue qTankLevel = none ∧ lost.intoStale qTankLevel = true ∧ u.intoStale qTankLevel = false
      ∧ allocation.bbu.hold = .normal ∧ allocation.bbu.holdCeiling = none ∧ s.bbu.hold = .hold
      ∧ f.bbu.hold = .frozen ∧ s.bbu.holdTimer = true ∧ s.bbu.tankXoff ≤ 8000 ∧ (7999 : Int) < s.balSet .tankXoff
      ∧ 6000 ≤ s.balSet .tankXon ∧ s.balSet .tankXon < 6001 ∧ s.leastProduction < 850 ∧ 0 < s.balSet .holdStep :=
  ⟨Laws.metBy_meets _ bbuUpdateOf _, allocation_legal, allocation_order, by decide⟩

/-! ### The field link -/

theorem witness_QueuesAndSlots :
    plant.entryOfOrder (.well 1 150) = none ∧ scan.entryOfOrder (.well 1 150) = some 1
      ∧ (∀ x ∈ scan.flc.setQ, x.entry ≠ 0)
      ∧ scan.flc.setQ = [] ++ ⟨1, .well 1 150, false, false⟩ :: [⟨2, .exchanger 394, false, false⟩]
      ∧ plant.entryOfTrip (.well 1) = none ∧ scan.entryOfTrip (.well 1) = some 1
      ∧ (link (fun f => { f with tripQ := [⟨1, 2⟩] }) scan).flc.tripQ = [] ++ ⟨1, 2⟩ :: []
      ∧ (after .slotExpiry scan).flc.flight.map Flight.entry = some 0 ∧ scan.flc.flight = none := by decide
theorem witness_ExchangesEndInOneOutcome :
    let s := after .slotExpiry scan
    plant.flc.flight = none ∧ s.flc.flight.isSome = true ∧ ([0x03, 0x91] : List Byte).length < 3
      ∧ ([0, 0] : List Byte).length < (1 : Byte).toNat + 2 ∧ ([0] : List Byte).length = (1 : Byte).toNat
      ∧ crcBytes [3, 0x91, 0] ≠ [0, 0]
      ∧ (s.flc.flight.map fun f => f.station.address) = some 3 := by decide
theorem witness_PollRepliesAreReadBack :
    let f : Flight := ⟨.poll, 4, ⟨.brine, 20, 0⟩, 100, []⟩
    (link (fun x => { x with flight := some f }) scan).flc.flight = some f ∧ f.exchange = .poll
      ∧ f.station.kind ≠ .none ∧ f.station.address < 256
      ∧ ([(-2147483648, Quality.good), (2147483647, .fault), (0, .suspect), (100, .good)] : List (Int × Quality)).length
        = (stationQtys f.station.kind 0).length := by decide

/-! ### Sequences -/

theorem loadUp_fits : ∀ x ∈ loadUp, StepFits loadUp.length x := by
  intro x hx
  simp only [loadUp, List.mem_cons, List.mem_nil_iff, or_false] at hx
  rcases hx with rfl | rfl | rfl | rfl | rfl | rfl <;> simp [StepFits, NamesState]
theorem witness_SequenceRequests :
    let s := sequence .loaded 0 .stopped field
    ((∀ x ∈ loadUp, StepFits loadUp.length x) ∧ ¬StepFits 1 ⟨.other, none, none, none, .abort⟩)
      ∧ field.portIdle ∧ ((sequence .running 0 .stopped field).sqr.get 1).runs ∧ ¬(field.sqr.get 1).runs
      ∧ (s.sqr.get 1).state ≠ .empty ∧ (field.sqr.get 1).state = .empty ∧ loadUp ≠ [] ∧ loadUp.length ≤ 32
      ∧ 32 < (List.replicate 33 (⟨.fin, none, none, none, .abort⟩ : Step)).length
      ∧ ((slot 1 (fun r => { r with pendingFailure := some (.turbine, .stop) }) s).sqr.get 1).pendingFailure.isSome
        = true :=
  ⟨⟨loadUp_fits, fun h => h.2.1 rfl⟩, by unfold State.portIdle Slot.runs; decide⟩
theorem witness_StepsAreTaken :
    let s := sequence .running 1 .stopped field
    let r := sequence .running 1 .stopped (pump .running 60 field)
    (s.sqr.get 1).state = .running ∧ (s.sqr.get 1).steps[(s.sqr.get 1).ptr]? = some loadUp[1]
      ∧ StepFits loadUp.length loadUp[1] ∧ CommandKind loadUp[0].kind ∧ loadUp[3].kind = .delay
      ∧ (∀ j : SlotNo, j ≠ 1 → Target.well 3 ∉ (s.sqr.get j).claims)
      ∧ Target.well 3 ∈ ((slot 2 (fun r => { r with claims := [.well 3] }) s).sqr.get 2).claims
      ∧ r.waitMet loadUp[1] ∧ ¬s.waitMet loadUp[1] ∧ loadUp[5].kind = .fin := by
  refine ⟨by decide, by decide, loadUp_fits _ (by simp [loadUp]), by simp [CommandKind, loadUp], rfl, by decide,
    by decide, ?_, ?_, rfl⟩
  · exact .inr ⟨rfl, .well 3, .well .running, .inl ⟨3, rfl, rfl⟩, rfl, by
      simp only [State.isIn]; decide⟩
  · rintro (⟨h, -⟩ | ⟨-, t, x, ht, hx, hi⟩)
    · exact absurd h (by decide)
    · obtain rfl : x = .well .running := by simpa [loadUp, eq_comm] using hx
      rcases ht with ⟨c, rfl, hc⟩ | ⟨-, hc⟩ | ⟨-, hc⟩ | ⟨-, hc⟩
      · obtain rfl : c = 3 := by
          have : (3 : Nat) = c.val := by simpa [loadUp] using hc
          exact Fin.ext this.symm
        revert hi; simp only [State.isIn]; decide
      all_goals simp [loadUp] at hc

theorem witness_WaitsEndAndStepsFail :
    let s := sequence .waiting 1 (.running 30) field
    let d := sequence .waiting 3 (.running 600) field
    (s.sqr.get 1).timer = .running 30 ∧ s.waitsOn 1 loadUp[1] ∧ loadUp[1].kind ≠ .delay
      ∧ (d.sqr.get 1).timer = .running 600 ∧ d.waitsOn 1 loadUp[3] ∧ loadUp[3].kind = .delay := by
  unfold State.waitsOn; decide

/-! ### Alarms and counters -/

/-- A table of 64 entries, one CLEARED-UNACKED among them. -/
def crowded : State :=
  alarmed (si .watch .activeAcked 5000 1047) 6000 |> fun s => { s with
    alt := { s.alt with table := (List.range 64).map fun n =>
      ⟨.stationLost, .station n, .watch, if n = 5 then .clearedUnacked else .activeAcked, 0, 0, 1, 0⟩
                        alarmOut := false } }
theorem witness_AlarmChangesAndClears :
    (alarmed (si .alarm .activeUnacked 5000 1047) 6000).alt.legal
      ∧ (alarmed (si .alarm .activeUnacked 5000 1047) 6000).alt.table
        = [] ++ si .alarm .activeUnacked 5000 1047 :: []
      ∧ crowded.alt.legal ∧ crowded.alt.table.length = 64
      ∧ (∀ e ∈ crowded.alt.table, e.code = .silicaSi → e.source ≠ .point 0)
      ∧ (∀ e ∈ crowded.alt.table.take 5, e.state ≠ .clearedUnacked)
      ∧ (crowded.alt.table[5]?.map AlarmEntry.state) = some .clearedUnacked
      ∧ Below .watch .alarm ∧ Below .alarm .trip := by
  unfold Alt.legal Below; decide
theorem witness_AcknowledgementsAndCounters :
    let e := si .alarm .activeAcked 5000 1047
    (alarmed e 6000).portIdle ∧ (alarmed e 6000).alt.legal ∧ (alarmed e 6000).alt.table = [] ++ e :: []
      ∧ codeNames e.code e.source = true ∧ codeNames .silicaSi .balance = false ∧ plant.alt.table = []
      ∧ counterAt (.wellTrips 3 .flash) = (.well 3, 4) := by
  unfold State.portIdle Alt.legal; decide

/-! ### Settings -/

/-- A part that is storing a copy, with a commissioning record in force. -/
def stocked : State :=
  store (fun x => { x with
    boundary := 3, locked := true, record := some ⟨3, x.limits⟩
    storing := some ⟨x.settings, plant.tip.silica.entries, plant.tip.psat.entries, plant.tip.curve.entries,
      x.limits, 0, false, .fill 16 none, none⟩ }) field
theorem witness_SettingsLimitsAndLocks :
    let i : Item := .well 3 .minFlow
    let r := pump .running 60 field
    let f := after .slotExpiry scan
    ((field.setting i 250).itemOrder i ∧ ¬(field.setting i 251).itemOrder i
      ∧ ¬(field.setting i 39).itemOrder i ∧ (field.setting i 40).itemOrder i)
      ∧ (field.portIdle ∧ stocked.portIdle)
      ∧ (∃ k x, groupTarget (itemGroup i) = some x ∧ x ∈ ((claims (.well 3) field).sqr.get k).claims)
      ∧ itemRange i = ⟨1, 600, 50⟩ ∧ 1 ≤ (250 : Int) ∧ (250 : Int) ≤ 600
      ∧ stocked.ssl.storing ≠ none ∧ field.ssl.storing = none ∧ (0 : Int) < stocked.ssl.boundary
      ∧ (field.wcc.get 3).state = .off ∧ (r.wcc.get 3).state ≠ .off ∧ field.ssl.boundary ≤ 0
      ∧ (field.station 0).kind ≠ .none ∧ (plant.station 0).kind = .none
      ∧ (f.flc.flight.map Flight.entry = some 0 ∧ (f.station 0).kind ≠ .none ∧ (f.station 1).kind ≠ .none)
      ∧ (store (fun x => { x with hostLocks := x.hostLocks.set (groupNo (itemGroup i)) true }) field).ssl.hostLocks.get
        (groupNo (itemGroup i)) = true := by
  refine ⟨?_, ⟨rfl, rfl⟩, ⟨1, .well 3, by decide⟩, by decide⟩
  simp only [State.itemOrder]; decide
theorem witness_CommissioningAndStore :
    let s := port (fun v => { v with selection := some (.setBoundary, 55) }) field
    let l := port (fun v => { v with selection := some (.commissionLock, 0) }) field
    s.portIdle ∧ s.svp.selection = some (.setBoundary, 55) ∧ s.ssl.locked = false
      ∧ l.portIdle ∧ l.svp.selection = some (.commissionLock, 0) ∧ l.ssl.locked = false ∧ stocked.ssl.locked = true
      ∧ stocked.ssl.storing ≠ none ∧ field.ssl.storing = none ∧ field.ssl.storeFault = false
      ∧ (store (fun x => { x with storeFault := true }) stocked).ssl.storeFault = true := by
  unfold State.portIdle; decide
theorem witness_SettingsReachTheirReaders :
    allocation.wellsLegal ∧ allocation.ssl.settings.inOrder ∧ readLater (.turbine .resetSpeed)
      ∧ readLater (.balance .tankXon) ∧ readLater (.exchanger .kp) ∧ readLater (.qty 3 .weight)
      ∧ State.reset.scm.floor.state = .none ∧ allocation.tbc.shortfall = false :=
  ⟨allocation_legal, allocation_order, by unfold readLater; decide⟩

/-! ### Invariants -/

theorem witness_RecordsStayLegal :
    let a := (turb (fun r => { r with state := .tripped, tripOut := true, breakerOpen := true }) (heater .isolated 1000))
    a.turbineSafe ∧ a.bypassSafe ∧ allocation.wellsLegal ∧ (valid qInletP 800 plant).quantitiesLegal
      ∧ (claims .turbine field).claimsLegal ∧ step a = .next a := by
  refine ⟨by unfold State.turbineSafe; decide, by unfold State.bypassSafe; decide, allocation_legal, ?_, ?_, rfl⟩
  · intro q; unfold Qty.legal; revert q; decide
  · exact ⟨by decide, fun j k h t => by cases t <;> revert j k <;> (try rename_i c; revert c) <;> decide⟩
theorem witness_StoresStayLegal :
    (∀ n, wellFormedAs n (stocked.tbl n)) ∧ (∃ r, stocked.ssl.commissioned r)
      ∧ (∃ straps checks, ({ stocked with pending := [.powerOn straps false checks false] } : State).pending.head?
        = some (.powerOn straps false checks false) ∧ (checks.firstRecord = true ∨ checks.secondRecord = true))
      ∧ crowded.alt.legal ∧ scan.storesBounded ∧ scan.flc.queuesLegal ∧ stocked.ssl.settings.stationsApart
      ∧ rowsInRange stocked.ssl.limits ∧ allocation.ssl.settings.inRange ∧ allocation.ssl.settings.inOrder := by
  refine ⟨?_, ⟨⟨3, stocked.ssl.limits⟩, rfl, rfl, rfl, fun _ _ => rfl⟩,
    ⟨⟨0, 0, false⟩, ⟨false, false, true⟩, rfl, .inr rfl⟩, ?_⟩
  · intro n; unfold wellFormedAs; cases n <;> decide
  refine ⟨by unfold Alt.legal; decide, by unfold State.storesBounded; decide, by unfold Flc.queuesLegal; decide,
    fun e x kind other h hk ho hn hm => ?_, by unfold rowsInRange; decide, allocation_range, allocation_order⟩
  subst hk ho; revert e x; decide

end Sys2Proof.Tests
end

