-- ==== Sys2Proof/Proofs/CharacteristicTables.lean ====
section
/-! PROOFS. The characteristic tables: well-formedness and LOAD_TABLE, forward and inverse interpolation
(chapter 1). -/

namespace Sys2Proof.Proofs

open Sys2Proof.Machine Sys2Proof.Laws

/-! ### Well-formed tables (R3) -/

/-- The range of a curve differs from the range that the two saturation tables share. -/
theorem entryInRange_iff (n : TableName) (v : Int) :
    entryInRange n v = true ↔ if n = .curve then 0 ≤ v ∧ v ≤ 1500 else 1 ≤ v ∧ v ≤ 9999 := by
  cases n <;> simp [entryInRange]

/-- The saturation tables rise strictly; a curve does not rise. -/
theorem entryInOrder_iff (n : TableName) (b v : Int) :
    entryInOrder n b v = true ↔ if n = .curve then v ≤ b else b < v := by
  cases n <;> simp [entryInOrder]

/-- The entry numbered `k` is in range and in order after the one before it. -/
def EntryFits (n : TableName) (l : List Int) (k : Nat) : Prop :=
  entryInRange n (l.getD k 0) = true ∧ (0 < k → entryInOrder n (l.getD (k - 1) 0) (l.getD k 0) = true)

/-- An entry does not fit when it is out of range or out of order. -/
theorem not_entryFits_iff (n : TableName) (l : List Int) (k : Nat) :
    ¬ EntryFits n l k ↔ entryInRange n (l.getD k 0) = false
      ∨ (0 < k ∧ entryInOrder n (l.getD (k - 1) 0) (l.getD k 0) = false) := by
  simp only [EntryFits, Decidable.not_and_iff_or_not, Classical.not_imp, Bool.not_eq_true]

/-- The offending index is the first whose entry does not fit: the law of the search from any index,
`offendingFrom_eq`, at the head of the list, where no entry stands before. -/
theorem offendingIndex_eq_some_iff (n : TableName) (l : List Int) (k : Nat) :
    offendingIndex n l = some k ↔
      k < l.length ∧ ¬ EntryFits n l k ∧ ∀ j, j < k → EntryFits n l j := by
  have before_iff (j : Nat) (b : Int) :
      (if j = 0 then none else some (l.getD (j - 1) 0)) = some b ↔ 0 < j ∧ l.getD (j - 1) 0 = b := by
    rcases j with _ | j <;> simp
  rw [offendingIndex, offendingFrom_eq, not_entryFits_iff]
  simp only [EntryFits, before_iff, Nat.zero_add, exists_eq_left', and_imp, and_assoc,
    exists_and_left, forall_eq', forall_comm (α := Int)]

/-- In a list without an offending index every entry fits: the first that did not would offend. -/
theorem entryFits_of_offendingIndex_eq_none {n : TableName} {l : List Int}
    (h : offendingIndex n l = none) (k : Nat) (hk : k < l.length) : EntryFits n l k := by
  induction k using Nat.strong_induction_on with
  | _ k ih =>
    by_contra offends
    have := (offendingIndex_eq_some_iff n l k).2 ⟨hk, offends, fun j hj => ih j hj (by omega)⟩
    rw [h] at this
    contradiction

/-- The entries of a well-formed SILICA table rise strictly. -/
theorem entryAt_lt_succ {e : Bank Int 17} (h : wellFormedAs .silica e) {k : Nat} (hk : k < 16) :
    entryAt e k < entryAt e (k + 1) := by
  obtain ⟨_, order⟩ := entryFits_of_offendingIndex_eq_none h (k + 1) (by rw [e.size]; omega)
  simpa only [entryInOrder_iff, reduceCtorEq, if_false, Nat.add_sub_cancel, entryAt] using
    order k.succ_pos

/-- The first entry of a well-formed SILICA table is the least. -/
theorem entryAt_zero_lt {e : Bank Int 17} (h : wellFormedAs .silica e) (k : Nat) (hk : k < 16) :
    entryAt e 0 < entryAt e (k + 1) := by
  induction k with
  | zero => exact entryAt_lt_succ h hk
  | succ k ih => exact (ih (by omega)).trans (entryAt_lt_succ h hk)

/-! ### LOAD_TABLE (R4) -/

/-- LOAD_TABLE at an idle port is answered by the table's owner, after the selection is cancelled. -/
theorem exec_loadTable {s : State} (hs : s.portIdle) (name : Option TableName) (l : List Int) :
    exec (.loadTable name l) s = .next ((State.loadTable name l s.deselect).1.answer 0x18
      (State.loadTable name l s.deselect).2.1 (State.loadTable name l s.deselect).2.2) :=
  congrArg Host.Outcome.next (serve_idle hs)

section Checks

variable (s : State) (n : TableName) (l : List Int)

theorem loadTable_noName : State.loadTable none l s = (s, .badValue, .none) := rfl

variable {l}

theorem loadTable_wrongCount (h : l.length ≠ 17) :
    State.loadTable (some n) l s = (s, .badValue, .none) := dif_neg h

variable {s n}

theorem loadTable_storing (h : l.length = 17) (hb : s.ssl.storing.isSome = true) :
    State.loadTable (some n) l s = (s, .busy, .none) := by
  simp [State.loadTable, State.says, State.storeBusy, h, hb]

theorem loadTable_protected (h : l.length = 17) (hb : s.ssl.storing = none)
    (hl : s.ssl.locked = true) (hn : n ≠ .curve) :
    State.loadTable (some n) l s = (s, .refusedProtected, .none) := by
  simp [State.loadTable, State.says, State.storeBusy, h, hb, hl, hn]

/-- The lock refuses SILICA and PSAT alone. -/
theorem lock_passes (hl : s.ssl.locked = false ∨ n = .curve) :
    (s.ssl.locked && decide (n ≠ .curve)) = false := by
  rcases hl with hl | hl <;> simp [hl]

theorem loadTable_offending (h : l.length = 17) (hb : s.ssl.storing = none)
    (hl : s.ssl.locked = false ∨ n = .curve) {k : Nat} (hk : offendingIndex n l = some k) :
    State.loadTable (some n) l s = (s, .badTable, .badIndex k) := by
  simp only [State.loadTable, State.says, State.storeBusy, h, hb, lock_passes hl, hk,
    Option.isSome_none, Bool.false_eq_true, if_false, dif_pos]

theorem loadTable_replaces (h : l.length = 17) (hb : s.ssl.storing = none)
    (hl : s.ssl.locked = false ∨ n = .curve) (hk : offendingIndex n l = none) :
    State.loadTable (some n) l s
      = ({ s with tip := s.tip.withTable n ⟨⟨l, h⟩, .loaded⟩ }, .ok, .none) := by
  simp only [State.loadTable, State.storeBusy, h, hb, lock_passes hl, hk, Option.isSome_none,
    Bool.false_eq_true, if_false, dif_pos]

end Checks

/-- Settles O12: the conditions of R3 entry by entry, and each check of R4 from the owner's answer. -/
theorem loadTableChecksInOrder : Obligations.LoadTableChecksInOrder := by
  refine ⟨fun n v b => ⟨entryInRange_iff n v, entryInOrder_iff n b v⟩, fun n l k => ?_,
    fun s n l hs => ?_⟩
  · rw [offendingIndex_eq_some_iff, not_entryFits_iff]; rfl
  simp only [exec_loadTable hs]
  refine ⟨by rw [loadTable_noName], fun hc => by rw [loadTable_wrongCount _ _ hc], fun h =>
    ⟨fun hb => ?_, fun hb => ⟨fun hl hn => ?_, fun hl => ⟨fun k hk => ?_, fun hk => ?_⟩⟩⟩⟩
  · rw [loadTable_storing (s := s.deselect) h hb]
  · rw [loadTable_protected (s := s.deselect) h hb hl hn]
  · rw [loadTable_offending (s := s.deselect) h hb hl hk]
  · rw [loadTable_replaces (s := s.deselect) h hb hl hk]; rfl

/-! ### Forward interpolation (R7, R8) -/

section Forward

variable {n : TableName} (e : Bank Int 17) {u : Int}

theorem forward_low (h : u < axis0 n) : forward n e u = (entryAt e 0, .clampLow) := if_pos h

theorem forward_high (h : axisLast n < u) : forward n e u = (entryAt e 16, .clampHigh) := by
  have first_lt : axis0 n < axisLast n := by cases n <;> decide
  rw [forward, if_neg (by omega), if_pos h]

theorem forward_last : forward n e (axisLast n) = (entryAt e 16, .none) := by
  have first_lt : axis0 n < axisLast n := by cases n <;> decide
  rw [forward, if_neg (by omega), if_neg (by omega), if_pos rfl]

/-- An input on the axis that is given by its segment and offset takes the value of that segment. -/
theorem forward_segment {k : Nat} {f : Int} (hk : k ≤ 15) (hf : 0 ≤ f) (hf' : f < axisStep n) :
    forward n e (axis0 n + axisStep n * k + f) = (segmentValue n e k f, .none) := by
  have step_pos := axisStep_pos n
  have start_nonneg : 0 ≤ axisStep n * (k : Int) := by positivity
  have start_le : axisStep n * (k : Int) ≤ axisStep n * 15 :=
    Int.mul_le_mul_of_nonneg_left (by omega) step_pos.le
  have offset : axis0 n + axisStep n * k + f - axis0 n = f + axisStep n * k := by ring
  have segment : (f + axisStep n * k) / axisStep n = k := by
    rw [Int.add_mul_ediv_left _ _ step_pos.ne', Int.ediv_eq_zero_of_lt hf hf', Int.zero_add]
  have rest : (f + axisStep n * k) % axisStep n = f := by
    rw [Int.add_mul_emod_self_left, Int.emod_eq_of_lt hf hf']
  rw [forward, axisLast, if_neg (by omega), if_neg (by omega), if_neg (by omega), offset, segment,
    rest, Int.toNat_natCast]

/-- The value at offset 0 is the entry of the segment's first breakpoint: half a step rounds down. -/
theorem segmentValue_zero (k : Nat) : segmentValue n e k 0 = entryAt e k := by
  have step_pos := axisStep_pos n
  rw [segmentValue, Int.mul_zero, Int.zero_add, Int.ediv_eq_zero_of_lt (by omega) (by omega),
    Int.add_zero]

/-- At breakpoint `k` the value is its entry. -/
theorem forward_breakpoint {k : Nat} (hk : k ≤ 16) :
    forward n e (axis0 n + axisStep n * k) = (entryAt e k, .none) := by
  rcases Nat.lt_or_eq_of_le hk with hk | rfl
  · have := forward_segment e (Nat.le_of_lt_succ hk) le_rfl (axisStep_pos n)
    rwa [Int.add_zero, segmentValue_zero] at this
  · rw [← forward_last e, axisLast, Int.mul_comm]; rfl

/-- An input inside the axis has a segment and an offset. -/
theorem exists_segment (h : axis0 n < u) (h' : u < axisLast n) :
    ∃ (k : Nat) (f : Int), k ≤ 15 ∧ 0 ≤ f ∧ f < axisStep n ∧ u = axis0 n + axisStep n * k + f := by
  have step_pos := axisStep_pos n
  have quotient_nonneg : 0 ≤ (u - axis0 n) / axisStep n := Int.ediv_nonneg (by omega) step_pos.le
  have quotient_lt : (u - axis0 n) / axisStep n < 16 :=
    Int.ediv_lt_of_lt_mul step_pos (by rw [axisLast] at h'; omega)
  have division := Int.mul_ediv_add_emod (u - axis0 n) (axisStep n)
  refine ⟨((u - axis0 n) / axisStep n).toNat, (u - axis0 n) % axisStep n, by omega,
    Int.emod_nonneg _ step_pos.ne', Int.emod_lt_of_pos _ step_pos, ?_⟩
  rw [Int.toNat_of_nonneg quotient_nonneg]; omega

/-- R8's value lies between the entries of the segment's breakpoints: `segment_between`, moved by the
first entry. -/
theorem segmentValue_between (k : Nat) {f : Int} (hf : 0 ≤ f) (hf' : f < axisStep n) :
    min (entryAt e k) (entryAt e (k + 1)) ≤ segmentValue n e k f
      ∧ segmentValue n e k f ≤ max (entryAt e k) (entryAt e (k + 1)) := by
  have bounds := segment_between (axisStep n) (entryAt e (k + 1) - entryAt e k) f (axisStep_pos n)
    hf hf' (axisStep_even n)
  rw [segmentValue]; omega

end Forward

/-- Settles O13, one clause for each case of R7. -/
theorem forwardInterpolation : Obligations.ForwardInterpolation := by
  intro n e u
  refine ⟨forward_low e, ?_, ?_, forward_high e, fun h h' => ?_⟩
  · rintro rfl
    simpa using forward_breakpoint (n := n) e (Nat.zero_le 16)
  · rintro rfl
    exact forward_last e
  · obtain ⟨k, f, hk, hf, hf', rfl⟩ := exists_segment h h'
    exact ⟨k, f, segmentValue n e k f, hk, hf, hf', rfl, forward_segment e hk hf hf', rfl,
      segmentValue_between e k hf hf'⟩

/-! ### Inverse interpolation (R10, R11) -/

/-- Division rounded up gives the smallest multiple of the divisor that reaches the dividend. -/
theorem ceilDiv_bounds (a : Int) {b : Int} (hb : 0 < b) :
    a ≤ ceilDiv a b * b ∧ (ceilDiv a b - 1) * b < a := by
  have division := Int.mul_ediv_add_emod (a + b - 1) b
  have := Int.emod_nonneg (a + b - 1) hb.ne'
  have := Int.emod_lt_of_pos (a + b - 1) hb
  rw [ceilDiv, Int.sub_mul, Int.mul_comm _ b]; omega

/-- The target of R10 is the product over 1000, rounded up. -/
theorem solubilityTarget_eq_ceilDiv (c m : Int) :
    solubilityTarget c m = ceilDiv (c * (1000 + m)) 1000 := by
  rw [solubilityTarget, ceilDiv]; congr 1; ring

/-- The share `d` of a segment that rises by `D`, scaled to the step and rounded up, is an offset from 1 to
150. -/
theorem ceilDiv_offset_bounds {d D : Int} (hd : 0 < d) (hD : d ≤ D) :
    1 ≤ ceilDiv (d * 150) D ∧ ceilDiv (d * 150) D ≤ 150 := by
  obtain ⟨reaches, least⟩ := ceilDiv_bounds (d * 150) (hd.trans_le hD)
  constructor
  · have : 0 < ceilDiv (d * 150) D * D := by omega
    exact pos_of_mul_pos_left this (hd.trans_le hD).le
  · have : (ceilDiv (d * 150) D - 1) * D < 150 * D := by omega
    exact Int.le_of_sub_one_lt (lt_of_mul_lt_mul_right this (hd.trans_le hD).le)

section Inverse

variable {e : Bank Int 17} {s : Int}

theorem inverseAt_low (h : s ≤ entryAt e 0) : inverseAt e s = (200, .low) := if_pos h

theorem inverseAt_unreachable (h : entryAt e 0 < s) (h' : entryAt e 16 < s) :
    inverseAt e s = (2600, .unreachable) := by
  rw [inverseAt, if_neg (by omega), if_pos h']

theorem inverseAt_reached (h : entryAt e 0 < s) (h' : s ≤ entryAt e 16) {k : Nat}
    (hk : segmentReaching s e.rows.tail = k) :
    inverseAt e s = (200 + 150 * (k : Int)
      + ceilDiv ((s - entryAt e k) * 150) (entryAt e (k + 1) - entryAt e k), .none) := by
  rw [inverseAt, if_neg (by omega), if_neg (by omega), hk]

/-- The entries of the list that R11 searches are those of the breakpoints from 1 on. -/
theorem tail_getD (e : Bank Int 17) (k : Nat) : e.rows.tail.getD k 0 = entryAt e (k + 1) := by
  rw [entryAt, List.getD_eq_getElem?_getD, List.getElem?_tail, List.getD_eq_getElem?_getD]

/-- A target above the first entry and not above the last is reached by R11's segment and by none
before it. -/
theorem segmentReaching_brackets (h : entryAt e 0 < s) (h' : s ≤ entryAt e 16) {k : Nat}
    (hk : segmentReaching s e.rows.tail = k) :
    k ≤ 15 ∧ entryAt e k < s ∧ s ≤ entryAt e (k + 1) ∧ ∀ j, j < k → entryAt e (j + 1) < s := by
  obtain ⟨le_length, before_lt, reaches⟩ := segmentReaching_spec s e.rows.tail
  simp only [hk, tail_getD, List.length_tail, e.size] at le_length before_lt reaches
  have k_le : k ≤ 15 := by
    by_contra beyond
    exact (before_lt 15 (by omega)).not_ge h'
  refine ⟨k_le, ?_, reaches (by omega), before_lt⟩
  rcases k with _ | j
  · exact h
  · exact before_lt j (by omega)

/-- The forward value at an offset that reaches the target's share of the segment reaches the target, for
half a step more does not take it away. -/
theorem le_segmentValue {k : Nat} {g : Int}
    (h : (s - entryAt e k) * 150 ≤ g * (entryAt e (k + 1) - entryAt e k)) :
    s ≤ segmentValue .silica e k g := by
  have share : s - entryAt e k ≤ ((entryAt e (k + 1) - entryAt e k) * g + 150 / 2) / 150 := by
    rw [Int.le_ediv_iff_mul_le (by decide), Int.mul_comm _ g]; omega
  change s ≤ entryAt e k + ((entryAt e (k + 1) - entryAt e k) * g + 150 / 2) / 150
  omega

/-- The forward value at a floor in a segment reaches the target: at offset 150 the floor is the next
breakpoint. -/
theorem le_forward_floor {k : Nat} {g : Int} (hk : k ≤ 15) (hg : 1 ≤ g) (hg' : g ≤ 150)
    (hs : s ≤ entryAt e (k + 1))
    (h : (s - entryAt e k) * 150 ≤ g * (entryAt e (k + 1) - entryAt e k)) :
    s ≤ (forward .silica e (200 + 150 * k + g)).1 := by
  rcases hg'.lt_or_eq with inside | rfl
  · have value : forward .silica e (200 + 150 * k + g) = _ := forward_segment e hk (by omega) inside
    rw [value]
    exact le_segmentValue h
  · have value : forward .silica e (200 + 150 * (k + 1 : Nat)) = _ := forward_breakpoint e (by omega)
    rw [show (200 + 150 * (k : Int) + 150) = 200 + 150 * (k + 1 : Nat) by push_cast; ring, value]
    exact hs

end Inverse

/-- Settles O14: the bounds of the two divisions rounded up, and the segment that R11's search finds. -/
theorem inverseInterpolation : Obligations.InverseInterpolation := by
  intro e c m wf _ _ _ _
  obtain ⟨target_reaches, target_least⟩ := ceilDiv_bounds (c * (1000 + m)) (b := 1000) (by decide)
  rw [← solubilityTarget_eq_ceilDiv] at target_reaches target_least
  refine ⟨solubilityTarget c m, (inverseAt e (solubilityTarget c m)).1,
    (inverseAt e (solubilityTarget c m)).2, rfl, by omega, by omega, ?_⟩
  generalize solubilityTarget c m = s
  refine ⟨fun h => ?_, fun h => ?_, fun h h' => ?_⟩
  · rw [inverseAt_low h]; exact ⟨rfl, rfl⟩
  · rw [inverseAt_unreachable ((entryAt_zero_lt wf 15 (by decide)).trans h) h]; exact ⟨rfl, rfl⟩
  · obtain ⟨k, hk⟩ : ∃ k, segmentReaching s e.rows.tail = k := ⟨_, rfl⟩
    obtain ⟨k_le, above, reached, first⟩ := segmentReaching_brackets h h' hk
    rw [inverseAt_reached h h' hk]
    obtain ⟨offset_pos, offset_le⟩ := ceilDiv_offset_bounds (d := s - entryAt e k)
      (D := entryAt e (k + 1) - entryAt e k) (by omega) (by omega)
    obtain ⟨offset_reaches, offset_least⟩ := ceilDiv_bounds ((s - entryAt e k) * 150)
      (b := entryAt e (k + 1) - entryAt e k) (by omega)
    exact ⟨rfl, k, _, k_le, above, reached, first, rfl, offset_pos, offset_le, offset_reaches,
      offset_least, le_forward_floor k_le offset_pos offset_le reached offset_reaches⟩

end Sys2Proof.Proofs
end

/-! PROOFS. The samples and erasures of one quantity (chapter 2). -/

namespace Sys2Proof.Proofs

open Sys2Proof.Machine

/-! ### Smoothing (R22) -/

/-- A share of at most 16 sixteenths of a gap that is not negative, truncated, does not pass the gap. -/
theorem truncatedShare_of_nonneg {gap w : Int} (hgap : 0 ≤ gap) (hw : 1 ≤ w) (hw' : w ≤ 16) :
    0 ≤ (gap * w).tdiv 16 ∧ (gap * w).tdiv 16 ≤ gap := by
  have share_nonneg : 0 ≤ gap * w := Int.mul_nonneg hgap (by omega)
  have share_le : gap * w ≤ gap * 16 := Int.mul_le_mul_of_nonneg_left hw' hgap
  rw [Int.tdiv_eq_ediv_of_nonneg share_nonneg]
  omega

/-- The truncated step lies between 0 and the gap, on either side: truncation is symmetric about 0. -/
theorem truncatedShare_between (gap : Int) {w : Int} (hw : 1 ≤ w) (hw' : w ≤ 16) :
    min 0 gap ≤ (gap * w).tdiv 16 ∧ (gap * w).tdiv 16 ≤ max 0 gap := by
  rcases Int.le_total 0 gap with up | down
  · have := truncatedShare_of_nonneg up hw hw'
    omega
  · have := truncatedShare_of_nonneg (Int.neg_nonneg_of_nonpos down) hw hw'
    rw [Int.neg_mul, Int.neg_tdiv] at this
    omega

section Sample

variable (w x : Int) {r : Qty}

theorem smoothed_newRun (h : r.state = .unprimed ∨ r.state = .stale) : smoothed w x r = 16 * x := by
  rcases h with h | h <;> simp [smoothed, h]

theorem smoothed_inRun (h : r.state = .priming ∨ r.state = .valid) :
    smoothed w x r = r.y + ((16 * x - r.y) * w).tdiv 16 := by
  rcases h with h | h <;> simp [smoothed, h]

variable {w}

/-- The truncated step never passes 16 times the sample. -/
theorem smoothed_between (hw : 1 ≤ w) (hw' : w ≤ 16) (h : r.state = .priming ∨ r.state = .valid) :
    min r.y (16 * x) ≤ smoothed w x r ∧ smoothed w x r ≤ max r.y (16 * x) := by
  have := truncatedShare_between (16 * x - r.y) hw hw'
  rw [smoothed_inRun w x h]
  omega

end Sample

/-! ### The state and the prime count after a good sample (R24) -/

section Primed

variable {r : Qty}

theorem primed_newRun (h : r.state = .unprimed ∨ r.state = .stale) :
    primedState r = .priming ∧ primedCount r = 1 := by
  rcases h with h | h <;> simp [primedState, primedCount, h]

theorem primed_counting (h : r.state = .priming) (hp : r.prime ≤ 2) :
    primedState r = .priming ∧ primedCount r = r.prime + 1 := by
  have below : ¬ 3 ≤ r.prime := by omega
  simp [primedState, primedCount, h, below]

theorem primed_complete (h : r.state = .priming) (hp : r.prime = 3) :
    primedState r = .valid ∧ primedCount r = 4 := by
  simp [primedState, primedCount, h, hp]

theorem primed_valid (h : r.state = .valid) : primedState r = .valid ∧ primedCount r = 4 := by
  simp [primedState, primedCount, h]

end Primed

/-! ### The state and the prime count after an erasure (R25) -/

section Erase

variable {limit : Int} {r : Qty}

/-- A quantity without a run of values has nothing to lose. -/
theorem erase_state_noRun (h : r.state = .unprimed ∨ r.state = .stale) :
    (r.erase limit).state = r.state := by
  rcases h with h | h <;> simp [Qty.erase, erasedState, h]

/-- An erasure that leaves the run below the limit moves no state. -/
theorem erase_state_below (h : ((r.erase limit).run : Int) < limit) :
    (r.erase limit).state = r.state := by
  have below : reaches (run15 r.run) limit = false := decide_eq_false (Int.not_le.2 h)
  cases state : r.state <;> simp [Qty.erase, erasedState, state, below]

theorem erase_state_reached (h : r.state = .priming ∨ r.state = .valid)
    (hr : limit ≤ ((r.erase limit).run : Int)) : (r.erase limit).state = .stale := by
  have reached : reaches (run15 r.run) limit = true := decide_eq_true hr
  rcases h with h | h <;> simp [Qty.erase, erasedState, h, reached]

theorem erase_prime_of_valid (h : (r.erase limit).state = .valid) : (r.erase limit).prime = 4 :=
  if_pos h

theorem erase_prime_of_ne_valid (h : (r.erase limit).state ≠ .valid) : (r.erase limit).prime = 0 :=
  if_neg h

/-- A quantity that an erasure leaves in a state other than VALID has lost its count. -/
theorem erase_uncounted {state : QState} (h : (r.erase limit).state = state) (hv : state ≠ .valid) :
    (r.erase limit).state = state ∧ (r.erase limit).prime = 0 :=
  ⟨h, erase_prime_of_ne_valid (h ▸ hv)⟩

end Erase

/-- Settles O15, one clause for each row of the tables of R22, R24 and R25. -/
theorem samplesAndErasures : Obligations.SamplesAndErasures := by
  intro now w x limit r hw hw'
  refine ⟨⟨rfl, rfl, rfl⟩, fun h => ⟨smoothed_newRun w x h, primed_newRun h⟩,
    fun h => ⟨smoothed_inRun w x h, smoothed_between x hw hw' h⟩, primed_counting, primed_complete,
    primed_valid, ⟨rfl, rfl, rfl, rfl⟩, fun h => ?unprimed, fun h => ?stale, fun h hr => ?primingBelow,
    fun h hr => ?validBelow, fun h hr => ?reached⟩
  case unprimed => exact erase_uncounted ((erase_state_noRun (.inl h)).trans h) (by decide)
  case stale => exact erase_uncounted ((erase_state_noRun (.inr h)).trans h) (by decide)
  case primingBelow => exact erase_uncounted ((erase_state_below hr).trans h) (by decide)
  case validBelow =>
    have valid := (erase_state_below hr).trans h
    exact ⟨valid, erase_prime_of_valid valid⟩
  case reached => exact erase_uncounted (erase_state_reached h hr) (by decide)

end Sys2Proof.Proofs

/-! PROOFS. The scaling watch: the brine floor at an update (chapter 3). -/

namespace Sys2Proof.Proofs

open Sys2Proof.Machine

/-! ### Events that are not the floor's -/

/-- An event is none of the floor's: neither an alarm change of the floor nor the event to HXC that goes with
SILICA_STALE (R36). -/
def OffFloor (e : Instr) : Prop :=
  (∀ a ch, e ≠ .alarmChange a .floor ch) ∧ (∀ a, e ≠ .alarmClear a .floor) ∧ ∀ b, e ≠ .hxcSilicaStale b

@[simp] theorem offFloor_alarmChange {a src ch} :
    OffFloor (.alarmChange a src ch) ↔ src ≠ .floor := by simp [OffFloor]

@[simp] theorem offFloor_alarmClear {a src} : OffFloor (.alarmClear a src) ↔ src ≠ .floor := by
  simp [OffFloor]

@[simp] theorem offFloor_hxcSp0Change {a b} : OffFloor (.hxcSp0Change a b) := by simp [OffFloor]

@[simp] theorem offFloor_wccFlashMargin {c m} : OffFloor (.wccFlashMargin c m) := by simp [OffFloor]

@[simp] theorem offFloor_wccFlashHold {c h} : OffFloor (.wccFlashHold c h) := by simp [OffFloor]

@[simp] theorem offFloor_bbuFlashHold {c h} : OffFloor (.bbuFlashHold c h) := by simp [OffFloor]

theorem pointAlarm_offFloor {p : PointNo} {si : Int} {old new : PointState} :
    ∀ e ∈ pointAlarm p si old new, OffFloor e := by
  unfold pointAlarm; split <;> simp

theorem sp0Event_offFloor {p : PointNo} {old new : PointState} :
    ∀ e ∈ sp0Event p old new, OffFloor e := by
  unfold sp0Event; split <;> simp

theorem foulingAlarm_offFloor {src : Source} (hsrc : src ≠ .floor) {code : AlarmCode} {rise : Int}
    {old new : WatchState} : ∀ e ∈ foulingAlarm code src rise old new, OffFloor e := by
  unfold foulingAlarm; split <;> simp [hsrc]

/-- A comparison hands the alarm change of its state alone, or nothing. -/
theorem compareFouling_offFloor {src : Source} (hsrc : src ≠ .floor) {s : State} {u : Update}
    {flowQ dpQ : QtyNo} {rated : Int} {code : AlarmCode} {r : Fouling} :
    ∀ e ∈ (s.compareFouling u flowQ dpQ rated code src r).2, OffFloor e := by
  unfold State.compareFouling
  split
  · split
    · split
      · exact foulingAlarm_offFloor hsrc
      · simp
    · simp
  · simp

/-! ### Operations that leave the floor alone -/

/-- From `s` to `t` the floor is kept, and no event that is handed is one of the floor's. -/
structure LeavesFloor (s t : State) : Prop where
  floor : t.scm.floor = s.scm.floor
  handed : ∃ l, t.handed = s.handed ++ l ∧ ∀ e ∈ l, OffFloor e

namespace LeavesFloor

variable {s t : State}

/-- An operation that keeps both the floor and what is handed. -/
theorem of_eq (hfloor : t.scm.floor = s.scm.floor) (hhanded : t.handed = s.handed) : LeavesFloor s t :=
  ⟨hfloor, [], by simp [hhanded], by simp⟩

theorem refl (s : State) : LeavesFloor s s := of_eq rfl rfl

theorem trans {r : State} (h : LeavesFloor r s) (k : LeavesFloor s t) : LeavesFloor r t := by
  obtain ⟨floor_s, l, handed_s, off_l⟩ := h
  obtain ⟨floor_t, m, handed_t, off_m⟩ := k
  refine ⟨floor_t.trans floor_s, l ++ m, by rw [handed_t, handed_s, List.append_assoc], ?_⟩
  exact fun e he => (List.mem_append.1 he).elim (off_l e) (off_m e)

theorem hand (h : LeavesFloor s t) {l : List Instr} (off : ∀ e ∈ l, OffFloor e) :
    LeavesFloor s (t.hand l) :=
  h.trans ⟨rfl, l, rfl, off⟩

theorem setCalcite (h : LeavesFloor s t) (c : WellNo) (r : Calcite) :
    LeavesFloor s (t.setCalcite c r) :=
  h.trans (of_eq rfl rfl)

/-- A fold of an operation that leaves the floor alone. -/
theorem foldl {α : Type} {f : State → α → State} (h : LeavesFloor s t)
    (hf : ∀ r x, LeavesFloor r (f r x)) (xs : List α) : LeavesFloor s (xs.foldl f t) := by
  induction xs generalizing t with
  | nil => exact h
  | cons x xs ih => exact ih (h.trans (hf t x))

end LeavesFloor

/-! ### The points (R31 to R33, R47) -/

theorem computePoint_leavesFloor (s : State) (p : PointNo) (c temp : Int) :
    LeavesFloor s (s.computePoint p c temp) := by
  refine .hand ?_ fun e he => ?_
  · exact .of_eq rfl rfl
  · exact (List.mem_append.1 he).elim (pointAlarm_offFloor e) (sp0Event_offFloor e)

theorem pointUpdate_leavesFloor (u : Update) (s : State) (p : PointNo) :
    LeavesFloor s (pointUpdate u s p) := by
  unfold pointUpdate
  split
  · split
    · exact computePoint_leavesFloor ..
    · exact .refl s
  · exact .refl s

theorem staleSeenUpdate_leavesFloor (u : Update) (s : State) : LeavesFloor s (staleSeenUpdate u s) :=
  .of_eq rfl rfl

/-! ### The wells and the exchanger (R40 to R45) -/

theorem moveCalcite_leavesFloor (u : Update) (s : State) (c : WellNo) (hold : Bool) :
    LeavesFloor s (moveCalcite u s c hold) := by
  dsimp only [moveCalcite]
  split
  · exact .refl s
  · split
    · exact .trans (((LeavesFloor.refl s).setCalcite ..).hand (by simp)) (.of_eq rfl rfl)
    · exact ((LeavesFloor.refl s).setCalcite ..).hand (by simp)

theorem holdUpdateWell_leavesFloor (u : Update) (s : State) (c : WellNo) (m : Int) :
    LeavesFloor s (holdUpdateWell u s c m) := by
  dsimp only [holdUpdateWell]
  split
  · exact .refl s
  · refine .trans (((LeavesFloor.refl s).setCalcite ..).hand ?_) (moveCalcite_leavesFloor ..)
    split <;> simp

theorem marginUpdate_leavesFloor (u : Update) (s : State) (c : WellNo) :
    LeavesFloor s (marginUpdate u s c) := by
  dsimp only [marginUpdate]
  split
  · split
    · exact ((LeavesFloor.refl s).setCalcite ..).hand (by simp)
    · exact (LeavesFloor.refl s).setCalcite ..
  · split
    · split
      · exact .trans (((LeavesFloor.refl s).setCalcite ..).hand (by simp)) (holdUpdateWell_leavesFloor ..)
      · exact .refl s
    · exact .refl s

theorem feedIsShort_leavesFloor (s : State) (c : WellNo) (v : Int) :
    LeavesFloor s (feedIsShort s c v) := by
  dsimp only [feedIsShort]
  split
  · exact .refl s
  · split
    · exact ((LeavesFloor.refl s).setCalcite ..).hand (by simp)
    · exact (LeavesFloor.refl s).setCalcite ..

theorem feedIsGood_leavesFloor (s : State) (c : WellNo) : LeavesFloor s (feedIsGood s c) := by
  refine ((LeavesFloor.refl s).setCalcite ..).hand ?_
  split <;> simp

theorem feedUpdate_leavesFloor (u : Update) (s : State) (c : WellNo) :
    LeavesFloor s (feedUpdate u s c) := by
  unfold feedUpdate
  split
  · split
    · exact feedIsShort_leavesFloor ..
    · exact feedIsGood_leavesFloor ..
    · exact .refl s
  · exact .refl s

theorem pumpUpdate_leavesFloor (u : Update) (s : State) (c : WellNo) :
    LeavesFloor s (pumpUpdate u s c) := by
  refine .hand ?_ ?_
  · exact .of_eq rfl rfl
  · exact compareFouling_offFloor (by simp)

theorem hxFoulingUpdate_leavesFloor (u : Update) (s : State) : LeavesFloor s (hxFoulingUpdate u s) := by
  refine .hand ?_ ?_
  · exact .of_eq rfl rfl
  · exact compareFouling_offFloor (by simp)

theorem wellUpdate_leavesFloor (u : Update) (s : State) (c : WellNo) :
    LeavesFloor s (wellUpdate u s c) := by
  unfold wellUpdate
  split
  · exact ((marginUpdate_leavesFloor u s c).trans (feedUpdate_leavesFloor ..)).trans
      (pumpUpdate_leavesFloor ..)
  · exact .refl s

/-- Once the floor has taken an update, the points, the wells and the exchanger leave it alone. -/
theorem scmUpdate_leavesFloor (u : Update) (s : State) :
    LeavesFloor (holdUpdate u (floorUpdate u s)) (s.scmUpdate u) :=
  have points := LeavesFloor.foldl (.refl (holdUpdate u (floorUpdate u s)))
    (pointUpdate_leavesFloor u) pointNos
  have watched := LeavesFloor.foldl (points.trans (staleSeenUpdate_leavesFloor u _))
    (wellUpdate_leavesFloor u) wells
  watched.trans (hxFoulingUpdate_leavesFloor u _)

/-! ### The floor at an update (R36, R37) -/

section Floor

variable {u : Update}

theorem floorUpdate_of_noValue (h : u.newValue qSilica = none) (s : State) : floorUpdate u s = s := by
  rw [floorUpdate, h]

/-- A new SILICA value makes the floor FRESH at the result of the inverse interpolation. -/
theorem floorUpdate_of_newValue {s : State} {c target floor : Int} {flag : FloorFlag}
    (h : u.newValue qSilica = some c)
    (hinv : inverse (s.tbl .silica) c (s.limit 4) = (target, floor, flag)) :
    (floorUpdate u s).scm.floor = ⟨.fresh, some floor, some target, flag, floor, none, false⟩
      ∧ (floorUpdate u s).handed = s.handed ++ staleClearEvents s.scm.floor
        ++ unreachableEvents s.scm.floor.flag flag target := by
  simp [floorUpdate, h, State.freshFloor, hinv, State.hand]

theorem holdUpdate_of_notStale (h : u.intoStale qSilica = false) (s : State) : holdUpdate u s = s :=
  if_neg (by simp [h])

theorem holdUpdate_of_intoStale (h : u.intoStale qSilica = true) (s : State) :
    holdUpdate u s
      = { s with scm := { s.scm with floor := s.scm.floor.held (s.scaleSet .staleOffset) } } :=
  if_pos h

end Floor

section Held

variable {f : Floor} (offset : Int)

theorem held_fresh (h : f.state = .fresh) {x : Int} (hx : f.last = some x) :
    f.held offset = { f with state := .staleHeld, inUse := x + offset, clock := some 0 } := by
  simp [Floor.held, h, hx]

theorem held_staleHeld (h : f.state = .staleHeld) : f.held offset = f := by simp [Floor.held, h]

/-- In NONE a clock that does not run is started at 0. -/
theorem held_none_stopped (h : f.state = .none) (hc : f.clock = none) :
    f.held offset = { f with clock := some 0 } := by
  simp [Floor.held, h, hc]

/-- In NONE a clock that runs goes on. -/
theorem held_none_running (h : f.state = .none) (hc : f.clock.isSome = true) : f.held offset = f := by
  obtain ⟨n, hn⟩ := Option.isSome_iff_exists.1 hc
  cases f; cases h; cases hn; rfl

end Held

/-- Settles O22: the floor takes the update before the points, the wells and the exchanger, which leave it
alone, so each clause is a clause about the floor's own two steps. -/
theorem floorFollowsSilica : Obligations.FloorFollowsSilica := by
  intro u s notBoth
  obtain ⟨floor_kept, l, handed, off⟩ := scmUpdate_leavesFloor u (s.took (.scmUpdate u))
  refine ⟨(s.took (.scmUpdate u)).scmUpdate u, l, rfl,
    ((Frame.refl _ s).took (by decide)).scmUpdate (by decide), off,
    fun noValue notStale => ?other, fun c newValue => ?fresh, fun intoStale => ?stale⟩
  case other =>
    rw [floorUpdate_of_noValue noValue, holdUpdate_of_notStale notStale] at floor_kept handed
    exact ⟨floor_kept, handed⟩
  case fresh =>
    have notStale := notBoth (by simp [Update.listsValue, newValue])
    obtain ⟨target, floor, flag, hinv⟩ :
        ∃ target floor flag, inverse (s.tbl .silica) c (s.limit 4) = (target, floor, flag) :=
      ⟨_, _, _, rfl⟩
    obtain ⟨floor_fresh, events⟩ :=
      floorUpdate_of_newValue (s := s.took (.scmUpdate u)) newValue hinv
    rw [holdUpdate_of_notStale notStale, floor_fresh] at floor_kept
    rw [holdUpdate_of_notStale notStale, events] at handed
    exact ⟨target, floor, flag, hinv, floor_kept, handed⟩
  case stale =>
    have noValue : u.newValue qSilica = none := by
      by_contra some_value
      have := notBoth (Option.isSome_iff_ne_none.2 some_value)
      simp [intoStale] at this
    rw [floorUpdate_of_noValue noValue, holdUpdate_of_intoStale intoStale] at floor_kept handed
    rw [floor_kept]
    exact ⟨handed, fun h f last => held_fresh _ h last, held_staleHeld _, held_none_stopped _,
      held_none_running _⟩

end Sys2Proof.Proofs

/-! PROOFS. The Alarm Table and Counter Bank: acknowledgements and counters (chapter 10). -/

namespace Sys2Proof.Proofs

open Sys2Proof.Machine Sys2Proof.Laws

/-! ### ACK (R166, R167, R168) -/

/-- ACK at an idle port is answered by the alarm table, after the selection is cancelled. -/
theorem exec_ack {s : State} (idle : s.portIdle) (code : Option AlarmCode) (source : Option Source) :
    exec (.ack code source) s = .next ((State.ack code source s.deselect).1.answer 0x60
      (State.ack code source s.deselect).2.1 (State.ack code source s.deselect).2.2) :=
  congrArg Host.Outcome.next (serve_idle idle)

section Answers

variable (s : State)

theorem ack_noCode (source : Option Source) : State.ack none source s = (s, .badValue, .none) := rfl

theorem ack_noSource (code : AlarmCode) : State.ack (some code) none s = (s, .badValue, .none) := rfl

theorem ack_notNamed {code : AlarmCode} {source : Source} (h : codeNames code source = false) :
    State.ack (some code) (some source) s = (s, .badValue, .none) := by
  simp [State.ack, State.says, h]

variable {s}

theorem ack_notFound {code : AlarmCode} {source : Source} (named : codeNames code source = true)
    (absent : ∀ e ∈ s.alt.table, e.code = code → e.source ≠ source) :
    State.ack (some code) (some source) s = (s, .notFound, .none) := by
  simp [State.ack, State.ackEntry, State.says, named, entry_none absent]

/-- An entry of a legal table is the one its code and source find. -/
theorem ack_found (legal : s.alt.legal) {before after : List AlarmEntry} {e : AlarmEntry}
    (split : s.alt.table = before ++ e :: after) (named : codeNames e.code e.source = true) :
    State.ack (some e.code) (some e.source) s
      = ({ s with alt := (s.alt.ack s.svp.plantTime e).evaluate }, .ok, .none) := by
  simp [State.ack, State.ackEntry, named, entry_some legal split]

end Answers

section Acknowledged

variable {a : Alt} {before after : List AlarmEntry} {e : AlarmEntry} (now : U32)

theorem altAck_activeAcked (h : e.state = .activeAcked) : a.ack now e = a := by
  rw [Alt.ack, h]

theorem altAck_activeUnacked (legal : a.legal) (split : a.table = before ++ e :: after)
    (h : e.state = .activeUnacked) :
    a.ack now e = { a with
      table := before ++ { e with state := .activeAcked, lastChange := now } :: after } := by
  rw [← put_eq legal split { e with state := .activeAcked, lastChange := now } rfl rfl, Alt.ack, h]

theorem altAck_clearedUnacked (legal : a.legal) (split : a.table = before ++ e :: after)
    (h : e.state = .clearedUnacked) :
    a.ack now e = { a with table := before ++ after, overflow := false } := by
  rw [← remove_eq legal split, Alt.ack, h]

end Acknowledged

/-- The entry of a legal table that ACK finds, by its state: an ACTIVE_ACKED entry changes nothing, for
ALARM_OUT already stands as R168 evaluates it; the notices are none. -/
theorem ackEntry_becomes {s t : State} (legal : s.alt.legal) {before after : List AlarmEntry}
    {e : AlarmEntry} (split : s.alt.table = before ++ e :: after) (now : U32)
    (after_ack : t = { s with alt := (s.alt.ack now e).evaluate }) :
    (e.state = .activeAcked → t = s)
      ∧ (e.state = .activeUnacked → AlarmsBecome
        (before ++ { e with state := .activeAcked, lastChange := now } :: after) s.alt.overflow [] s t)
      ∧ (e.state = .clearedUnacked → AlarmsBecome (before ++ after) false [] s t) := by
  subst after_ack
  refine ⟨fun h => ?_, fun h => ?_, fun h => ?_⟩
  · rw [altAck_activeAcked now h]; exact evaluate_legal legal
  · rw [altAck_activeUnacked now legal split h]
    exact evaluate_becomes s { s.alt with table := _ } [] rfl rfl
  · rw [altAck_clearedUnacked now legal split h]
    exact evaluate_becomes s { s.alt with table := _, overflow := _ } [] rfl rfl

/-! ### ACK_ALL (R166, R167, R168) -/

/-- ACK_ALL at an idle port: every entry is acknowledged as one event, and the counts are of the table
before it. -/
theorem exec_ackAll {s : State} (idle : s.portIdle) :
    exec .ackAll s = .next
      ({ s.deselect with alt := (s.alt.ackAll s.svp.plantTime).evaluate }.answer 0x61 .ok
        (.acked (s.alt.countIn .activeUnacked) (s.alt.countIn .clearedUnacked))) :=
  congrArg Host.Outcome.next (serve_idle idle)

theorem countIn_eq_length (a : Alt) (x : AlarmState) :
    a.countIn x = (a.table.filter fun e => decide (e.state = x)).length :=
  List.countP_eq_length_filter

/-- TABLE_OVERFLOW stays set when ACK_ALL removes no entry (R167). -/
theorem ackAll_overflow_iff (a : Alt) (now : U32) :
    (a.ackAll now).overflow = true ↔ a.overflow = true ∧ a.countIn .clearedUnacked = 0 := by
  simp [Alt.ackAll]

/-! ### The counters (R171, R172) -/

/-- READ_AND_CLEAR at an idle port is answered by the counter bank, after the selection is cancelled. -/
theorem exec_readAndClear {s : State} (idle : s.portIdle) (o : Option CounterOwner) :
    exec (.readAndClear o) s = .next ((State.readAndClear o s.deselect).1.answer 0x64
      (State.readAndClear o s.deselect).2.1 (State.readAndClear o s.deselect).2.2) :=
  congrArg Host.Outcome.next (serve_idle idle)

/-- The counters of the owner that is cleared are zeros, as many as before. -/
theorem of_zero_self (b : Counters) (o : CounterOwner) :
    (b.zero o).of o = List.replicate (b.of o).length 0 := by
  cases o <;> simp [Counters.zero, Counters.of, Bank.size, Bank.fill]

/-- The counters of every other owner stay. -/
theorem of_zero_ne (b : Counters) {o p : CounterOwner} (h : p ≠ o) : (b.zero o).of p = b.of p := by
  cases o <;> cases p
  case well.well c d => exact congrArg Bank.rows (Bank.get_set_ne _ _ fun same => h (same ▸ rfl))
  case entry.entry c d => exact congrArg Bank.rows (Bank.get_set_ne _ _ fun same => h (same ▸ rfl))
  case turbine.turbine => contradiction
  case exchanger.exchanger => contradiction
  case device.device => contradiction
  all_goals rfl

/-- Settles O54: an acknowledgement by the state of the entry it finds, ACK_ALL from its definition with
its counts, and the laws of the increments and of the clear of the counter bank. -/
theorem acknowledgementsAndCounters : Obligations.AcknowledgementsAndCounters := by
  refine fun s => ⟨fun cs => ⟨_, rfl, bumps_of cs s.alt.counters⟩, fun idle => ?_⟩
  refine ⟨exec_readAndClear idle none, fun o => ⟨s.alt.counters.zero o, exec_readAndClear idle _, ?_⟩,
    fun x => ?_, fun code => ?_, fun code source notNamed => ?_, fun code source named absent => ?_,
    fun legal before e after split named => ?_, ?_⟩
  · rw [of_zero_self]
    exact ⟨fun v hv => List.eq_of_mem_replicate hv, List.length_replicate, fun p => of_zero_ne _⟩
  · rw [State.onlyAnswers, exec_ack idle, ack_noCode]
  · rw [State.onlyAnswers, exec_ack idle, ack_noSource]
  · rw [State.onlyAnswers, exec_ack idle, ack_notNamed _ notNamed]
  · rw [State.onlyAnswers, exec_ack idle, ack_notFound (s := s.deselect) named absent]
  · refine ⟨_, ?_, ackEntry_becomes (s := s.deselect) legal split s.svp.plantTime rfl⟩
    rw [exec_ack idle, ack_found (s := s.deselect) legal split named]; rfl
  · exact ⟨_, _, _, _, exec_ackAll idle, countIn_eq_length .., countIn_eq_length ..,
      ackAll_overflow_iff .., evaluate_becomes s.deselect (s.alt.ackAll s.svp.plantTime) [] rfl rfl⟩

end Sys2Proof.Proofs

/-! PROOFS. The parts of the state that each command can change, and what a step's invariant asks of the commands
(all chapters). -/

namespace Sys2Proof.Machine

/-! ### Frames of the resets and of a choice between two operations -/

theorem Frame.ite {l : List Part} {s t u : State} {p : Prop} [Decidable p] (ht : Frame l s t)
    (hu : Frame l s u) : Frame l s (if p then t else u) := by
  split
  · exact ht
  · exact hu

theorem Frame.storeFaultAtPowerOn {l : List Part} {s t : State} {copy} (h : Frame l s t)
    (hl : [Part.alt, Part.svp] ⊆ l) : Frame l s (t.storeFaultAtPowerOn copy) := by
  have hsvp : [Part.svp] ⊆ l := fun x hx => hl (List.mem_cons_of_mem _ hx)
  unfold State.storeFaultAtPowerOn
  split
  · exact h.alarmClear hl
  · exact (h.with_svp hsvp).alarmChange hl

/-- A power-on writes every block's record, and leaves the queue of commands and the free values. -/
theorem Frame.poweredOn (s : State) (straps : Straps) (tripIn : Bool) (copy : Option StoredCopy)
    (record : Option CommRecord) (passes : Bool) :
    Frame [.handed, .svp, .flc, .qtb, .tip, .scm, .hxc, .wcc, .tbc, .bbu, .sqr, .alt, .ssl] s
      (s.poweredOn straps tripIn copy record passes) := by
  constructor <;> simp [State.poweredOn]

theorem handed_subset_touchesTaken (w : Changed) : [Part.handed] ⊆ touchesTaken w := by
  rcases w with i | l
  · cases i <;> simp [touchesTaken]
  · simp [touchesTaken]

/-- The item that SET_PARAM writes is the one it names. -/
theorem eq_some_of_existing {g : Option Group} {i : Option Item} {x : Item} (h : existing g i = some x) :
    i = some x := by
  unfold existing at h
  split at h
  · split at h
    · exact h
    · exact nomatch h
  · exact nomatch h

/-! ### The frame of every command -/

/-- Every row of the table answers a next state, and its meaning is made of operations that each change parts
named by `touches`: one case a row, by the frames of its operations in the order they are applied. -/
theorem exec_frame (i : Instr) (s : State) : ∃ t, exec i s = .next t ∧ Frame (touches i) s t := by
  cases i <;> refine ⟨_, rfl, ?_⟩ <;> dsimp only [touches]
  case powerOn straps tripIn store retainedPasses =>
    exact .startLink (.storeFaultAtPowerOn (.clearAll (.poweredOn _ _ _ _ _ _) (by decide)) (by decide))
      (by decide)
  case ident => exact .serve (.refl _ _) (by decide) fun u => .refl _ _
  case setTime t => exact .serve (.refl _ _) (by decide) fun u => .with_svp (.refl _ _) (by decide)
  case select object arg =>
    exact .serve (.refl _ _) (by decide) fun u => .selectAnswer (.refl _ _) (by decide)
  case operateWellTrip c =>
    exact .operate (.refl _ _) (by decide) fun u => .operateWell (.refl _ _) fun _ => .operateTrip
      (.refl _ _) (by decide)
  case operateWellUnlock c =>
    exact .operate (.refl _ _) (by decide) fun u => .operateWell (.refl _ _) fun _ => .operateUnlock
      (.refl _ _) (by decide)
  case operateTurbineTrip arg =>
    exact .operate (.refl _ _) (by decide) fun u => .operateTurbTrip (.refl _ _) (by decide)
  case operateTurbineReset arg =>
    exact .operate (.refl _ _) (by decide) fun u => .operateTurbReset (.refl _ _) (by decide)
  case operateSetBoundary p =>
    exact .operate (.refl _ _) (by decide) fun u => .operateBoundary (.refl _ _) (by decide)
  case operateCommissionLock arg =>
    exact .operate (.refl _ _) (by decide) fun u => .operateLock (.refl _ _) (by decide)
  case operateRestart arg =>
    exact .operate (.refl _ _) (by decide) fun u => .with_svp (.refl _ _) (by decide)
  case restart =>
    exact .arbitrate (.hand (.restartLink (.restartBalance (.restartSlots (.restartRecords (.took (.refl
      _ _) (by decide)) (by decide)) (by decide)) (by decide)) (by decide)) (by decide)) (by decide)
  case selectWindowExpiry => exact .deselect (.refl _ _) (by decide)
  case plantTimeTick => constructor <;> simp
  case readQty first count => exact .serve (.refl _ _) (by decide) fun u => .readQty (.refl _ _)
  case loadTable name entries =>
    exact .serve (.refl _ _) (by decide) fun u => .loadTable (.refl _ _) (by decide)
  case readTable name => exact .serve (.refl _ _) (by decide) fun u => .readTable (.refl _ _)
  case evalTableForward name u => exact .serve (.refl _ _) (by decide) fun u => .evalForward (.refl _ _)
  case evalTableInverse name c m =>
    exact .serve (.refl _ _) (by decide) fun u => .evalInverse (.refl _ _)
  case readScaling sec => exact .serve (.refl _ _) (by decide) fun u => .readScaling (.refl _ _)
  case readTrend first count =>
    exact .serve (.refl _ _) (by decide) fun u => .readTrend (.refl _ _) (by decide)
  case captureBaseline t =>
    exact .serve (.refl _ _) (by decide) fun u => .capture (.refl _ _) (by decide)
  case hxCmdOn => exact .serve (.refl _ _) (by decide) fun u => .hxOn (.refl _ _) (by decide)
  case hxCmdOff => exact .serve (.refl _ _) (by decide) fun u => .hxOff (.refl _ _) (by decide)
  case hxCmdIsolate => exact .serve (.refl _ _) (by decide) fun u => .hxIsolate (.refl _ _) (by decide)
  case hxCmdResume => exact .serve (.refl _ _) (by decide) fun u => .hxResume (.refl _ _) (by decide)
  case hxCmdOffset v => exact .serve (.refl _ _) (by decide) fun u => .hxOffset (.refl _ _) (by decide)
  case readExchanger => exact .serve (.refl _ _) (by decide) fun u => .refl _ _
  case wellCmdStart c =>
    exact .serve (.refl _ _) (by decide) fun u => .onWell (.refl _ _) fun _ => .wellStart (.refl _ _)
      (by decide)
  case wellCmdStop c =>
    exact .serve (.refl _ _) (by decide) fun u => .onWell (.refl _ _) fun _ => .wellStop (.refl _ _) (by
      decide)
  case wellCmdResetTrip c =>
    exact .serve (.refl _ _) (by decide) fun u => .onWell (.refl _ _) fun _ => .wellResetTrip (.refl _
      _) (by decide)
  case wellCmdWeight c w =>
    exact .serve (.refl _ _) (by decide) fun u => .onWell (.refl _ _) fun _ => .wellWeight (.refl _ _)
      (by decide)
  case readWell c => exact .serve (.refl _ _) (by decide) fun u => .onWell (.refl _ _) fun _ => .refl _ _
  case turbCmdStart => exact .serve (.refl _ _) (by decide) fun u => .turbStart (.refl _ _) (by decide)
  case turbCmdStop => exact .serve (.refl _ _) (by decide) fun u => .turbStop (.refl _ _) (by decide)
  case turbCmdLoad v =>
    refine .serve (.refl _ _) (by decide) fun u => ?_
    split
    · exact .refl _ _
    · exact .turbLoad (.refl _ _) (by decide)
  case readTurbine => exact .serve (.refl _ _) (by decide) fun u => .refl _ _
  case balCmdMode m =>
    refine .serve (.refl _ _) (by decide) fun u => ?_
    split
    · exact .refl _ _
    · exact .balMode (.refl _ _) (by decide)
  case balCmdFixedTarget v =>
    exact .serve (.refl _ _) (by decide) fun u => .balFixed (.refl _ _) (by decide)
  case readBalance => exact .serve (.refl _ _) (by decide) fun u => .refl _ _
  case readField a => exact .serve (.refl _ _) (by decide) fun u => .readField (.refl _ _)
  case seqLoad k steps =>
    exact .serve (.refl _ _) (by decide) fun u => .onSlot (.refl _ _) fun _ => .seqLoad (.refl _ _) (by
      decide)
  case seqRun k =>
    exact .serve (.refl _ _) (by decide) fun u => .onSlot (.refl _ _) fun _ => .seqRun (.refl _ _) (by
      decide)
  case seqSuspend k =>
    exact .serve (.refl _ _) (by decide) fun u => .onSlot (.refl _ _) fun _ => .seqSuspend (.refl _ _)
      (by decide)
  case seqResume k =>
    exact .serve (.refl _ _) (by decide) fun u => .onSlot (.refl _ _) fun _ => .seqResume (.refl _ _)
      (by decide)
  case seqAbort k =>
    exact .serve (.refl _ _) (by decide) fun u => .onSlot (.refl _ _) fun _ => .seqAbort (.refl _ _) (by
      decide)
  case readSeq k => exact .serve (.refl _ _) (by decide) fun u => .onSlot (.refl _ _) fun _ => .refl _ _
  case ack code source => exact .serve (.refl _ _) (by decide) fun u => .ack (.refl _ _) (by decide)
  case ackAll => exact .serve (.refl _ _) (by decide) fun u => .with_alt (.refl _ _) (by decide)
  case readAlarms first count => exact .serve (.refl _ _) (by decide) fun u => .readAlarms (.refl _ _)
  case readCounters o => exact .serve (.refl _ _) (by decide) fun u => .readCounters (.refl _ _)
  case readAndClear o =>
    exact .serve (.refl _ _) (by decide) fun u => .readAndClear (.refl _ _) (by decide)
  case setParam g i v =>
    refine .serve (.refl _ _) (by simp) fun u => ?_
    unfold onItem
    split
    next x hx =>
      obtain rfl := eq_some_of_existing hx
      exact .setItem (.refl _ _) (by simp) (List.subset_append_right _ _)
    next => exact .refl _ _
  case getParam g i =>
    exact .serve (.refl _ _) (by decide) fun u => .onItem (.refl _ _) fun _ => .getItem (.refl _ _)
  case lockGroup g => exact .serve (.refl _ _) (by decide) fun u => .setHostLock (.refl _ _) (by decide)
  case unlockGroup g =>
    exact .serve (.refl _ _) (by decide) fun u => .setHostLock (.refl _ _) (by decide)
  case setLimit l v => exact .serve (.refl _ _) (by decide) fun u => .setLimit (.refl _ _) (by decide)
  case readLimits => exact .serve (.refl _ _) (by decide) fun u => .refl _ _
  case store => exact .serve (.refl _ _) (by decide) fun u => .store (.refl _ _) (by decide)
  case storeComplete checkPasses =>
    split
    · exact .refl _ _
    · exact .ite (.storePassed (.refl _ _) (by decide)) (.storeFailed (.refl _ _) (by decide))
  case badKind kind =>
    refine .serve (.refl _ _) (by decide) fun u => ?_
    split
    · exact .refl _ _
    · exact .refl _ _
  case frameDiscarded bytes =>
    split
    · exact .with_svp (.refl _ _) (by decide)
    · exact .refl _ _
  case linkOverrun => exact .ite (.overrun (.refl _ _) (by decide)) (.refl _ _)
  case replyComplete => exact .ite (.endReply (.refl _ _) (by decide)) (.refl _ _)
  case portResync => exact .with_svp (.refl _ _) (by decide)
  case noticeStart => exact .ite (.with_svp (.refl _ _) (by decide)) (.refl _ _)
  case noticeComplete => exact .ite (.with_svp (.refl _ _) (by decide)) (.refl _ _)
  case tripInAsserted =>
    exact .ite (.refl _ _) (.ite (.tripTurbine (.with_tbc (.refl _ _) (by decide)) (by decide))
      (.with_tbc (.refl _ _) (by decide)))
  case tripInCleared => exact .with_tbc (.refl _ _) (by decide)
  case slotExpiry => exact .arbitrate (.nextSlot (.hand (.refl _ _) (by decide)) (by decide)) (by decide)
  case fieldReplyReceived bytes =>
    split
    · exact .endExchange (.refl _ _) (by decide)
    · exact .refl _ _
  case replyTimeout =>
    split
    · exact .endExchange (.refl _ _) (by decide)
    · exact .refl _ _
  case setPlaced o =>
    split
    · exact .arbitrate (.placeSetAt (.took (.refl _ _) (by decide)) (by decide)) (by decide)
    · exact .took (.refl _ _) (by decide)
  case tripPlaced st =>
    split
    · exact .arbitrate (.with_flc (.took (.refl _ _) (by decide)) (by decide)) (by decide)
    · exact .took (.refl _ _) (by decide)
  case stationRetire e old => exact .retireStation (.took (.refl _ _) (by decide)) (by decide)
  case qtbDelivery d => exact .deliver (.took (.refl _ _) (by decide)) (by decide)
  case qtbStationLost kind channel => exact .stationLost (.took (.refl _ _) (by decide)) (by decide)
  case settingChangeTaken what old =>
    split
    · exact .itemTaken (.took (.refl _ _) (handed_subset_touchesTaken _)) (List.Subset.refl _)
    · exact .limitTaken (.took (.refl _ _) (by simp [touchesTaken])) (by simp [touchesTaken])
  case scmUpdate u => exact .scmUpdate (.took (.refl _ _) (by decide)) (by decide)
  case scmWellState c move cause => exact .scmWellState (.took (.refl _ _) (by decide)) (by decide)
  case scmRoleChange c role =>
    exact .ite (.took (.refl _ _) (by decide)) (.resetWellWatch (.took (.refl _ _) (by decide)) (by
      decide))
  case staleClockExpiry =>
    split
    · exact .refl _ _
    · exact .ite (.refl _ _) (.testStale (.setClock (.refl _ _) (by decide)) (by decide))
  case trendIntervalExpiry => exact .nextInterval (.with_scm (.refl _ _) (by decide)) (by decide)
  case hxcUpdate u => exact .hxcUpdate (.took (.refl _ _) (by decide)) (by decide)
  case hxcSp0Change old new =>
    exact .ite (.addCause (.took (.refl _ _) (by decide)) (by decide)) (.ite (.dropCause (.took (.refl _
      _) (by decide)) (by decide)) (.took (.refl _ _) (by decide)))
  case hxcSilicaStale raised =>
    exact .ite (.addCause (.took (.refl _ _) (by decide)) (by decide)) (.dropCause (.took (.refl _ _)
      (by decide)) (by decide))
  case hxcLinkLost => exact .took (.refl _ _) (by decide)
  case hxcSecondTimer =>
    exact .ite (.ite (.limitedMinute (.refl _ _) (by decide)) (.with_hxc (.refl _ _) (by decide)))
      (.refl _ _)
  case heatLimitedMin => exact .ite (.limitedMinute (.refl _ _) (by decide)) (.refl _ _)
  case wccStatusEvent e => exact .wellStatus (.took (.refl _ _) (by decide)) (by decide)
  case wccUpdate u =>
    exact .fold _ _ (.took (.refl _ _) (by decide)) fun _ _ => .wccWellUpdate (.refl _ _) (by decide)
  case wccFlashMargin c m => exact .takeMargin (.took (.refl _ _) (by decide)) (by decide)
  case wccFlashHold c held => exact .setWell (.took (.refl _ _) (by decide)) (by decide)
  case wccLinkLost c =>
    exact .ite (.tripWell (.took (.refl _ _) (by decide)) (by decide)) (.took (.refl _ _) (by decide))
  case wccTarget c t => exact .setWell (.took (.refl _ _) (by decide)) (by decide)
  case rampTimerExpiry c => exact .ite (.rampExpiry (.refl _ _) (by decide)) (.refl _ _)
  case startTimerExpiry c => exact .ite (.tripWell (.refl _ _) (by decide)) (.refl _ _)
  case wccSecondTimer => exact .with_wcc (.refl _ _) (by decide)
  case tbcStatusEvent e => exact .turbStatus (.took (.refl _ _) (by decide)) (by decide)
  case tbcUpdate u => exact .tbcUpdate (.took (.refl _ _) (by decide)) (by decide)
  case tbcLinkLost =>
    exact .ite (.tripTurbine (.took (.refl _ _) (by decide)) (by decide)) (.took (.refl _ _) (by
      decide))
  case tbcWellDemand c =>
    exact .ite (.recomputeCeiling (.took (.refl _ _) (by decide)) (by decide)) (.took (.refl _ _) (by
      decide))
  case tbcWellState c move cause =>
    exact .ite (.recomputeCeiling (.took (.refl _ _) (by decide)) (by decide)) (.took (.refl _ _) (by
      decide))
  case stageTimerExpiry => exact .ite (.commit (.refl _ _) (by decide)) (.refl _ _)
  case tbcSecondTimer =>
    split
    · exact .runupSecond (.refl _ _) (by decide)
    · exact .stageStep (.refl _ _) (by decide)
    · exact .loadSecond (.refl _ _) (by decide)
    · exact .loadSecond (.refl _ _) (by decide)
    · exact .warmSecond (.refl _ _) (by decide)
    · exact .refl _ _
    · exact .refl _ _
  case settleComplete => exact .ite (.enterSync (.refl _ _) (by decide)) (.refl _ _)
  case runupTimeout => exact .ite (.tripTurbine (.refl _ _) (by decide)) (.refl _ _)
  case syncTimeout => exact .ite (.tripTurbine (.refl _ _) (by decide)) (.refl _ _)
  case valveMismatch => exact .ite (.tripTurbine (.refl _ _) (by decide)) (.refl _ _)
  case adoptHoldEnd => exact .ite (.endHold (.refl _ _) (by decide)) (.refl _ _)
  case bbuSteamDemand d =>
    exact .reckonCeiling (.with_bbu (.took (.refl _ _) (by decide)) (by decide)) (by decide)
  case bbuTurbineState move cause => exact .turbineChanged (.took (.refl _ _) (by decide)) (by decide)
  case bbuWellState c move cause =>
    exact .ite (.ceilingAnew (.took (.refl _ _) (by decide)) (by decide)) (.ite (.allocate (.took (.refl
      _ _) (by decide)) (by decide)) (.took (.refl _ _) (by decide)))
  case bbuWellDemand c =>
    exact .ite (.testFastDown (.took (.refl _ _) (by decide)) (by decide)) (.took (.refl _ _) (by
      decide))
  case bbuWellWeight c =>
    exact .ite (.took (.refl _ _) (by decide)) (.allocate (.took (.refl _ _) (by decide)) (by decide))
  case bbuFlashHold c held =>
    exact .ite (.allocate (.with_bbu (.took (.refl _ _) (by decide)) (by decide)) (by decide))
      (.with_bbu (.took (.refl _ _) (by decide)) (by decide))
  case bbuTankUpdate u => exact .bbuUpdate (.took (.refl _ _) (by decide)) (by decide)
  case holdTimerExpiry => exact .ite (.holdExpiry (.refl _ _) (by decide)) (.refl _ _)
  case seqCommandStep k =>
    split
    · exact .takeCommand (.took (.refl _ _) (by decide)) (by decide)
    · exact .took (.refl _ _) (by decide)
  case seqWaitStep k =>
    split
    · exact .beginWait (.took (.refl _ _) (by decide)) (by decide)
    · exact .took (.refl _ _) (by decide)
  case seqPauseStep k =>
    split
    · exact .moveSlot (.took (.refl _ _) (by decide)) (by decide)
    · exact .took (.refl _ _) (by decide)
  case seqEndStep k =>
    split
    · exact .finishSlot (.took (.refl _ _) (by decide)) (by decide)
    · exact .took (.refl _ _) (by decide)
  case sqrQtyUpdate u =>
    exact .fold _ _ (.took (.refl _ _) (by decide)) fun _ _ => .slotQtyUpdate (.refl _ _) (by decide)
  case sqrStateChange t move cause =>
    exact .fold _ _ (.took (.refl _ _) (by decide)) fun _ _ => .slotStateChange (.refl _ _) (by decide)
  case sqrTargetTripStop t what origin =>
    exact .fold _ _ (.took (.refl _ _) (by decide)) fun _ _ => .slotTripStop (.refl _ _) (by decide)
  case sqrSecondTimer => exact .fold _ _ (.refl _ _) fun _ _ => .slotSecond (.refl _ _) (by decide)
  case waitTimeout k =>
    split
    · exact .ite (.failStep (.refl _ _) (by decide)) (.refl _ _)
    · exact .refl _ _
  case delayExpiry k =>
    split
    · exact .ite (.advance (.refl _ _) (by decide)) (.refl _ _)
    · exact .refl _ _
  case alarmChange code source ch => exact .alarmChange (.took (.refl _ _) (by decide)) (by decide)
  case alarmClear code source => exact .alarmClear (.took (.refl _ _) (by decide)) (by decide)
  case counterIncrement cs => exact .with_alt (.took (.refl _ _) (by decide)) (by decide)
  case staleClockSecond =>
    split
    · exact .refl _ _
    · exact .testStale (.setClock (.refl _ _) (by decide)) (by decide)

theorem Frame.of_exec {i : Instr} {s t : State} (h : exec i s = .next t) : Frame (touches i) s t := by
  obtain ⟨u, hu, frame⟩ := exec_frame i s
  cases hu.symm.trans h
  exact frame

theorem next_inj {s t : State} (h : (Host.Outcome.next s : Result) = .next t) : s = t := by
  cases h
  rfl

/-! ### What the two resets do behind the records they write -/

/-- The parts that a power-on changes once every record is written: the alarms taken, and the link started. -/
theorem powerOn_frame {straps : Straps} {tripIn : Bool} {store : StoreChecks} {passes : Bool} {s t : State}
    (h : exec (.powerOn straps tripIn store passes) s = .next t) : Frame [.alt, .svp, .flc, .handed]
      (s.poweredOn straps tripIn (s.copyAtPowerOn store.copy) (s.recordAtPowerOn store) passes) t := by
  obtain rfl := next_inj h
  exact .startLink (.storeFaultAtPowerOn (.clearAll (.refl _ _) (by decide)) (by decide)) (by decide)

/-- The parts that a restart changes once the slots are written: the balance and the link. -/
theorem restart_slots_frame {s t : State} (h : exec .restart s = .next t) :
    Frame [.bbu, .flc, .handed] (s.took .restart).restartRecords.restartSlots t := by
  obtain rfl := next_inj h
  exact .arbitrate (.hand (.restartLink (.restartBalance (.refl _ _) (by decide)) (by decide)) (by decide))
    (by decide)

/-- The parts that a restart changes once the records that need no other block are written. -/
theorem restart_frame {s t : State} (h : exec .restart s = .next t) :
    Frame [.sqr, .bbu, .flc, .handed] (s.took .restart).restartRecords t :=
  (Frame.restartSlots (.refl _ _) (by decide)).trans ((restart_slots_frame h).mono (by decide))

/-! ### Invariants of one part -/

/-- A step runs one command on the state with another queue, or idles: an invariant that does not read the queue
and that every command keeps is kept. -/
theorem kept_of_exec {inv : State → Prop} (queue : ∀ s l, inv s → inv { s with pending := l })
    (command : ∀ i s t, exec i s = .next t → inv s → inv t) : Kept inv := by
  intro s t hs hstep
  unfold step at hstep
  split at hstep
  · exact command _ _ _ hstep (queue _ _ hs)
  · split at hstep
    · exact command _ _ _ hstep hs
    · cases hstep; exact hs

end Sys2Proof.Machine

namespace Sys2Proof.Proofs

open Sys2Proof.Machine

/-- Settles O2, by the frame of each row. -/
theorem everyCommandChangesOnlyItsParts : Obligations.EveryCommandChangesOnlyItsParts := exec_frame

end Sys2Proof.Proofs

/-! PROOFS. The records of the turbine and of the exchanger stay legal (chapters 4 and 6), and what serves every
such invariant: the parts it reads. -/

namespace Sys2Proof.Proofs

open Sys2Proof.Machine

/-! ### Invariants that read some parts -/

/-- An invariant reads the parts `l` alone: an operation that leaves them keeps it. -/
def Reads (l : List Part) (inv : State → Prop) : Prop :=
  ∀ {m s t}, Frame m s t → (∀ p ∈ l, p ∉ m) → inv s → inv t

section Reads

variable {l : List Part} {inv : State → Prop} {s : State}

/-- The port's record is no part of the invariant: a request keeps it when its owner does. -/
theorem Reads.serve (reads : Reads l inv) (port : Part.svp ∉ l) {kind : Byte} {owner : State → Answer}
    (h : inv s) (ho : ∀ u, inv u → inv (owner u).1) : inv (s.serve kind owner) := by
  have apart : ∀ p ∈ l, p ∉ [Part.svp] := fun p hp hs => port (List.mem_singleton.1 hs ▸ hp)
  unfold State.serve
  split
  · exact reads (.overrun (.refl _ _) (by decide)) apart h
  · exact reads (.answer (.refl _ _) (by decide)) apart (ho _ (reads (.deselect (.refl _ _) (by decide)) apart h))

theorem Reads.operate (reads : Reads l inv) (port : Part.svp ∉ l) {obj : SelObject} {arg : Nat} {ok : Bool}
    {owner : State → State × Status} (h : inv s) (ho : ∀ u, inv u → inv (owner u).1) :
    inv (s.operate obj arg ok owner) := by
  have apart : ∀ p ∈ l, p ∉ [Part.svp] := fun p hp hs => port (List.mem_singleton.1 hs ▸ hp)
  have answered : ∀ {u st}, inv u → inv (u.answer 0x04 st .none) :=
    reads (.answer (.refl _ _) (by decide)) apart
  have deselected : inv s.deselect := reads (.deselect (.refl _ _) (by decide)) apart h
  unfold State.operate
  split
  · exact reads (.overrun (.refl _ _) (by decide)) apart h
  · split
    · exact answered deselected
    · split
      · exact answered (ho _ deselected)
      · exact answered deselected

/-- An event taken leaves the list of those handed alone changed. -/
theorem Reads.took (reads : Reads l inv) (handed : Part.handed ∉ l) {i : Instr} (h : inv s) :
    inv (s.took i) :=
  reads (m := [.handed]) (.took (.refl _ _) (by decide)) (fun p hp hs => handed (List.mem_singleton.1 hs ▸ hp)) h

/-- An invariant that does not read the queue is kept when every command that changes one of its parts keeps
it. -/
theorem Reads.kept (reads : Reads l inv) (queue : Part.pending ∉ l)
    (command : ∀ i s t, (∃ p ∈ l, p ∈ touches i) → exec i s = .next t → inv s → inv t) : Kept inv := by
  refine kept_of_exec (fun s x hs => ?_) fun i s t hexec hs => ?_
  · exact reads (m := [.pending]) (.with_pending (.refl _ _) (by decide))
      (fun p hp hq => queue (List.mem_singleton.1 hq ▸ hp)) hs
  · by_cases touched : ∃ p ∈ l, p ∈ touches i
    · exact command i s t touched hexec hs
    · exact reads (.of_exec hexec) (fun p hp hq => touched ⟨p, hp, hq⟩) hs

end Reads

theorem inv_ite {inv : State → Prop} {p : Prop} [Decidable p] {s t : State} (hs : p → inv s)
    (ht : ¬p → inv t) : inv (if p then s else t) := by
  split
  next h => exact hs h
  next h => exact ht h

/-- What a command step's command can be: a well's, the balance's, the turbine's or the exchanger's, or none
(R150). -/
theorem issueStep_cases {P : Answer → Prop} (s : State) (k : SlotNo) (st : Step)
    (wellStart : ∀ c, P (onWell c (State.wellStart (.slot k)) s))
    (wellStop : ∀ c, P (onWell c (State.wellStop (.slot k)) s))
    (wellWeight : ∀ c v, P (onWell c (fun c => State.wellWeight (.slot k) c v) s))
    (balMode : ∀ m, P (s.balMode (.slot k) m))
    (turbStart : P (s.turbStart (.slot k))) (turbLoad : ∀ v, P (s.turbLoad (.slot k) v))
    (turbStop : P (s.turbStop (.slot k))) (hxOn : P (s.hxOn (.slot k))) (hxOff : P (s.hxOff (.slot k)))
    (hxOffset : ∀ v, P (s.hxOffset (.slot k) v)) (none : P (s.says .badValue)) :
    P (s.issueStep k st) := by
  unfold State.issueStep
  split
  · exact wellStart _
  · exact wellStop _
  · exact wellWeight _ _
  · exact balMode _
  · exact turbStart
  · exact turbLoad _
  · exact turbStop
  · exact hxOn
  · exact hxOff
  · exact hxOffset _
  · exact none

/-- A command step's slot moves on or fails after its command, which changes SQR's own record, the notices and the
events handed (R153). -/
theorem takeCommand_frame (s : State) (k : SlotNo) (st : Step) :
    Frame [.sqr, .svp, .handed] (s.issueStep k st).1 (s.takeCommand k st) := by
  unfold State.takeCommand
  exact .ite (.advance (.refl _ _) (by decide)) (.failStep (.refl _ _) (by decide))

/-- A command step keeps an invariant that reads neither SQR nor the port nor the events handed, when the commands
of each block that it reads keep it. -/
theorem takeCommand_keeps {l : List Part} {inv : State → Prop} (reads : Reads l inv)
    (apart : ∀ p ∈ l, p ∉ [Part.sqr, .svp, .handed]) {s : State} (h : inv s) (k : SlotNo) (st : Step)
    (wells : Part.wcc ∈ l → ∀ c, inv (State.wellStart (.slot k) c s).1 ∧ inv (State.wellStop (.slot k) c s).1
      ∧ ∀ v, inv (State.wellWeight (.slot k) c v s).1)
    (balance : Part.bbu ∈ l → ∀ m, inv (s.balMode (.slot k) m).1)
    (turbine : Part.tbc ∈ l → inv (s.turbStart (.slot k)).1 ∧ (∀ v, inv (s.turbLoad (.slot k) v).1)
      ∧ inv (s.turbStop (.slot k)).1)
    (exchanger : Part.hxc ∈ l → inv (s.hxOn (.slot k)).1 ∧ inv (s.hxOff (.slot k)).1
      ∧ ∀ v, inv (s.hxOffset (.slot k) v).1) : inv (s.takeCommand k st) := by
  have other {p : Part} {a : Answer} (frame : Frame [p, .svp, .handed] s a.1) (own : p ∈ l → inv a.1) :
      inv a.1 := by
    by_cases hp : p ∈ l
    · exact own hp
    · refine reads frame (fun q hq hm => ?_) h
      rcases List.mem_cons.1 hm with rfl | hm
      · exact hp hq
      · exact apart q hq (List.mem_cons_of_mem _ hm)
  have onWell {f : WellNo → State → Answer} (hf : ∀ c, inv (f c s).1) (n : Nat) : inv (onWell n f s).1 := by
    unfold Sys2Proof.Machine.onWell
    split
    · exact h
    · exact hf _
  refine reads (takeCommand_frame s k st) apart ?_
  refine issueStep_cases (P := fun a => inv a.1) s k st (onWell ?start) (onWell ?stop)
    ?weight ?mode ?tstart ?tload ?tstop ?on ?off ?offset h
  case start => exact fun c => other (.wellStart (.refl _ _) (by decide)) fun hp => (wells hp c).1
  case stop => exact fun c => other (.wellStop (.refl _ _) (by decide)) fun hp => (wells hp c).2.1
  case weight =>
    exact fun n v => onWell (f := fun c => State.wellWeight (.slot k) c v)
      (fun c => other (.wellWeight (.refl _ _) (by decide)) fun hp => (wells hp c).2.2 v) n
  case mode => exact fun m => other (.balMode (.refl _ _) (by decide)) fun hp => balance hp m
  case tstart => exact other (.turbStart (.refl _ _) (by decide)) fun hp => (turbine hp).1
  case tload => exact fun v => other (.turbLoad (.refl _ _) (by decide)) fun hp => (turbine hp).2.1 v
  case tstop => exact other (.turbStop (.refl _ _) (by decide)) fun hp => (turbine hp).2.2
  case on => exact other (.hxOn (.refl _ _) (by decide)) fun hp => (exchanger hp).1
  case off => exact other (.hxOff (.refl _ _) (by decide)) fun hp => (exchanger hp).2.1
  case offset =>
    exact fun v => other (.hxOffset (.refl (.hxc :: [.svp, .handed]) _) (by decide)) fun hp => (exchanger hp).2.2 v

/-! ### The turbine (R100, R114) -/

/-- `State.turbineSafe` as a property of the turbine's record. -/
def SafeRecord (r : Tbc) : Prop :=
  (r.tripOut = true ↔ r.state = .tripped)
    ∧ (r.state = .tripped → r.load = 0 ∧ r.speed = 0 ∧ r.admission = 0 ∧ r.breakerOpen = true)

theorem turbineSafe_reads : Reads [.tbc] State.turbineSafe := fun {m s t} frame apart h => by
  have same : t.tbc = s.tbc := frame.tbc (apart _ (by simp))
  simpa [State.turbineSafe, same] using h

section Turbine

variable {s : State}

theorem safeRecord_of_running {r : Tbc} (h : r.state ≠ .tripped) (ho : r.tripOut = false) : SafeRecord r :=
  ⟨by simp [h, ho], fun ht => absurd ht h⟩

/-- Outside TRIPPED, TRIP_OUT is released. -/
theorem tripOut_of_running (h : s.turbineSafe) (hn : s.tbc.state ≠ .tripped) : s.tbc.tripOut = false :=
  Bool.eq_false_iff.2 fun ho => hn (h.1.1 ho)

/-- A record that keeps the state, TRIP_OUT and the orders stays safe. -/
theorem safeRecord_of_eq {r x : Tbc} (h : SafeRecord r) (hst : x.state = r.state) (ho : x.tripOut = r.tripOut)
    (hl : x.load = r.load) (hs : x.speed = r.speed) (ha : x.admission = r.admission)
    (hb : x.breakerOpen = r.breakerOpen) : SafeRecord x := by
  unfold SafeRecord
  rw [hst, ho, hl, hs, ha, hb]
  exact h

theorem commit_safe {force mid late cause r} (h : SafeRecord r) :
    (s.commit force mid late cause r).turbineSafe :=
  safeRecord_of_eq h rfl rfl rfl rfl rfl rfl

theorem enter_tripOut (st : TurbState) (r : Tbc) : (s.enter st r).tripOut = r.tripOut := by
  unfold State.enter; dsimp only; split <;> rfl

theorem enter_state (st : TurbState) (r : Tbc) : (s.enter st r).state = st := by
  unfold State.enter; dsimp only; split <;> rfl

/-- A state other than TRIPPED entered from another such: TRIP_OUT stays released. -/
theorem safeRecord_of_enter (h : s.turbineSafe) (hn : s.tbc.state ≠ .tripped) {st : TurbState} {r : Tbc}
    (hst : st ≠ .tripped) (hr : r.state = (s.enter st s.tbc).state)
    (ho : r.tripOut = (s.enter st s.tbc).tripOut) : SafeRecord r :=
  safeRecord_of_running (by rw [hr, enter_state]; exact hst)
    (by rw [ho, enter_tripOut]; exact tripOut_of_running h hn)

theorem tripTurbine_safe (k : TurbCause) : (s.tripTurbine k).turbineSafe :=
  commit_safe ⟨by simp [State.trippedRecord, enter_state], fun _ => ⟨rfl, rfl, rfl, rfl⟩⟩

theorem enterSync_safe (h : s.turbineSafe) (hn : s.tbc.state ≠ .tripped) : s.enterSync.turbineSafe :=
  commit_safe (safeRecord_of_enter h hn (st := .syncWait) (by decide) rfl rfl)

theorem offline_safe (h : s.turbineSafe) (hn : s.tbc.state ≠ .tripped) {force mid late cause} :
    (s.commit force mid late cause s.offlineRecord).turbineSafe :=
  commit_safe (safeRecord_of_enter h hn (st := .offline) (by decide) rfl rfl)

/-- A committed record that keeps state and TRIP_OUT outside TRIPPED. -/
theorem commit_safe_running (h : s.turbineSafe) (hn : s.tbc.state ≠ .tripped) {force mid late cause} {r : Tbc}
    (hst : r.state = s.tbc.state) (ho : r.tripOut = s.tbc.tripOut) :
    (s.commit force mid late cause r).turbineSafe :=
  commit_safe (safeRecord_of_running (hst ▸ hn) (ho ▸ tripOut_of_running h hn))

theorem endHold_safe (h : s.turbineSafe) : s.endHold.turbineSafe :=
  commit_safe (safeRecord_of_eq h rfl rfl rfl rfl rfl rfl)

theorem breakerActs_safe (h : s.turbineSafe) (b : Bool) : (s.breakerActs b).turbineSafe := by
  unfold State.breakerActs
  split
  next hst => exact commit_safe (safeRecord_of_enter h (by simp [hst]) (st := .loaded) (by decide) rfl rfl)
  next hst => exact enterSync_safe h (by simp [hst])
  next hst => exact offline_safe h (by simp [hst])
  next => exact h

theorem adoptTurbine_safe (h : s.turbineSafe) (hst : s.tbc.state = .offline) (e : TurbStatus) :
    (s.adoptTurbine e).turbineSafe := by
  have loaded : (s.commit true [] [] none (s.adoptedRecord e)).turbineSafe :=
    commit_safe (safeRecord_of_enter h (by simp [hst]) (st := .loaded) (by decide) rfl rfl)
  unfold State.adoptTurbine State.adoptLoaded
  split
  · dsimp only
    split
    · exact tripTurbine_safe _
    · exact loaded
  · split
    · exact tripTurbine_safe _
    · exact h

theorem turbStatus_safe (h : s.turbineSafe) (e : TurbStatus) : (s.turbStatus e).turbineSafe := by
  unfold State.turbStatus
  extract_lets _ t
  have noted : t.turbineSafe := h
  split
  next adopts => exact adoptTurbine_safe noted adopts.2 e
  next => exact breakerActs_safe noted e.breaker

/-! #### TBC's update -/

theorem inletUpdate_safe (h : s.turbineSafe) (u : Update) : (inletUpdate u s).turbineSafe := by
  unfold inletUpdate; split
  · split <;> exact h
  · exact h

theorem tripUpdate_safe (h : s.turbineSafe) (u : Update) : (tripUpdate u s).turbineSafe := by
  unfold tripUpdate; dsimp only; split
  · exact tripTurbine_safe _
  · split
    · exact tripTurbine_safe _
    · exact inletUpdate_safe h u

theorem bandUpdate_safe (h : s.turbineSafe) (u : Update) : (bandUpdate u s).turbineSafe := by
  unfold bandUpdate; split
  · exact h
  · split <;> exact h

/-- The admission demand follows ADM_POS in RUNUP and SYNC_WAIT, and not in TRIPPED. -/
theorem followUpdate_safe (h : s.turbineSafe) (u : Update) : (followUpdate u s).turbineSafe := by
  unfold followUpdate; split
  · split
    next hst =>
      have hn : s.tbc.state ≠ .tripped := by rcases hst with hst | hst <;> simp [hst]
      exact safeRecord_of_running hn (tripOut_of_running (s := s) h hn)
    next => exact h
  · exact h

theorem mismatchUpdate_safe (h : s.turbineSafe) (u : Update) : (mismatchUpdate u s).turbineSafe := by
  unfold mismatchUpdate; split
  · split <;> exact h
  · split <;> exact h

theorem carries_running {st : TurbState} (h : carries st = true) : st ≠ .tripped := by
  rintro rfl; exact absurd h (by decide)

theorem underCeiling_running (r : Tbc) : (s.underCeiling r).state = r.state
    ∧ (s.underCeiling r).tripOut = r.tripOut := by
  unfold State.underCeiling State.withLoad
  repeat' split
  all_goals exact ⟨rfl, rfl⟩

/-- A ceiling found anew moves load and admission only where load is carried. -/
theorem recompute_safe {flow : Option Int} {r : Tbc} (h : SafeRecord r) : SafeRecord (s.recompute flow r) := by
  by_cases hc : carries r.state = true
  · obtain ⟨hst, ho⟩ := underCeiling_running (s := s) { r with
      steamAvail := s.steamAvailable
      ceiling := s.ceilingOf flow { r with steamAvail := s.steamAvailable } }
    exact safeRecord_of_running (hst ▸ carries_running hc)
      (ho ▸ Bool.eq_false_iff.2 fun htrip => carries_running hc (h.1.1 htrip))
  · have same : s.recompute flow r = { r with
        steamAvail := s.steamAvailable
        ceiling := s.ceilingOf flow { r with steamAvail := s.steamAvailable } } := by
      simp [State.recompute, State.underCeiling, hc]
    rw [same]
    exact safeRecord_of_eq h rfl rfl rfl rfl rfl rfl

theorem testShortfall_safe (h : s.turbineSafe) (v : Int) : (s.testShortfall v).turbineSafe := by
  have kept : ∀ run flag, SafeRecord { s.tbc with shortRun := run, shortfall := flag } :=
    fun _ _ => safeRecord_of_eq h rfl rfl rfl rfl rfl rfl
  unfold State.testShortfall
  split
  · dsimp only
    split
    · exact commit_safe (recompute_safe (kept _ s.tbc.shortfall))
    · split
      · exact commit_safe (recompute_safe (kept _ _))
      · exact kept _ s.tbc.shortfall
  · dsimp only
    split
    · exact commit_safe (recompute_safe (kept _ _))
    · exact kept _ s.tbc.shortfall

theorem shortfallUpdate_safe (h : s.turbineSafe) (u : Update) : (shortfallUpdate u s).turbineSafe := by
  unfold shortfallUpdate; split
  · split
    · exact testShortfall_safe h _
    · exact h
  · exact h

theorem breakerTest_safe (h : s.turbineSafe) (g : Option Int) : (s.breakerTest g).turbineSafe := by
  unfold State.breakerTest; split
  next hst => exact commit_safe_running h (by simp [hst.1]) rfl rfl
  next => exact h

theorem genLoadUpdate_safe (h : s.turbineSafe) (u : Update) : (genLoadUpdate u s).turbineSafe := by
  unfold genLoadUpdate; split
  · exact breakerTest_safe h _
  · exact h

theorem tbcUpdate_safe (h : s.turbineSafe) (u : Update) : (s.tbcUpdate u).turbineSafe :=
  genLoadUpdate_safe (shortfallUpdate_safe (mismatchUpdate_safe (followUpdate_safe (bandUpdate_safe
    (tripUpdate_safe h u) u) u) u) u) u

theorem recomputeCeiling_safe (h : s.turbineSafe) : s.recomputeCeiling.turbineSafe :=
  commit_safe (recompute_safe h)

/-! #### The second timer -/

theorem stageStep_safe (h : s.turbineSafe) (k : TurbCause) : (s.stageStep k).turbineSafe := by
  unfold State.stageStep; split
  · exact h
  · dsimp only
    split
    · exact tripTurbine_safe _
    · exact h

theorem speedStep_safe (h : s.turbineSafe) (hn : s.tbc.state ≠ .tripped) : s.speedStep.turbineSafe :=
  commit_safe_running h hn rfl rfl

theorem settleStep_safe (h : s.turbineSafe) (hn : s.tbc.state ≠ .tripped) : s.settleStep.turbineSafe := by
  have clocked : ∀ n, ({ s with tbc := { s.tbc with settle := n } } : State).turbineSafe := fun _ => h
  unfold State.settleStep
  extract_lets n t
  split
  · exact enterSync_safe (clocked n) hn
  · exact clocked n

theorem runupSecond_safe (h : s.turbineSafe) (hn : s.tbc.state ≠ .tripped) : s.runupSecond.turbineSafe := by
  have settled := settleStep_safe (speedStep_safe h hn) hn
  unfold State.runupSecond; dsimp only; split
  · exact stageStep_safe settled _
  · exact settled

theorem mismatchStep_safe (h : s.turbineSafe) : s.mismatchStep.1.turbineSafe := by
  unfold State.mismatchStep; split
  · exact h
  · dsimp only
    split
    · exact tripTurbine_safe _
    · exact h

/-- A mismatch clock that has not run out leaves the state. -/
theorem mismatchStep_state (h : s.mismatchStep.2 = false) : s.mismatchStep.1.tbc.state = s.tbc.state := by
  unfold State.mismatchStep at *
  split at h
  · rfl
  · dsimp only at *
    split at h
    · exact Bool.noConfusion h
    · next hr => simp [hr]

theorem withLoad_running (load : Int) (r : Tbc) : (s.withLoad load r).state = r.state
    ∧ (s.withLoad load r).tripOut = r.tripOut := by
  unfold State.withLoad; split <;> exact ⟨rfl, rfl⟩

theorem load_safe (h : s.turbineSafe) (hn : s.tbc.state ≠ .tripped) {force mid late cause} (load : Int) :
    (s.commit force mid late cause (s.withLoad load s.tbc)).turbineSafe :=
  commit_safe_running h hn (withLoad_running load s.tbc).1 (withLoad_running load s.tbc).2

theorem unloadStep_safe (h : s.turbineSafe) (hn : s.tbc.state ≠ .tripped) : s.unloadStep.turbineSafe :=
  breakerTest_safe (load_safe h hn _) _

theorem holdStep_safe (h : s.turbineSafe) : s.holdStep.turbineSafe := by
  unfold State.holdStep; split
  · exact endHold_safe h
  · exact h

theorem loadSecond_safe (h : s.turbineSafe) (hn : s.tbc.state ≠ .tripped) : s.loadSecond.turbineSafe := by
  have clock := mismatchStep_safe h
  unfold State.loadSecond; dsimp only; split
  · exact clock
  next ongoing =>
    have running : s.mismatchStep.1.tbc.state ≠ .tripped := by
      rw [mismatchStep_state (Bool.eq_false_iff.2 ongoing)]; exact hn
    split
    · exact unloadStep_safe clock running
    · split
      · exact holdStep_safe clock
      · exact load_safe clock running _

theorem warmSecond_safe (h : s.turbineSafe) : s.warmSecond.turbineSafe := by
  have clock := mismatchStep_safe h
  unfold State.warmSecond; dsimp only; split <;> exact clock

theorem execTbcSecondTimer_safe (h : s.turbineSafe) {t : State} (ht : execTbcSecondTimer s = .next t) :
    t.turbineSafe := by
  obtain rfl := next_inj ht
  split
  next hst => exact runupSecond_safe h (by simp [hst])
  next => exact stageStep_safe h _
  next hst => exact loadSecond_safe h (by simp [hst])
  next hst => exact loadSecond_safe h (by simp [hst])
  next => exact warmSecond_safe h
  next => exact h
  next => exact h

/-! #### Commands and settings -/

theorem unclaimed_keeps {inv : State → Prop} {caller : Caller} {x : Target} {owner : State → Answer}
    (h : inv s) (ho : inv (owner s).1) : inv (s.unclaimed caller x owner).1 := by
  unfold State.unclaimed; split
  · exact h
  · exact ho

theorem turbStart_safe (h : s.turbineSafe) (caller : Caller) : (s.turbStart caller).1.turbineSafe := by
  refine unclaimed_keeps h ?_
  split
  · exact h
  · split
    next hst =>
      exact commit_safe (safeRecord_of_enter h (by simp [hst.1]) (st := .warming) (by decide) rfl rfl)
    next => exact h

theorem turbStop_safe (h : s.turbineSafe) (caller : Caller) : (s.turbStop caller).1.turbineSafe := by
  have stopped : ∀ {u : State}, u.turbineSafe → (u.turbStopped caller).1.turbineSafe := fun hu => hu
  unfold State.turbStop
  split
  next hst => exact stopped (offline_safe h (by simp [hst]))
  next hst => exact stopped (offline_safe h (by simp [hst]))
  next hst => exact stopped (offline_safe h (by simp [hst]))
  next hst =>
    exact stopped (commit_safe (safeRecord_of_enter h (by simp [hst]) (st := .unloading) (by decide) rfl rfl))
  next => exact h
  next => exact h
  next => exact h

theorem turbLoad_safe (h : s.turbineSafe) (caller : Caller) (v : Int) :
    (s.turbLoad caller v).1.turbineSafe :=
  unclaimed_keeps h (commit_safe (safeRecord_of_eq h rfl rfl rfl rfl rfl rfl))

theorem operateTurbTrip_safe (h : s.turbineSafe) : s.operateTurbTrip.1.turbineSafe := by
  unfold State.operateTurbTrip; split
  · exact tripTurbine_safe _
  · exact h

/-- TURBINE_RESET releases TRIP_OUT with the state. -/
theorem operateTurbReset_safe (h : s.turbineSafe) : s.operateTurbReset.1.turbineSafe := by
  unfold State.operateTurbReset
  split
  · exact h
  · split
    · exact commit_safe (safeRecord_of_running (by simp [State.resetRecord, enter_state]) rfl)
    · exact h

theorem turbSettingTaken_safe (h : s.turbineSafe) (i : TurbItem) : (s.turbSettingTaken i).turbineSafe := by
  have kept : ∀ d, SafeRecord { s.tbc with loadDemand := d } :=
    fun _ => safeRecord_of_eq h rfl rfl rfl rfl rfl rfl
  unfold State.turbSettingTaken
  split
  · exact commit_safe (kept _)
  · exact recomputeCeiling_safe h
  · exact commit_safe h
  all_goals exact h

theorem itemTaken_turbineSafe (h : s.turbineSafe) (i : Item) : (s.itemTaken i).turbineSafe := by
  cases i with
  | turbine i => exact turbSettingTaken_safe h i
  | balance i =>
    cases i with
    | steamFraction =>
      exact turbineSafe_reads (.requirementTaken (l := [.bbu, .handed]) (.refl _ _) (by decide)) (by decide)
        (recomputeCeiling_safe h)
    | heatBaseFlow =>
      exact turbineSafe_reads (.requirementTaken (l := [.bbu, .handed]) (.refl _ _) (by decide)) (by decide) h
    | tankXoff | tankXon | holdStep | holdInterval => exact h
  | well c i => exact turbineSafe_reads (.itemTaken (.refl _ _) (List.Subset.refl _)) (by simp [touchesTaken]) h
  | exchanger i => exact turbineSafe_reads (.itemTaken (.refl _ _) (List.Subset.refl _)) (by simp [touchesTaken]) h
  | scaling i | field i | entry e i => exact h
  | qty q i => exact turbineSafe_reads (.itemTaken (.refl _ _) (List.Subset.refl _)) (by simp [touchesTaken]) h

theorem takeCommand_turbineSafe (h : s.turbineSafe) (k : SlotNo) (st : Step) :
    (s.takeCommand k st).turbineSafe :=
  takeCommand_keeps turbineSafe_reads (by decide) h k st nofun nofun
    (fun _ => ⟨turbStart_safe h _, turbLoad_safe h _, turbStop_safe h _⟩) nofun

end Turbine

/-- SET_PARAM keeps an invariant that reads neither SSL nor FLC nor the port nor the events handed, when the block
that reads the item keeps it (R174). -/
theorem setItem_keeps {l : List Part} {inv : State → Prop} (reads : Reads l inv)
    (apart : ∀ p ∈ l, p ∉ [Part.ssl, .flc, .handed]) (taken : ∀ s i, inv s → inv (s.itemTaken i)) {s : State}
    (h : inv s) (i : Item) (v : Int) : inv (State.setItem i v s).1 := by
  have apart' : ∀ p ∈ l, p ∉ [Part.ssl] := fun p hp hs => apart p hp (by simp_all)
  have retired : ∀ (u : State) old, inv u → inv (u.retireChanged old i) := by
    intro u old hu
    unfold State.retireChanged
    split
    · split
      · exact reads (m := [.ssl, .flc, .handed]) (.retireStation (.refl _ _) (by decide)) apart hu
      · exact hu
    · exact hu
  unfold State.setItem
  repeat' split
  all_goals first | exact h | exact retired _ _ (taken _ i (reads (.withItem (.refl _ _) (by decide)) apart' h))

/-- Every step keeps TRIP_OUT and the tripped turbine's orders: one case for each row that can change TBC. -/
theorem turbineSafe_kept : Kept State.turbineSafe := by
  refine turbineSafe_reads.kept (by decide) fun i s t touched ht h => ?_
  have took : ∀ i, (s.took i).turbineSafe := fun _ => h
  cases i <;> simp [touches, touchesTaken] at touched
  case powerOn straps tripIn store passes =>
    exact turbineSafe_reads (powerOn_frame ht) (by decide) (safeRecord_of_running nofun rfl)
  case restart =>
    exact turbineSafe_reads (restart_frame ht) (by decide) (safeRecord_of_eq h rfl rfl rfl rfl rfl rfl)
  case operateTurbineTrip =>
    obtain rfl := next_inj ht
    exact turbineSafe_reads.operate (by decide) h fun _ hu => operateTurbTrip_safe hu
  case operateTurbineReset =>
    obtain rfl := next_inj ht
    exact turbineSafe_reads.operate (by decide) h fun _ hu => operateTurbReset_safe hu
  case turbCmdStart =>
    obtain rfl := next_inj ht
    exact turbineSafe_reads.serve (by decide) h fun _ hu => turbStart_safe hu _
  case turbCmdStop =>
    obtain rfl := next_inj ht
    exact turbineSafe_reads.serve (by decide) h fun _ hu => turbStop_safe hu _
  case turbCmdLoad v =>
    obtain rfl := next_inj ht
    refine turbineSafe_reads.serve (by decide) h fun _ hu => ?_
    cases v with
    | none => exact hu
    | some v => exact turbLoad_safe hu _ v
  case setParam g i v =>
    obtain rfl := next_inj ht
    refine turbineSafe_reads.serve (by decide) h fun u hu => ?_
    unfold onItem
    split
    · exact setItem_keeps turbineSafe_reads (by decide) (fun _ i hs => itemTaken_turbineSafe hs i) hu _ v
    · exact hu
  case tripInAsserted =>
    obtain rfl := next_inj ht
    exact inv_ite (fun _ => h) fun _ => inv_ite (fun _ => tripTurbine_safe _) fun _ => h
  case tripInCleared =>
    obtain rfl := next_inj ht
    exact h
  case settingChangeTaken what old =>
    obtain rfl := next_inj ht
    cases what with
    | item i => exact itemTaken_turbineSafe (took _) i
    | limit l => exact turbineSafe_reads (m := [.scm, .handed]) (.limitTaken (.refl _ _) (by decide)) (by decide) (took _)
  case tbcStatusEvent e =>
    obtain rfl := next_inj ht
    exact turbStatus_safe (took _) e
  case tbcUpdate u =>
    obtain rfl := next_inj ht
    exact tbcUpdate_safe (took _) u
  case tbcLinkLost =>
    obtain rfl := next_inj ht
    exact inv_ite (fun _ => tripTurbine_safe _) fun _ => took _
  case tbcWellDemand c =>
    obtain rfl := next_inj ht
    exact inv_ite (fun _ => recomputeCeiling_safe (took _)) fun _ => took _
  case tbcWellState c move cause =>
    obtain rfl := next_inj ht
    exact inv_ite (fun _ => recomputeCeiling_safe (took _)) fun _ => took _
  case stageTimerExpiry =>
    obtain rfl := next_inj ht
    exact inv_ite (fun warm => commit_safe (safeRecord_of_enter h (by simp [warm.1]) (st := .runup) (by decide)
      rfl rfl)) fun _ => h
  case tbcSecondTimer => exact execTbcSecondTimer_safe h ht
  case settleComplete =>
    obtain rfl := next_inj ht
    exact inv_ite (fun settled => enterSync_safe h (by simp [settled.1])) fun _ => h
  case runupTimeout =>
    obtain rfl := next_inj ht
    exact inv_ite (fun _ => tripTurbine_safe _) fun _ => h
  case syncTimeout =>
    obtain rfl := next_inj ht
    exact inv_ite (fun _ => tripTurbine_safe _) fun _ => h
  case valveMismatch =>
    obtain rfl := next_inj ht
    exact inv_ite (fun _ => tripTurbine_safe _) fun _ => h
  case adoptHoldEnd =>
    obtain rfl := next_inj ht
    exact inv_ite (fun _ => endHold_safe h) fun _ => h
  case seqCommandStep k =>
    obtain rfl := next_inj ht
    dsimp only
    split
    · exact takeCommand_turbineSafe (took _) k _
    · exact took _

/-! ### The exchanger (R54, R60) -/

theorem bypassSafe_reads : Reads [.hxc] State.bypassSafe := fun {m s t} frame apart h => by
  have same : t.hxc = s.hxc := frame.hxc (apart _ (by simp))
  simpa [State.bypassSafe, same] using h

section Exchanger

variable {s : State}

@[simp] theorem setMode_hxc (s : State) (m : HxMode) : (s.setMode m).hxc = { s.hxc with mode := m } := by
  unfold State.setMode
  split
  next h => rw [← h]
  next => rfl

@[simp] theorem issueBypass_hxc (s : State) (b : Int) : (s.issueBypass b).hxc = { s.hxc with bypass := b } := by
  unfold State.issueBypass; dsimp only; split <;> rfl

/-- HEATING and HEAT_LIMITED ask nothing of the bypass. -/
theorem bypassSafe_of_heats (h : heats s.hxc.mode = true) : s.bypassSafe := by
  rintro (hm | hm) <;> simp [heats, hm] at h

theorem bypassSafe_of_open (h : s.hxc.bypass = 1000) : s.bypassSafe := fun _ => h

/-- An isolation opens the bypass fully before it changes the mode (R63). -/
theorem isolate_bypass (s : State) (k : IsoCause) : (s.isolate k).hxc.bypass = 1000 := by
  simp [State.isolate, State.endBreach]

theorem addCause_bypassSafe (h : s.bypassSafe) (k : IsoCause) : (s.addCause k).bypassSafe := by
  unfold State.addCause
  extract_lets _ t
  exact inv_ite (fun _ => h) fun _ => inv_ite (fun _ => h) fun _ => bypassSafe_of_open (isolate_bypass t k)

theorem outletUpdate_bypassSafe (h : s.bypassSafe) (u : Update) : (outletUpdate u s).bypassSafe :=
  inv_ite (fun _ => addCause_bypassSafe h _) fun _ => inv_ite (fun _ => h) fun _ => h

theorem targetUpdate_bypassSafe (h : s.bypassSafe) (u : Update) : (targetUpdate u s).bypassSafe := by
  unfold targetUpdate; split
  · exact h
  · exact inv_ite (fun _ => h) fun _ => h

/-- The floor check leaves HEATING or HEAT_LIMITED in force (R59, R61). -/
theorem floorCheck_heats (h : heats s.hxc.mode = true) (outlet : Option Int) (d : Int) :
    heats (s.floorCheck outlet d).1 = true := by
  unfold State.floorCheck
  split
  · exact h
  · dsimp only; split
    · rfl
    · split <;> rfl

theorem controlUpdate_bypassSafe (h : s.bypassSafe) (u : Update) : (controlUpdate u s).bypassSafe := by
  unfold controlUpdate; split
  · split
    next heating => exact bypassSafe_of_heats (by simpa [State.controlStep] using floorCheck_heats heating _ _)
    next => exact h
  · exact h

theorem breachUpdate_bypassSafe (h : s.bypassSafe) (u : Update) : (breachUpdate u s).bypassSafe := by
  unfold breachUpdate State.evalBreach State.endBreach
  dsimp only
  repeat' split
  all_goals exact h

theorem qmaxUpdate_bypassSafe (h : s.bypassSafe) (u : Update) : (qmaxUpdate u s).bypassSafe := by
  unfold qmaxUpdate
  repeat' split
  all_goals exact h

theorem heatUpdate_bypassSafe (h : s.bypassSafe) (u : Update) : (heatUpdate u s).bypassSafe := by
  unfold heatUpdate
  repeat' split
  all_goals exact h

theorem hxcUpdate_bypassSafe (h : s.bypassSafe) (u : Update) : (s.hxcUpdate u).bypassSafe :=
  heatUpdate_bypassSafe (qmaxUpdate_bypassSafe (breachUpdate_bypassSafe (controlUpdate_bypassSafe
    (targetUpdate_bypassSafe (outletUpdate_bypassSafe h u) u) u) u) u) u

theorem hxOn_bypassSafe (h : s.bypassSafe) (caller : Caller) : (s.hxOn caller).1.bypassSafe := by
  refine unclaimed_keeps h ?_
  split
  · exact bypassSafe_of_heats (by simp [heats])
  · exact h

theorem hxOff_bypassSafe (s : State) (caller : Caller) : (s.hxOff caller).1.bypassSafe :=
  bypassSafe_of_open (by simp [State.hxOff, State.endBreach])

theorem hxResume_bypassSafe (h : s.bypassSafe) (caller : Caller) : (s.hxResume caller).1.bypassSafe := by
  refine unclaimed_keeps h ?_
  split
  · exact bypassSafe_of_heats (by simp [heats])
  · exact h

theorem hxOffset_bypassSafe (h : s.bypassSafe) (caller : Caller) (v : Int) :
    (s.hxOffset caller v).1.bypassSafe :=
  unclaimed_keeps h h

theorem itemTaken_bypassSafe (h : s.bypassSafe) (i : Item) : (s.itemTaken i).bypassSafe := by
  have apart (hl : Part.hxc ∉ touchesTaken (.item i)) : (s.itemTaken i).bypassSafe :=
    bypassSafe_reads (.itemTaken (.refl _ _) (List.Subset.refl _)) (by simpa using hl) h
  cases i with
  | exchanger i => cases i <;> exact h
  | well c i => exact apart (by simp [touchesTaken])
  | turbine i => exact apart (by simp [touchesTaken])
  | balance i => exact apart (by simp [touchesTaken])
  | qty q i => exact apart (by simp [touchesTaken])
  | scaling i | field i | entry e i => exact h

theorem takeCommand_bypassSafe (h : s.bypassSafe) (k : SlotNo) (st : Step) :
    (s.takeCommand k st).bypassSafe :=
  takeCommand_keeps bypassSafe_reads (by decide) h k st nofun nofun nofun
    fun _ => ⟨hxOn_bypassSafe h _, hxOff_bypassSafe s _, hxOffset_bypassSafe h _⟩

end Exchanger

/-- Every step keeps the bypass fully open outside HEATING and HEAT_LIMITED. -/
theorem bypassSafe_kept : Kept State.bypassSafe := by
  refine bypassSafe_reads.kept (by decide) fun i s t touched ht h => ?_
  have took : ∀ i, (s.took i).bypassSafe := fun _ => h
  cases i <;> simp [touches, touchesTaken] at touched
  case powerOn => exact bypassSafe_reads (powerOn_frame ht) (by decide) (bypassSafe_of_open rfl)
  case restart => exact bypassSafe_reads (restart_frame ht) (by decide) h
  case hxCmdOn =>
    obtain rfl := next_inj ht
    exact bypassSafe_reads.serve (by decide) h fun _ hu => hxOn_bypassSafe hu _
  case hxCmdOff =>
    obtain rfl := next_inj ht
    exact bypassSafe_reads.serve (by decide) h fun u _ => hxOff_bypassSafe u _
  case hxCmdIsolate =>
    obtain rfl := next_inj ht
    exact bypassSafe_reads.serve (by decide) h fun _ hu => addCause_bypassSafe hu _
  case hxCmdResume =>
    obtain rfl := next_inj ht
    exact bypassSafe_reads.serve (by decide) h fun _ hu => hxResume_bypassSafe hu _
  case hxCmdOffset v =>
    obtain rfl := next_inj ht
    exact bypassSafe_reads.serve (by decide) h fun _ hu => hxOffset_bypassSafe hu _ v
  case setParam g i v =>
    obtain rfl := next_inj ht
    refine bypassSafe_reads.serve (by decide) h fun u hu => ?_
    unfold onItem
    split
    · exact setItem_keeps bypassSafe_reads (by decide) (fun _ i hs => itemTaken_bypassSafe hs i) hu _ v
    · exact hu
  case settingChangeTaken what old =>
    obtain rfl := next_inj ht
    cases what with
    | item i => exact itemTaken_bypassSafe (took _) i
    | limit l =>
      exact bypassSafe_reads (m := [.scm, .handed]) (.limitTaken (.refl _ _) (by decide)) (by decide) (took _)
  case hxcUpdate u =>
    obtain rfl := next_inj ht
    exact hxcUpdate_bypassSafe (took _) u
  case hxcSp0Change old new =>
    obtain rfl := next_inj ht
    exact inv_ite (fun _ => addCause_bypassSafe (took _) _) fun _ => inv_ite (fun _ => took _) fun _ => took _
  case hxcSilicaStale raised =>
    obtain rfl := next_inj ht
    exact inv_ite (fun _ => addCause_bypassSafe (took _) _) fun _ => took _
  case hxcSecondTimer =>
    obtain rfl := next_inj ht
    exact inv_ite (fun _ => inv_ite (fun _ => h) fun _ => h) fun _ => h
  case heatLimitedMin =>
    obtain rfl := next_inj ht
    exact inv_ite (fun _ => h) fun _ => h
  case seqCommandStep k =>
    obtain rfl := next_inj ht
    dsimp only
    split
    · exact takeCommand_bypassSafe (took _) k _
    · exact took _

end Sys2Proof.Proofs

/-! PROOFS. The records of the wells, the quantities and the slots stay legal (chapters 2, 5 and 9), which completes
the invariants of the records. -/

namespace Sys2Proof.Proofs

open Sys2Proof.Machine

/-! ### The wells (R76, R80, R82, R84, R85, R89) -/

theorem wellsLegal_reads : Reads [.wcc] State.wellsLegal := fun {m s t} frame apart h => by
  have same : t.wcc = s.wcc := frame.wcc (apart _ (by simp))
  simpa [State.wellsLegal, same] using h

section Wells

variable {s : State}

/-- A record with the same state, demand, timers running, weight and history. -/
theorem legal_of_eq {w x : Well} (h : w.legal) (hst : x.state = w.state) (hd : x.demand = w.demand)
    (hr : x.ramp = w.ramp) (hl : x.startLeft.isSome = w.startLeft.isSome) (hw : x.weight = w.weight)
    (hh : x.history = w.history) : x.legal := by
  unfold Well.legal at *
  rw [hst, hd, hr, hl, hw, hh]
  exact h

/-- A running channel's demand is free. -/
theorem legal_of_demand {w : Well} (h : w.legal)
    (hst : w.state = .starting ∨ w.state = .running ∨ w.state = .stopping) (d : Int) :
    ({ w with demand := d } : Well).legal := by
  obtain ⟨-, timers⟩ := h
  exact ⟨by rcases hst with hst | hst | hst <;> simp [hst], timers⟩

/-- The parts of a legal record that no change of state touches. -/
theorem legal_of_state {w x : Well} (h : w.legal) (hw : x.weight = w.weight) (hh : x.history = w.history)
    (hd : x.state = .off ∨ x.state = .tripped ∨ x.state = .lockedOut → x.demand = 0)
    (hr : x.ramp = true ↔ x.state = .starting ∨ x.state = .running ∨ x.state = .stopping)
    (hl : x.startLeft.isSome = true ↔ x.state = .starting) : x.legal := by
  obtain ⟨-, -, -, weight⟩ := h
  exact ⟨hd, hr, hl, by rw [hw, hh]; exact weight⟩

theorem startLeft_of_state {w : Well} (h : w.legal) (hst : w.state ≠ .starting) : w.startLeft = none :=
  Option.not_isSome_iff_eq_none.1 fun hl => hst (h.2.2.1.1 hl)

theorem setWell_legal (h : s.wellsLegal) (c : WellNo) {w : Well} (hw : w.legal) : (s.setWell c w).wellsLegal := by
  intro x
  by_cases hx : c = x
  · subst hx; simpa [State.setWell] using hw
  · simpa [State.setWell, hx] using h x

theorem hand_legal (h : s.wellsLegal) (l : List Instr) : (s.hand l).wellsLegal := h

theorem wellChanged_legal (h : s.wellsLegal) (c old new cause) : (s.wellChanged c old new cause).wellsLegal :=
  wellsLegal_reads (m := [.svp, .handed]) (.wellChanged (.refl _ _) (by decide)) (by decide) h

theorem issueDemand_legal (h : s.wellsLegal) (c : WellNo) (d : Int)
    (hd : ({ s.wcc.get c with demand := d } : Well).legal) : (s.issueDemand c d).wellsLegal :=
  setWell_legal h c hd

theorem placeWellTrip_legal (h : s.wellsLegal) (c : WellNo) : (s.placeWellTrip c).wellsLegal := h

theorem pushTime_length (l : List U32) (now : U32) : (pushTime l now).length ≤ 7 := by
  simp only [pushTime, List.length_drop, Config.historyCapacity]
  omega

theorem tripState_rests (s : State) (c : WellNo) : s.tripState c = .lockedOut ∨ s.tripState c = .tripped := by
  unfold State.tripState; split
  · exact .inl rfl
  · exact .inr rfl

theorem trippedWell_legal (h : s.wellsLegal) (c : WellNo) (k : WellCause) : (s.trippedWell c k).legal := by
  obtain ⟨-, -, -, weight, weight', -⟩ := h c
  refine ⟨fun _ => rfl, ?_, ?_, weight, weight', pushTime_length _ _⟩ <;>
    rcases tripState_rests s c with hst | hst <;> simp [State.trippedWell, hst]

theorem tripWell_legal (h : s.wellsLegal) (c : WellNo) (k : WellCause) : (s.tripWell c k).wellsLegal := by
  have tripped := trippedWell_legal h c k
  have demanded : ({ ((s.setWell c (s.trippedWell c k)).wcc.get c) with demand := 0 } : Well).legal := by
    rw [State.setWell, Bank.get_set_self]
    exact legal_of_eq tripped rfl rfl rfl rfl rfl rfl
  refine wellChanged_legal (hand_legal (placeWellTrip_legal (issueDemand_legal (hand_legal
    (setWell_legal h c tripped) _) c 0 demanded) c) _) c _ _ _

theorem decideReply_legal (h : s.wellsLegal) (c : WellNo) : (s.decideReply c).wellsLegal := by
  unfold State.decideReply
  refine inv_ite (fun _ => ?_) fun _ => h
  split
  · exact tripWell_legal h c _
  · exact h

/-- A channel adopted as RUNNING was OFF: its start timer stands still. -/
theorem adoptRunning_legal (h : s.wellsLegal) (e : WellStatus) (hst : (s.wcc.get e.channel).state = .off) :
    (s.adoptRunning e).wellsLegal := by
  have none := startLeft_of_state (h e.channel) (by simp [hst])
  have adopted : ∀ d, ({ (s.wcc.get e.channel).noRuns with state := .running, ramp := true, demand := d } :
      Well).legal := fun d =>
    legal_of_state (h e.channel) rfl rfl (by simp) (by simp) (by simp [Well.noRuns, none])
  refine wellChanged_legal (issueDemand_legal (setWell_legal h _ (adopted (s.wcc.get e.channel).demand)) _ _ ?_) _ _ _ _
  simpa [State.setWell] using adopted _

theorem adoptWell_legal (h : s.wellsLegal) (e : WellStatus) : (s.adoptWell e).wellsLegal := by
  unfold State.adoptWell
  extract_lets w t
  have adopted : ({ w with adopting := false } : Well).legal := legal_of_eq (h e.channel) rfl rfl rfl rfl rfl rfl
  have noted : t.wellsLegal := setWell_legal h _ adopted
  refine inv_ite (fun _ => ?_) fun _ => h
  refine inv_ite (fun adopts => adoptRunning_legal noted e ?_) fun _ =>
    inv_ite (fun _ => placeWellTrip_legal noted _) fun _ => noted
  simpa [t, State.setWell] using adopts.1

theorem wellStatus_legal (h : s.wellsLegal) (e : WellStatus) : (s.wellStatus e).wellsLegal := by
  have noted : ({ s.wcc.get e.channel with run := some e.run, fault := some e.fault } : Well).legal :=
    legal_of_eq (h e.channel) rfl rfl rfl rfl rfl rfl
  exact decideReply_legal (adoptWell_legal (setWell_legal h _ noted) e) _

/-! #### An update -/

theorem overcurrentUpdate_legal (h : s.wellsLegal) (u : Update) (c : WellNo) :
    (overcurrentUpdate u s c).wellsLegal := by
  unfold overcurrentUpdate; dsimp only; split
  · exact inv_ite (fun _ => setWell_legal h c (legal_of_eq (h c) rfl rfl rfl rfl rfl rfl)) fun _ => h
  · exact h

theorem dryUpdate_legal (h : s.wellsLegal) (u : Update) (c : WellNo) : (dryUpdate u s c).wellsLegal := by
  unfold dryUpdate
  refine inv_ite (fun _ => ?_) fun _ => h
  split
  · exact setWell_legal h c (legal_of_eq (h c) rfl rfl rfl rfl rfl rfl)
  · exact h

/-- A completed start stops the start timer and leaves the ramp running. -/
theorem startUpdate_legal (h : s.wellsLegal) (u : Update) (c : WellNo) : (startUpdate u s c).wellsLegal := by
  unfold startUpdate; dsimp only; split
  · refine inv_ite (fun started => ?_) fun _ => h
    have ramps : (s.wcc.get c).ramp = true := (h c).2.1.2 (.inl started.1)
    have running : ({ s.wcc.get c with state := .running, startLeft := none, dryRun := 0 } : Well).legal :=
      legal_of_state (h c) rfl rfl (by simp) (by simp [ramps]) (by simp)
    exact wellChanged_legal (setWell_legal h c running) c _ _ _
  · exact h

theorem wccWellUpdate_legal (h : s.wellsLegal) (u : Update) (c : WellNo) : (wccWellUpdate u s c).wellsLegal :=
  startUpdate_legal (dryUpdate_legal (overcurrentUpdate_legal h u c) u c) u c

theorem takeMargin_legal (h : s.wellsLegal) (c : WellNo) (m : Option Int) : (s.takeMargin c m).wellsLegal :=
  setWell_legal h c (legal_of_eq (h c) rfl rfl rfl rfl rfl rfl)

/-! #### Ramps -/

/-- A channel at rest has no ramp target. -/
theorem ramped_rest (c : WellNo) (h : (s.wcc.get c).state = .off ∨ (s.wcc.get c).state = .tripped
    ∨ (s.wcc.get c).state = .lockedOut) : s.ramped c = (s.wcc.get c).demand := by
  rcases h with h | h | h <;> simp [State.ramped, h]

/-- A stop that has come to a demand of 0 ends with its ramp. -/
theorem endStop_legal (h : s.wellsLegal) (c : WellNo) : (s.endStop c).wellsLegal := by
  unfold State.endStop
  refine inv_ite (fun stopped => ?_) fun _ => h
  have none := startLeft_of_state (h c) (by simp [stopped.1])
  have off : ({ (s.wcc.get c).noRuns with state := .off, ramp := false } : Well).legal :=
    legal_of_state (h c) rfl rfl (fun _ => stopped.2) (by simp) (by simp [Well.noRuns, none])
  exact wellChanged_legal (setWell_legal h c off) c _ _ _

theorem rampExpiry_legal (h : s.wellsLegal) (c : WellNo) : (s.rampExpiry c).wellsLegal := by
  refine endStop_legal (inv_ite (fun _ => h) fun moves => issueDemand_legal h c _ (legal_of_demand (h c) ?_ _)) c
  cases hst : (s.wcc.get c).state with
  | starting | running | stopping => simp
  | off | tripped | lockedOut => exact absurd (ramped_rest c (by simp [hst])) moves

theorem second_legal (h : s.wellsLegal) {t : State} (ht : execWccSecondTimer s = .next t) : t.wellsLegal := by
  obtain rfl := next_inj ht
  intro c
  dsimp only
  rw [Bank.get_mapIdx]
  exact legal_of_eq (h c) rfl rfl rfl (Option.isSome_map ..) rfl rfl

/-! #### Commands -/

theorem onWell_keeps {inv : State → Prop} (h : inv s) (k : Nat) {f : WellNo → State → Answer}
    (hf : ∀ c, inv (f c s).1) : inv (onWell k f s).1 := by
  unfold onWell; split
  · exact h
  · exact hf _

theorem operateWell_keeps {inv : State → Prop} (h : inv s) (k : Nat) {f : WellNo → State → State × Status}
    (hf : ∀ c, inv (f c s).1) : inv (operateWell k f s).1 := by
  unfold operateWell; split
  · exact h
  · exact hf _

theorem wellStart_legal (h : s.wellsLegal) (caller : Caller) (c : WellNo) :
    (State.wellStart caller c s).1.wellsLegal := by
  refine unclaimed_keeps h ?_
  split
  · exact h
  · split
    next =>
      have started : (s.startedWell c).legal := legal_of_state (h c) rfl rfl (by simp [State.startedWell])
        (by simp [State.startedWell]) (by simp [State.startedWell])
      exact wellChanged_legal (hand_legal (setWell_legal h c started) _) c _ _ _
    next => exact h

theorem wellStop_legal (h : s.wellsLegal) (caller : Caller) (c : WellNo) :
    (State.wellStop caller c s).1.wellsLegal := by
  unfold State.wellStop; dsimp only; split
  next running =>
    have ramps : (s.wcc.get c).ramp = true := (h c).2.1.2 (running.imp_right .inl)
    have stopping : ({ (s.wcc.get c).noRuns with state := .stopping, startLeft := none } : Well).legal :=
      legal_of_state (h c) rfl rfl (by simp) (by simp [Well.noRuns, ramps]) (by simp)
    exact hand_legal (wellChanged_legal (setWell_legal h c stopping) c _ _ _) _
  next => exact h

/-- A channel that leaves TRIPPED or LOCKED_OUT for OFF rests as it did. -/
theorem rested_legal {w : Well} (h : w.legal) (hst : w.state = .tripped ∨ w.state = .lockedOut) {x : Well}
    (hx : x.state = .off) (hd : x.demand = w.demand) (hr : x.ramp = w.ramp) (hl : x.startLeft = w.startLeft)
    (hw : x.weight = w.weight) (hh : x.history.length ≤ 7) : x.legal := by
  have none := startLeft_of_state h (by rcases hst with hst | hst <;> simp [hst])
  obtain ⟨demand, ramp, -, weight, weight', -⟩ := h
  have still : w.ramp = false := by
    rw [Bool.eq_false_iff, ne_eq, ramp]; rcases hst with hst | hst <;> simp [hst]
  exact ⟨fun _ => hd ▸ demand (.inr hst), by simp [hx, hr, still], by simp [hx, hl, none], hw ▸ weight,
    hw ▸ weight', hh⟩

theorem wellResetTrip_legal (h : s.wellsLegal) (caller : Caller) (c : WellNo) :
    (State.wellResetTrip caller c s).1.wellsLegal := by
  refine unclaimed_keeps h ?_
  dsimp only
  split
  next tripped =>
    split
    · have off : ({ (s.wcc.get c).noRuns with state := .off } : Well).legal :=
        rested_legal (h c) (.inl tripped) rfl rfl rfl rfl rfl (h c).2.2.2.2.2
      exact wellChanged_legal (hand_legal (setWell_legal h c off) _) c _ _ _
    · exact h
  next => exact h

theorem clampTo_mem {lo hi : Int} (h : lo ≤ hi) (v : Int) : lo ≤ clampTo lo hi v ∧ clampTo lo hi v ≤ hi := by
  unfold clampTo; omega

theorem wellWeight_legal (h : s.wellsLegal) (caller : Caller) (c : WellNo) (v : Int) :
    (State.wellWeight caller c v s).1.wellsLegal := by
  obtain ⟨lower, upper⟩ := clampTo_mem (lo := 1) (hi := 100) (by decide) v
  obtain ⟨demand, ramp, start, -, -, history⟩ := h c
  exact unclaimed_keeps h (setWell_legal h c ⟨demand, ramp, start, lower, upper, history⟩)

theorem operateTrip_legal (h : s.wellsLegal) (c : WellNo) : (State.operateTrip c s).1.wellsLegal := by
  unfold State.operateTrip; split
  · exact tripWell_legal h c _
  · exact h

theorem operateUnlock_legal (h : s.wellsLegal) (c : WellNo) : (State.operateUnlock c s).1.wellsLegal := by
  unfold State.operateUnlock
  split
  · exact h
  · split
    next locked =>
      have off : ({ (s.wcc.get c).noRuns with state := .off, history := [], cooldown := 0 } : Well).legal :=
        rested_legal (h c) (.inr locked) rfl rfl rfl rfl rfl (by simp)
      exact wellChanged_legal (hand_legal (setWell_legal h c off) _) c _ _ _
    next => exact h

theorem foldl_keeps {α : Type} {inv : State → Prop} {f : State → α → State}
    (hf : ∀ u x, inv u → inv (f u x)) (l : List α) (h : inv s) : inv (l.foldl f s) := by
  induction l generalizing s with
  | nil => exact h
  | cons x l ih => exact ih (hf s x h)

/-- What a power-on keeps of a channel record is legal (R99). -/
theorem wccAtPowerOn_legal (h : s.wellsLegal) (kept : Bool) (c : WellNo) : ((s.wccAtPowerOn kept).get c).legal := by
  have new : newWell.legal := by simp [Well.legal, newWell]
  unfold State.wccAtPowerOn
  split
  · obtain ⟨-, -, -, -, -, history⟩ := h c
    simp only [Bank.get_ofFn, retainedWell]
    split <;> exact ⟨fun _ => rfl, by simp [newWell], by simp [newWell], by simp [newWell], by simp [newWell], history⟩
  · simpa using new

end Wells

/-- Every step keeps every channel record legal. -/
theorem wellsLegal_kept : Kept State.wellsLegal := by
  refine wellsLegal_reads.kept (by decide) fun i s t touched ht h => ?_
  have took : ∀ i, (s.took i).wellsLegal := fun _ => h
  cases i <;> simp [touches, touchesTaken] at touched
  case powerOn => exact wellsLegal_reads (powerOn_frame ht) (by decide) (wccAtPowerOn_legal h _)
  case operateWellTrip =>
    obtain rfl := next_inj ht
    exact wellsLegal_reads.operate (by decide) h fun _ hu => operateWell_keeps hu _ (operateTrip_legal hu)
  case operateWellUnlock =>
    obtain rfl := next_inj ht
    exact wellsLegal_reads.operate (by decide) h fun _ hu => operateWell_keeps hu _ (operateUnlock_legal hu)
  case wellCmdStart =>
    obtain rfl := next_inj ht
    exact wellsLegal_reads.serve (by decide) h fun _ hu => onWell_keeps hu _ (wellStart_legal hu _)
  case wellCmdStop =>
    obtain rfl := next_inj ht
    exact wellsLegal_reads.serve (by decide) h fun _ hu => onWell_keeps hu _ (wellStop_legal hu _)
  case wellCmdResetTrip =>
    obtain rfl := next_inj ht
    exact wellsLegal_reads.serve (by decide) h fun _ hu => onWell_keeps hu _ (wellResetTrip_legal hu _)
  case wellCmdWeight =>
    obtain rfl := next_inj ht
    exact wellsLegal_reads.serve (by decide) h fun _ hu => onWell_keeps hu _ fun c => wellWeight_legal hu _ c _
  case setParam g i v =>
    rcases i with - | i
    · simp [touchesWritten] at touched
    · cases i <;> simp [touchesWritten, touchesTaken] at touched
  case settingChangeTaken what old =>
    rcases what with i | l
    · cases i <;> simp at touched
    · simp at touched
  case wccStatusEvent e =>
    obtain rfl := next_inj ht
    exact wellStatus_legal (took _) e
  case wccUpdate u =>
    obtain rfl := next_inj ht
    exact foldl_keeps (inv := State.wellsLegal) (fun _ c hu => wccWellUpdate_legal hu u c) _ (took _)
  case wccFlashMargin c m =>
    obtain rfl := next_inj ht
    exact takeMargin_legal (took _) c m
  case wccFlashHold c held =>
    obtain rfl := next_inj ht
    exact setWell_legal (took _) c (legal_of_eq (h c) rfl rfl rfl rfl rfl rfl)
  case wccLinkLost c =>
    obtain rfl := next_inj ht
    exact inv_ite (fun _ => tripWell_legal (took _) c _) fun _ => took _
  case wccTarget c target =>
    obtain rfl := next_inj ht
    exact setWell_legal (took _) c (legal_of_eq (h c) rfl rfl rfl rfl rfl rfl)
  case rampTimerExpiry c =>
    obtain rfl := next_inj ht
    exact inv_ite (fun _ => rampExpiry_legal h c) fun _ => h
  case startTimerExpiry c =>
    obtain rfl := next_inj ht
    exact inv_ite (fun _ => tripWell_legal h c _) fun _ => h
  case wccSecondTimer => exact second_legal h ht
  case seqCommandStep k =>
    obtain rfl := next_inj ht
    dsimp only
    split
    · exact takeCommand_keeps wellsLegal_reads (by decide) (took _) k _
        (fun _ c => ⟨wellStart_legal (took _) _ c, wellStop_legal (took _) _ c, wellWeight_legal (took _) _ c⟩)
        nofun nofun nofun
    · exact took _

/-! ### The quantities (R15, R24, R25) -/

theorem quantitiesLegal_reads : Reads [.qtb] State.quantitiesLegal := fun {m s t} frame apart h => by
  have same : t.qtb = s.qtb := frame.qtb (apart _ (by simp))
  simpa [State.quantitiesLegal, same] using h

section Quantities

variable {s : State} {r : Qty}

theorem newQty_legal : newQty.legal := by simp [Qty.legal, newQty]

theorem sample_legal (h : r.legal) (now : U32) (w x : Int) : (r.sample now w x).legal := by
  obtain ⟨valid, atMost, -, -⟩ := h
  cases hst : r.state with
  | unprimed | stale => simp [Qty.legal, Qty.sample, primedState, primedCount, hst]
  | valid => simp [Qty.legal, Qty.sample, primedState, primedCount, hst]
  | priming =>
    have counting : r.prime ≠ 4 := fun hp => by simpa [hst] using valid.2 hp
    by_cases hp : 3 ≤ r.prime
    · simp [Qty.legal, Qty.sample, primedState, primedCount, hst, hp]
    · simp [Qty.legal, Qty.sample, primedState, primedCount, hst, hp]
      omega

theorem erase_legal (h : r.legal) (limit : Int) : (r.erase limit).legal := by
  obtain ⟨-, -, unprimed, -⟩ := h
  have run : run15 r.run ≤ 15 := Nat.min_le_right _ _
  have kept : (r.erase limit).state = .unprimed → r.state = .unprimed := by
    cases hst : r.state <;> simp [Qty.erase, erasedState, hst]
    all_goals split <;> simp
  refine ⟨?_, ?_, fun hu => ?_, run⟩
  · simp only [Qty.erase]; split <;> simp [*]
  · simp only [Qty.erase]; split <;> simp
  · exact ⟨(unprimed (kept hu)).1, erase_prime_of_ne_valid (by simp [hu])⟩

theorem makeStale_legal (h : r.legal) : r.makeStale.legal := by
  obtain ⟨valid, atMost, unprimed, run⟩ := h
  unfold Qty.makeStale
  split
  · exact ⟨by simp, by simp, by simp, run⟩
  · exact ⟨by simp, by simp, by simp, run⟩
  · exact ⟨valid, atMost, unprimed, run⟩
  · exact ⟨valid, atMost, unprimed, run⟩

/-- A change of the plausible range moves the value of a primed quantity alone (R18). -/
theorem clampRange_legal (h : r.legal) (lo hi : Int) : (r.clampRange lo hi).legal := by
  obtain ⟨valid, atMost, unprimed, run⟩ := h
  have moved : ∀ y, r.state ≠ .unprimed → ({ r with y := y } : Qty).legal := fun y hst =>
    ⟨valid, atMost, fun hu => absurd hu hst, run⟩
  unfold Qty.clampRange
  split
  · exact ⟨valid, atMost, unprimed, run⟩
  next primed =>
    split
    · exact moved _ primed
    · split
      · exact moved _ primed
      · exact ⟨valid, atMost, unprimed, run⟩

theorem setQty_legal (h : s.quantitiesLegal) (q : QtyNo) (hr : r.legal) :
    ({ s with qtb := s.qtb.set q r } : State).quantitiesLegal := by
  intro x
  by_cases hx : q = x
  · subst hx; simpa using hr
  · simpa [hx] using h x

theorem takeReading_legal (h : r.legal) (q : QtyNo) (x : Reading) : (s.takeReading q x r).legal := by
  unfold State.takeReading; split
  · exact sample_legal h _ _ _
  · exact erase_legal h _

theorem foldl_recordQty_legal {α : Type} (q : α → QtyNo) (r : State × Update → α → Qty) (b : State × Update → α → Bool)
    (hr : ∀ (acc : State × Update) x, acc.1.quantitiesLegal → (r acc x).legal) (l : List α) {acc : State × Update}
    (h : acc.1.quantitiesLegal) : (l.foldl (fun acc x => recordQty acc (q x) (r acc x) (b acc x)) acc).1.quantitiesLegal := by
  induction l generalizing acc with
  | nil => exact h
  | cons x l ih => exact ih (setQty_legal h (q x) (hr acc x h))

theorem noteSample_legal (h : s.quantitiesLegal) (d : Delivery) : (s.noteSample d).quantitiesLegal := by
  unfold State.noteSample
  split
  · exact setQty_legal h qSilica (h qSilica)
  · exact h

theorem takeDelivery_legal (h : s.quantitiesLegal) (d : Delivery) : (s.takeDelivery d).1.quantitiesLegal := by
  unfold State.takeDelivery; split
  · exact h
  · exact foldl_recordQty_legal _ _ _ (fun _ x hacc => takeReading_legal (hacc x.1) x.1 x.2) _ (noteSample_legal h d)

theorem staleAll_legal (h : s.quantitiesLegal) (l : List QtyNo) : (s.staleAll l).1.quantitiesLegal :=
  foldl_recordQty_legal _ _ _ (fun _ q hacc => makeStale_legal (hacc q)) l h

theorem qtySettingTaken_legal (h : s.quantitiesLegal) (q : QtyNo) (i : QtyItem) :
    (s.qtySettingTaken q i).quantitiesLegal := by
  cases i with
  | rangeLow | rangeHigh => exact setQty_legal h q (clampRange_legal (h q) _ _)
  | weight => exact h
  | eraseLimit => exact inv_ite (fun _ => staleAll_legal h [q]) fun _ => h

theorem itemTaken_quantitiesLegal (h : s.quantitiesLegal) (i : Item) : (s.itemTaken i).quantitiesLegal := by
  have apart (hl : Part.qtb ∉ touchesTaken (.item i)) : (s.itemTaken i).quantitiesLegal :=
    quantitiesLegal_reads (.itemTaken (.refl _ _) (List.Subset.refl _)) (by simpa using hl) h
  cases i with
  | qty q i => exact qtySettingTaken_legal h q i
  | well | turbine | exchanger | balance | scaling | field | entry => exact apart (by simp [touchesTaken])

end Quantities

/-- Every step keeps every quantity record legal. -/
theorem quantitiesLegal_kept : Kept State.quantitiesLegal := by
  refine quantitiesLegal_reads.kept (by decide) fun i s t touched ht h => ?_
  have took : ∀ i, (s.took i).quantitiesLegal := fun _ => h
  have new : ∀ {u : State}, u.qtb = Bank.fill 115 newQty → u.quantitiesLegal := fun hu q => by
    simpa [hu] using newQty_legal
  cases i <;> simp [touches] at touched
  case powerOn => exact quantitiesLegal_reads (powerOn_frame ht) (by decide) (new rfl)
  case restart => exact quantitiesLegal_reads (restart_frame ht) (by decide) (new rfl)
  case setParam g i v =>
    obtain rfl := next_inj ht
    refine quantitiesLegal_reads.serve (by decide) h fun u hu => ?_
    unfold onItem
    split
    · exact setItem_keeps quantitiesLegal_reads (by decide) (fun _ i hs => itemTaken_quantitiesLegal hs i) hu _ v
    · exact hu
  case settingChangeTaken what old =>
    obtain rfl := next_inj ht
    rcases what with i | l
    · exact itemTaken_quantitiesLegal (took _) i
    · exact quantitiesLegal_reads (m := [.scm, .handed]) (.limitTaken (.refl _ _) (by decide)) (by decide) (took _)
  case qtbDelivery d =>
    obtain rfl := next_inj ht
    exact takeDelivery_legal (took _) d
  case qtbStationLost kind c =>
    obtain rfl := next_inj ht
    exact staleAll_legal (took _) _

/-! ### The claims (R149, R152) -/

theorem claimsLegal_reads : Reads [.sqr] State.claimsLegal := fun {m s t} frame apart h => by
  have same : t.sqr = s.sqr := frame.sqr (apart _ (by simp))
  simpa [State.claimsLegal, same] using h

section Claims

variable {s : State} {k : SlotNo}

/-- A slot record that holds no claim but those the slot held, and none when it is not active. -/
theorem setSlot_claims (h : s.claimsLegal) {r : Slot} (rest : activeSlot r.state = false → r.claims = [])
    (fewer : ∀ x ∈ r.claims, x ∈ (s.sqr.get k).claims ∨ ∀ j, j ≠ k → x ∉ (s.sqr.get j).claims) :
    (s.setSlot k r).claimsLegal := by
  obtain ⟨active, apart⟩ := h
  have own : ∀ {j x}, j ≠ k → x ∈ r.claims → x ∉ (s.sqr.get j).claims := fun {j x} hj hx => by
    rcases fewer x hx with mine | free
    · exact fun hy => apart j k hj x hy mine
    · exact free j hj
  refine ⟨fun j => ?_, fun i j hij x => ?_⟩
  · rw [State.setSlot, Bank.get_set]
    split
    · exact rest
    · exact active j
  · simp only [State.setSlot, Bank.get_set]
    split
    next hi =>
      rw [if_neg (hi ▸ hij)]
      exact own (Ne.symm (hi ▸ hij))
    next hi =>
      split
      next hj => exact fun hx hy => own (Ne.symm hi) hy hx
      next hj => exact apart i j hij x

theorem moveSlot_claims (h : s.claimsLegal) {r : Slot} (rest : activeSlot r.state = false → r.claims = [])
    (fewer : ∀ x ∈ r.claims, x ∈ (s.sqr.get k).claims ∨ ∀ j, j ≠ k → x ∉ (s.sqr.get j).claims) :
    (s.moveSlot k r).claimsLegal :=
  claimsLegal_reads (m := [.svp]) (.notify (.refl _ _) (by decide)) (by decide) (setSlot_claims h rest fewer)

/-- A slot that becomes active keeps its claims. -/
theorem moveSlot_active (h : s.claimsLegal) {r : Slot} (active : activeSlot r.state = true)
    (same : r.claims = (s.sqr.get k).claims) : (s.moveSlot k r).claimsLegal :=
  moveSlot_claims h (fun hr => by simp [active] at hr) fun _ hx => .inl (same ▸ hx)

/-- A slot that ends its run releases its claims. -/
theorem moveSlot_released (h : s.claimsLegal) {r : Slot} (none : r.claims = []) : (s.moveSlot k r).claimsLegal :=
  moveSlot_claims h (fun _ => none) (by simp [none])

theorem setSlot_same (h : s.claimsLegal) {r : Slot} (st : r.state = (s.sqr.get k).state)
    (same : r.claims = (s.sqr.get k).claims) : (s.setSlot k r).claimsLegal :=
  setSlot_claims h (fun hr => same ▸ h.1 k (st ▸ hr)) fun _ hx => .inl (same ▸ hx)

theorem nextStep_claims (h : s.claimsLegal) (k : SlotNo) : (s.nextStep k).claimsLegal :=
  claimsLegal_reads (m := [.handed]) (.nextStep (.refl _ _) (by decide)) (by decide) h

theorem runAt_claims (h : s.claimsLegal) (k : SlotNo) (n : Nat) : (s.runAt k n).claimsLegal := by
  unfold State.runAt
  refine nextStep_claims (moveSlot_active h ?_ ?_) k <;> rfl

theorem finishSlot_claims (h : s.claimsLegal) (k : SlotNo) : (s.finishSlot k).claimsLegal :=
  moveSlot_released h rfl

theorem advance_claims (h : s.claimsLegal) (k : SlotNo) : (s.advance k).claimsLegal :=
  inv_ite (fun _ => runAt_claims h k _) fun _ => finishSlot_claims h k

theorem failStep_claims (h : s.claimsLegal) (k : SlotNo) (why : FailReason) : (s.failStep k why).claimsLegal := by
  have recorded : (s.recordFailure k why).claimsLegal := setSlot_same h rfl rfl
  have told : ((s.recordFailure k why).handledNotice k).claimsLegal :=
    claimsLegal_reads (m := [.svp]) (.notify (.refl _ _) (by decide)) (by decide) recorded
  unfold State.failStep
  split
  · exact moveSlot_released recorded rfl
  · exact advance_claims told k
  · exact runAt_claims told k _

theorem beginWait_claims (h : s.claimsLegal) (k : SlotNo) (st : Step) : (s.beginWait k st).claimsLegal :=
  inv_ite (fun _ => advance_claims h k) fun _ => moveSlot_active h rfl rfl

theorem takeCommand_claims (h : s.claimsLegal) (k : SlotNo) (st : Step) : (s.takeCommand k st).claimsLegal := by
  have issued : (s.issueStep k st).1.claimsLegal :=
    claimsLegal_reads (m := [.svp, .handed, .hxc, .wcc, .tbc, .bbu]) (.issueStep (.refl _ _) (by decide))
      (by decide) h
  exact inv_ite (fun _ => advance_claims issued k) fun _ => failStep_claims issued k _

theorem slotQtyUpdate_claims (h : s.claimsLegal) (u : Update) (k : SlotNo) : (slotQtyUpdate u s k).claimsLegal := by
  unfold slotQtyUpdate
  split
  · split
    · exact inv_ite (fun _ => advance_claims h k) fun _ => h
    · exact h
  · exact h

theorem slotStateChange_claims (h : s.claimsLegal) (x : Target) (new : TargetState) (k : SlotNo) :
    (slotStateChange x new s k).claimsLegal := by
  unfold slotStateChange
  split
  · exact inv_ite (fun _ => advance_claims h k) fun _ => h
  · exact h

theorem slotTripStop_claims (h : s.claimsLegal) (x : Target) (what : TripStop) (origin : TripOrigin) (k : SlotNo) :
    (slotTripStop x what origin s k).claimsLegal := by
  refine inv_ite (fun _ => h) fun _ => ?_
  split
  · exact failStep_claims h k _
  · exact failStep_claims h k _
  · exact inv_ite (fun _ => h) fun _ => setSlot_same h rfl rfl
  all_goals exact h

theorem timerOut_claims (h : s.claimsLegal) (k : SlotNo) : (s.timerOut k).claimsLegal := by
  unfold State.timerOut
  split
  · exact inv_ite (fun _ => advance_claims h k) fun _ => failStep_claims h k _
  · exact h

theorem slotSecond_claims (h : s.claimsLegal) (k : SlotNo) : (slotSecond s k).claimsLegal := by
  unfold slotSecond; dsimp only
  split
  · have counted : ∀ x, (s.setSlot k { s.sqr.get k with timer := x }).claimsLegal := fun _ => setSlot_same h rfl rfl
    exact inv_ite (fun _ => timerOut_claims (counted _) k) fun _ => counted _
  · exact h
  · exact h

/-! #### Requests -/

theorem onSlot_keeps {inv : State → Prop} (h : inv s) (n : Nat) {f : SlotNo → State → Answer}
    (hf : ∀ k, inv (f k s).1) : inv (onSlot n f s).1 := by
  unfold onSlot; split
  · exact h
  · exact hf _

/-- A loaded slot was not active, and so holds no claim. -/
theorem seqLoad_claims (h : s.claimsLegal) (steps : List Step) (k : SlotNo) :
    (State.seqLoad steps k s).1.claimsLegal := by
  unfold State.seqLoad
  split
  · exact h
  next rest =>
    split
    · exact h
    · split
      · exact h
      · exact moveSlot_released h (h.1 k (Bool.eq_false_iff.2 rest))

/-- A slot runs with claims that no other slot holds: claims meet no active slot's, and the others hold none. -/
theorem seqRun_claims (h : s.claimsLegal) (k : SlotNo) : (State.seqRun k s).1.claimsLegal := by
  unfold State.seqRun; dsimp only
  split
  · exact h
  · split
    · exact h
    next apart =>
      refine nextStep_claims (moveSlot_claims h (fun hr => by simp [activeSlot] at hr) fun x hx => .inr ?_) k
      intro j hj hmem
      have active : activeSlot (s.sqr.get j).state = true := by
        by_contra rest
        simp [h.1 j (Bool.eq_false_iff.2 rest)] at hmem
      refine apart (List.any_eq_true.2 ⟨j, List.mem_finRange j, ?_⟩)
      simp only [hj, active, Bool.and_eq_true, decide_true, ne_eq, not_false_eq_true, true_and]
      exact List.any_eq_true.2 ⟨x, hx, by simpa using hmem⟩

theorem seqSuspend_claims (h : s.claimsLegal) (k : SlotNo) : (State.seqSuspend k s).1.claimsLegal := by
  unfold State.seqSuspend; dsimp only
  split
  · exact moveSlot_active h rfl rfl
  · exact moveSlot_active h rfl rfl
  all_goals exact h

theorem resumeSlot_claims (h : s.claimsLegal) (k : SlotNo) : (s.resumeSlot k).claimsLegal := by
  have waits : (s.moveSlot k { s.sqr.get k with
      state := .waiting, timer := (s.sqr.get k).timer.thaw, suspendedFrom := none }).claimsLegal :=
    moveSlot_active h rfl rfl
  unfold State.resumeSlot; dsimp only
  split
  next x what _ =>
    have cleared : (s.setSlot k { s.sqr.get k with pendingFailure := none }).claimsLegal := setSlot_same h rfl rfl
    exact failStep_claims cleared k _
  · split
    · exact runAt_claims h k _
    · exact inv_ite (fun _ => advance_claims h k) fun _ => waits
    · exact advance_claims h k
    · exact runAt_claims h k _

theorem seqResume_claims (h : s.claimsLegal) (k : SlotNo) : (State.seqResume k s).1.claimsLegal := by
  unfold State.seqResume; split
  · exact resumeSlot_claims h k
  · exact h

theorem seqAbort_claims (h : s.claimsLegal) (k : SlotNo) : (State.seqAbort k s).1.claimsLegal := by
  unfold State.seqAbort; dsimp only; split
  · exact moveSlot_released h rfl
  · exact h

theorem restartSlots_claims (h : s.claimsLegal) : s.restartSlots.claimsLegal := by
  have held : ∀ {k x}, x ∈ (s.restartSlots.sqr.get k).claims → x ∈ (s.sqr.get k).claims := fun {k x} => by
    simp only [State.restartSlots, Bank.get_mapIdx]
    split
    · simp [Slot.aborted]
    · exact id
  refine ⟨fun k => ?_, fun j k hjk x hx hy => h.2 j k hjk x (held hx) (held hy)⟩
  simp only [State.restartSlots, Bank.get_mapIdx]
  split
  · exact fun _ => rfl
  · exact h.1 k

end Claims

/-- Every step keeps claims held by active slots alone, and each target by one slot. -/
theorem claimsLegal_kept : Kept State.claimsLegal := by
  refine claimsLegal_reads.kept (by decide) fun i s t touched ht h => ?_
  have took : ∀ i, (s.took i).claimsLegal := fun _ => claimsLegal_reads.took (by decide) h
  cases i <;> simp [touches, touchesTaken] at touched
  case powerOn straps tripIn store passes =>
    refine claimsLegal_reads (powerOn_frame ht) (by decide) ⟨fun k _ => ?_, fun j k _ x => ?_⟩ <;>
      simp [State.poweredOn, newSlot]
  case restart =>
    exact claimsLegal_reads (restart_slots_frame ht) (by decide)
      (restartSlots_claims (claimsLegal_reads (m := [.handed, .svp, .qtb, .scm, .hxc, .tbc])
        (.restartRecords (.took (.refl _ _) (by decide)) (by decide)) (by decide) h))
  case seqLoad n steps =>
    obtain rfl := next_inj ht
    exact claimsLegal_reads.serve (by decide) h fun _ hu => onSlot_keeps hu n (seqLoad_claims hu steps)
  case seqRun n =>
    obtain rfl := next_inj ht
    exact claimsLegal_reads.serve (by decide) h fun _ hu => onSlot_keeps hu n (seqRun_claims hu)
  case seqSuspend n =>
    obtain rfl := next_inj ht
    exact claimsLegal_reads.serve (by decide) h fun _ hu => onSlot_keeps hu n (seqSuspend_claims hu)
  case seqResume n =>
    obtain rfl := next_inj ht
    exact claimsLegal_reads.serve (by decide) h fun _ hu => onSlot_keeps hu n (seqResume_claims hu)
  case seqAbort n =>
    obtain rfl := next_inj ht
    exact claimsLegal_reads.serve (by decide) h fun _ hu => onSlot_keeps hu n (seqAbort_claims hu)
  case setParam g i v =>
    rcases i with - | i
    · simp [touchesWritten] at touched
    · cases i <;> simp [touchesWritten, touchesTaken] at touched
  case settingChangeTaken what old =>
    rcases what with i | l
    · cases i <;> simp at touched
    · simp at touched
  case seqCommandStep k =>
    obtain rfl := next_inj ht
    dsimp only
    split
    · exact takeCommand_claims (took _) k _
    · exact took _
  case seqWaitStep k =>
    obtain rfl := next_inj ht
    dsimp only
    split
    · exact beginWait_claims (took _) k _
    · exact took _
  case seqPauseStep k =>
    obtain rfl := next_inj ht
    dsimp only
    split
    · exact moveSlot_active (took _) rfl rfl
    · exact took _
  case seqEndStep k =>
    obtain rfl := next_inj ht
    dsimp only
    split
    · exact finishSlot_claims (took _) k
    · exact took _
  case sqrQtyUpdate u =>
    obtain rfl := next_inj ht
    exact foldl_keeps (inv := State.claimsLegal) (fun _ k hu => slotQtyUpdate_claims hu u k) _ (took _)
  case sqrStateChange x move cause =>
    obtain rfl := next_inj ht
    exact foldl_keeps (inv := State.claimsLegal) (fun _ k hu => slotStateChange_claims hu x _ k) _ (took _)
  case sqrTargetTripStop x what origin =>
    obtain rfl := next_inj ht
    exact foldl_keeps (inv := State.claimsLegal) (fun _ k hu => slotTripStop_claims hu x what origin k) _ (took _)
  case sqrSecondTimer =>
    obtain rfl := next_inj ht
    exact foldl_keeps (inv := State.claimsLegal) (fun _ k hu => slotSecond_claims hu k) _ h
  case waitTimeout k =>
    obtain rfl := next_inj ht
    split
    · exact inv_ite (fun _ => failStep_claims h k _) fun _ => h
    · exact h
  case delayExpiry k =>
    obtain rfl := next_inj ht
    split
    · exact inv_ite (fun _ => advance_claims h k) fun _ => h
    · exact h

/-- Settles O58: each invariant is kept by every command that changes the part it reads. -/
theorem recordsStayLegal : Obligations.RecordsStayLegal :=
  ⟨turbineSafe_kept, bypassSafe_kept, wellsLegal_kept, quantitiesLegal_kept, claimsLegal_kept⟩

end Sys2Proof.Proofs

/-! PROOFS. The alarm table and the queues of the field link stay legal (chapters 8 and 10). -/

namespace Sys2Proof.Proofs

open Sys2Proof.Machine

/-! ### The alarm table (R163, R168) -/

/-- A table of at most 64 entries, one to a code and source: `Alt.legal` but for ALARM_OUT. -/
def Alt.sized (a : Alt) : Prop := a.table.length ≤ 64 ∧ (a.table.map Laws.pairOf).Nodup

theorem pairs_nodup_iff (l : List AlarmEntry) :
    (l.map Laws.pairOf).Nodup ↔ l.Pairwise fun x y => ¬(x.code = y.code ∧ x.source = y.source) := by
  simp [List.Nodup, List.pairwise_map, Laws.pairOf]

theorem altLegal_iff (a : Alt) :
    a.legal ↔ Alt.sized a ∧ a.alarmOut = alarmOutOf a.table a.overflow := by
  simp only [Alt.legal, Alt.sized, pairs_nodup_iff, and_assoc]

theorem sized_of_legal {a : Alt} (h : a.legal) : Alt.sized a := ((altLegal_iff a).1 h).1

theorem evaluated_legal {a : Alt} (h : Alt.sized a) : a.evaluate.legal := (altLegal_iff _).2 ⟨h, rfl⟩

/-- An entry replaced in its place keeps the codes and sources of the table. -/
theorem put_pairs (a : Alt) (e : AlarmEntry) : (a.put e).table.map Laws.pairOf = a.table.map Laws.pairOf := by
  simp only [Alt.put, List.map_map]
  refine List.map_congr_left fun x _ => ?_
  by_cases hx : x.isFor e.code e.source
  · obtain ⟨code, source⟩ := (Laws.isFor_iff _ _ _).1 hx
    simp [hx, Laws.pairOf, code, source]
  · simp [hx]

theorem put_sized {a : Alt} (h : Alt.sized a) (e : AlarmEntry) : Alt.sized (a.put e) :=
  ⟨by simpa [Alt.put] using h.1, by rw [put_pairs]; exact h.2⟩

/-- A table of some of the entries. -/
theorem sized_of_sublist {a : Alt} (h : Alt.sized a) {l : List AlarmEntry} (hl : l.Sublist a.table) (o : Bool) :
    Alt.sized { a with table := l, overflow := o } :=
  ⟨hl.length_le.trans h.1, h.2.sublist (hl.map _)⟩

theorem remove_sized {a : Alt} (h : Alt.sized a) (code source) : Alt.sized (a.remove code source) :=
  sized_of_sublist h List.filter_sublist _

theorem entry_none_iff (a : Alt) (code source) :
    a.entry code source = none ↔ (code, source) ∉ a.table.map Laws.pairOf := by
  simp [Alt.entry, AlarmEntry.isFor, Laws.pairOf]

/-- Entries left, and a new one at the tail. -/
theorem joined_sized {a : Alt} (h : Alt.sized a) {e : AlarmEntry} (hn : a.entry e.code e.source = none)
    {l : List AlarmEntry} (hl : l.Sublist a.table) (room : l.length < 64) (o : Bool) :
    Alt.sized { a with table := l ++ [e], overflow := o } := by
  refine ⟨by simpa using room, ?_⟩
  have absent : Laws.pairOf e ∉ l.map Laws.pairOf := fun he =>
    (entry_none_iff _ _ _).1 hn ((hl.map _).subset he)
  simpa [List.nodup_append, h.2.sublist (hl.map _)] using absent

theorem add_sized {a : Alt} (h : Alt.sized a) {e : AlarmEntry} (hn : a.entry e.code e.source = none) :
    Alt.sized (a.add e).1 := by
  unfold Alt.add
  split
  next room => exact joined_sized h hn (List.Sublist.refl _) room _
  next full =>
    split
    next old found =>
      have shorter : (a.table.eraseP fun x => decide (x.state = .clearedUnacked)).length < 64 := by
        have hold := List.mem_of_find?_eq_some found
        have hsize := h.1
        have hpos := List.length_pos_of_mem hold
        rw [List.length_eraseP_of_mem hold (List.find?_some found)]
        omega
      exact joined_sized h hn List.eraseP_sublist shorter _
    next => exact h

theorem changeActive_sized {a : Alt} (h : Alt.sized a) (now ch e) : Alt.sized (a.changeActive now ch e).1 := by
  unfold Alt.changeActive
  split
  · split
    · exact put_sized h _
    · split
      · dsimp only
        split
        · exact h
        · exact put_sized h _
      · exact put_sized h _
  · split
    · exact put_sized h _
    · exact h

theorem change_sized {a : Alt} (h : Alt.sized a) (now code source ch) :
    Alt.sized (a.change now code source ch).1 := by
  unfold Alt.change
  split
  next hn => exact add_sized h hn
  next =>
    split
    · exact put_sized h _
    · exact changeActive_sized h now ch _

theorem clear_sized {a : Alt} (h : Alt.sized a) (now code source) : Alt.sized (a.clear now code source).1 := by
  unfold Alt.clear
  split
  · exact h
  · split
    · exact put_sized h _
    · exact remove_sized h _ _
    · exact h

theorem ack_sized {a : Alt} (h : Alt.sized a) (now e) : Alt.sized (a.ack now e) := by
  unfold Alt.ack
  split
  · exact put_sized h _
  · exact remove_sized h _ _
  · exact h

theorem ackAll_sized {a : Alt} (h : Alt.sized a) (now) : Alt.sized (a.ackAll now) := by
  have kept := sized_of_sublist h (List.filter_sublist (p := fun e => decide (e.state ≠ .clearedUnacked))) a.overflow
  have pairs : (a.ackAll now).table.map Laws.pairOf
      = (a.table.filter fun e => decide (e.state ≠ .clearedUnacked)).map Laws.pairOf := by
    simp only [Alt.ackAll, List.map_map]
    refine List.map_congr_left fun e _ => ?_
    by_cases he : e.state = .activeUnacked <;> simp [he, Laws.pairOf]
  exact ⟨by simpa [Alt.ackAll] using kept.1, by rw [pairs]; exact kept.2⟩

theorem altLegal_reads : Reads [.alt] fun s => s.alt.legal := fun {m s t} frame apart h => by
  have same : t.alt = s.alt := frame.alt (apart _ (by simp))
  simpa [same] using h

section AlarmTable

variable {s : State}

/-- ALT's record after its change, and any number of notices. -/
theorem alarmChange_legal (h : Alt.sized s.alt) (code source ch) : (s.alarmChange code source ch).alt.legal :=
  evaluated_legal (change_sized h _ _ _ _)

theorem alarmClear_legal (h : Alt.sized s.alt) (code source) : (s.alarmClear code source).alt.legal :=
  evaluated_legal (clear_sized h _ _ _)

theorem ackEntry_legal (h : s.alt.legal) (code source) : (s.ackEntry code source).1.alt.legal := by
  unfold State.ackEntry
  split
  · exact h
  · exact evaluated_legal (ack_sized (sized_of_legal h) _ _)

theorem ack_legal (h : s.alt.legal) (code source) : (s.ack code source).1.alt.legal := by
  unfold State.ack
  split
  · split
    · exact ackEntry_legal h _ _
    · exact h
  · exact h

theorem readAndClear_legal (h : s.alt.legal) (o) : (s.readAndClear o).1.alt.legal := by
  unfold State.readAndClear
  split <;> exact h

/-- The table kept over a power-on, or an empty one. -/
theorem altAtPowerOn_sized (h : s.alt.legal) (retain passes) : Alt.sized (s.altAtPowerOn retain passes) := by
  unfold State.altAtPowerOn
  split
  · exact show Alt.sized s.alt from sized_of_legal h
  · exact ⟨by simp, by simp⟩

theorem clearAll_sized (l) : ∀ {s : State}, Alt.sized s.alt → Alt.sized (s.clearAll l).alt := by
  induction l with
  | nil => exact id
  | cons x l ih => exact fun h => ih (sized_of_legal (alarmClear_legal h x.1 x.2))

theorem storeFaultAtPowerOn_legal (h : Alt.sized s.alt) (copy) : (s.storeFaultAtPowerOn copy).alt.legal := by
  unfold State.storeFaultAtPowerOn
  split
  · exact alarmClear_legal h _ _
  · exact alarmChange_legal (s := { s with svp := _ }) h _ _ _

end AlarmTable

/-- Every step keeps the alarm table legal. -/
theorem altLegal_kept : Kept fun s => s.alt.legal := by
  refine altLegal_reads.kept (by decide) fun i s t touched ht h => ?_
  cases i <;> simp [touches] at touched
  case setParam g i v =>
    rcases i with - | i
    · simp [touchesWritten] at touched
    · cases i <;> simp [touchesWritten, touchesTaken] at touched
  case settingChangeTaken what old =>
    rcases what with i | l
    · cases i <;> simp [touchesTaken] at touched
    · simp [touchesTaken] at touched
  case powerOn straps tripIn store kept =>
    obtain rfl := next_inj ht
    exact altLegal_reads (m := [.flc, .handed]) (.startLink (.refl _ _) (by decide)) (by decide)
      (storeFaultAtPowerOn_legal (clearAll_sized _ (altAtPowerOn_sized h _ _)) _)
  case alarmChange code source ch =>
    obtain rfl := next_inj ht
    exact alarmChange_legal (s := s.took _) (sized_of_legal h) _ _ _
  case alarmClear code source =>
    obtain rfl := next_inj ht
    exact alarmClear_legal (s := s.took _) (sized_of_legal h) _ _
  case counterIncrement cs =>
    obtain rfl := next_inj ht
    exact h
  case ack code source =>
    obtain rfl := next_inj ht
    exact altLegal_reads.serve (by decide) h fun u hu => ack_legal hu _ _
  case ackAll =>
    obtain rfl := next_inj ht
    exact altLegal_reads.serve (by decide) h fun u hu => evaluated_legal (ackAll_sized (sized_of_legal hu) _)
  case readAndClear o =>
    obtain rfl := next_inj ht
    exact altLegal_reads.serve (by decide) h fun u hu => readAndClear_legal hu _


/-! ### The queues of the field link (R140, R141) -/

theorem queuesLegal_reads : Reads [.flc] fun s => s.flc.queuesLegal := fun {m s t} frame apart h => by
  have same : t.flc = s.flc := frame.flc (apart _ (by simp))
  simpa [same] using h

theorem placeSet_entries (e : EntryNo) (o : SetOrder) (l : List SetEntry) :
    (placeSet e o l).map SetEntry.entry
      = if e ∈ l.map SetEntry.entry then l.map SetEntry.entry else l.map SetEntry.entry ++ [e] := by
  induction l with
  | nil => rfl
  | cons x l ih =>
    unfold placeSet
    by_cases hx : x.entry = e
    · simp [hx]
    · simp only [hx, if_false, List.map_cons, ih, List.mem_cons, Ne.symm hx, false_or]
      split <;> rfl

theorem placeTrip_entries (e : EntryNo) (l : List TripEntry) :
    (placeTrip e l).map TripEntry.entry
      = if e ∈ l.map TripEntry.entry then l.map TripEntry.entry else l.map TripEntry.entry ++ [e] := by
  induction l with
  | nil => rfl
  | cons x l ih =>
    unfold placeTrip
    by_cases hx : x.entry = e
    · simp [hx]
    · simp only [hx, if_false, List.map_cons, ih, List.mem_cons, Ne.symm hx, false_or]
      split <;> rfl

/-- Entries without repetition, one joined unless it is among them. -/
theorem joined_nodup {l : List EntryNo} (h : l.Nodup) (e : EntryNo) :
    (if e ∈ l then l else l ++ [e]).Nodup := by
  split
  next => exact h
  next hn => simpa [List.nodup_append, h] using fun a ha (he : a = e) => hn (he ▸ ha)

/-- Queues whose entries are among those of legal queues, in their order. -/
theorem queues_of_sublist {f g : Flc} (h : f.queuesLegal)
    (hs : (g.setQ.map SetEntry.entry).Sublist (f.setQ.map SetEntry.entry))
    (ht : (g.tripQ.map TripEntry.entry).Sublist (f.tripQ.map TripEntry.entry)) : g.queuesLegal :=
  ⟨h.1.sublist hs, h.2.sublist ht⟩

/-- A queue with some records changed, but not whom they are for. -/
theorem map_entries {α : Type} (entry : α → EntryNo) (f : α → α) (hf : ∀ x, entry (f x) = entry x) (l : List α) :
    (l.map f).map entry = l.map entry := by
  simp [hf]

theorem sublist_of_eq {l k : List EntryNo} (h : l = k) : l.Sublist k := h ▸ .refl _

section Queues

variable {s : State}

theorem startTrip_queues (h : s.flc.queuesLegal) (e : EntryNo) : (s.startTrip e).flc.queuesLegal :=
  queues_of_sublist h (.refl _)
    (sublist_of_eq (map_entries TripEntry.entry _ (fun x => by split <;> rfl) _))

theorem startSet_queues (h : s.flc.queuesLegal) (x : SetEntry) : (s.startSet x).flc.queuesLegal :=
  queues_of_sublist h (sublist_of_eq (map_entries SetEntry.entry _ (fun x => by split <;> rfl) _)) (.refl _)

theorem choosePoll_queues (h : s.flc.queuesLegal) : s.choosePoll.flc.queuesLegal := by
  unfold State.choosePoll
  split
  · exact h
  · split
    · exact startSet_queues h _
    · exact h

theorem arbitrate_queues (h : s.flc.queuesLegal) : s.arbitrate.flc.queuesLegal := by
  unfold State.arbitrate State.chooseWithin
  split
  · exact h
  · split
    · exact startTrip_queues h _
    · split
      · split
        · split
          · exact startSet_queues h _
          · exact choosePoll_queues h
        · exact choosePoll_queues h
      · exact h

theorem placeSetAt_queues (h : s.flc.queuesLegal) (e o) : (s.placeSetAt e o).flc.queuesLegal :=
  ⟨by simpa only [State.placeSetAt, State.setStation, placeSet_entries] using joined_nodup h.1 e, h.2⟩

theorem retire_queues (h : s.flc.queuesLegal) (e old) : (s.retire e old).flc.queuesLegal :=
  queues_of_sublist h (List.filter_sublist.map _) (List.filter_sublist.map _)

theorem retireAll_queues (l) : ∀ {s : State}, s.flc.queuesLegal → (s.retireAll l).flc.queuesLegal := by
  induction l with
  | nil => exact id
  | cons x l ih => exact fun h => ih (retire_queues h x.1 x.2)

theorem retireStation_queues (h : s.flc.queuesLegal) (e old) : (s.retireStation e old).flc.queuesLegal := by
  unfold State.retireStation
  split
  · exact h
  · exact retire_queues h e old

theorem retireWaiting_queues (h : s.flc.queuesLegal) (e) : (s.retireWaiting e).flc.queuesLegal :=
  retireAll_queues _ (s := { s with flc := _ }) h

theorem settleSet_entries (e : EntryNo) (l : List SetEntry) :
    ((settleSet e l).map SetEntry.entry).Sublist (l.map SetEntry.entry) := by
  rw [settleSet, map_entries _ _ fun x => by split <;> rfl]
  exact List.filter_sublist.map _

theorem goodQueues_queues (h : s.flc.queuesLegal) (f : Flight) : (s.goodQueues f).flc.queuesLegal := by
  have rearmed : (s.flc.tripQ.map fun x => if x.entry = f.entry ∧ s.tripEligible x = false
      then { x with sends := 0 } else x).map TripEntry.entry = s.flc.tripQ.map TripEntry.entry :=
    map_entries _ _ (fun x => by split <;> rfl) _
  unfold State.goodQueues
  dsimp only
  split
  · exact queues_of_sublist h (.refl _) (by rw [rearmed])
  · exact queues_of_sublist h (settleSet_entries _ _) (by rw [rearmed])
  · exact queues_of_sublist h (.refl _) ((List.filter_sublist.map _).trans (by rw [rearmed]))

theorem exchangeFailed_queues (h : s.flc.queuesLegal) (f o) : (s.exchangeFailed f o).flc.queuesLegal := by
  have unsettled : ∀ e, ((unsettleSet e s.flc.setQ).map SetEntry.entry) = s.flc.setQ.map SetEntry.entry :=
    fun e => map_entries _ _ (fun x => by split <;> rfl) _
  unfold State.exchangeFailed
  extract_lets r t u
  have taken : u.flc.queuesLegal := by
    simp only [u]
    split
    · exact h
    · exact queues_of_sublist h (sublist_of_eq (unsettled _)) (.refl _)
    · exact h
  split <;> exact taken

theorem endExchange_queues (h : s.flc.queuesLegal) (f o l x) : (s.endExchange f o l x).flc.queuesLegal := by
  unfold State.endExchange
  extract_lets r t u
  have ended : t.flc.queuesLegal := h
  have taken : u.flc.queuesLegal := by
    simp only [u]
    split
    · exact goodQueues_queues ended f
    · exact exchangeFailed_queues ended f o
  exact arbitrate_queues (retireWaiting_queues taken f.entry)

theorem retireChanged_queues (h : s.flc.queuesLegal) (old i) : (s.retireChanged old i).flc.queuesLegal := by
  unfold State.retireChanged
  split
  · split
    · exact retireStation_queues h _ _
    · exact h
  · exact h

/-- One SET for each entry with a last demand. -/
theorem demandSets_entries (s : State) (l : List EntryNo) (h : l.Nodup) :
    ((l.flatMap s.demandSet).map SetEntry.entry).Nodup := by
  have each : ∀ e, (s.demandSet e).map SetEntry.entry = [e] ∨ (s.demandSet e).map SetEntry.entry = [] := by
    intro e
    unfold State.demandSet
    split <;> simp
  refine h.sublist ?_
  clear h
  induction l with
  | nil => simp
  | cons e l ih =>
    rw [List.flatMap_cons, List.map_append]
    rcases each e with he | he <;> rw [he]
    · exact ih.cons_cons e
    · exact ih.cons e

theorem demandEntries_nodup (s : State) : s.demandEntries.Nodup := by
  refine (List.perm_insertionSort _ _).nodup_iff.2 (List.Nodup.filter _ ?_)
  exact List.nodup_finRange 24

theorem restartLink_queues (s : State) : s.restartLink.flc.queuesLegal :=
  ⟨demandSets_entries _ _ (demandEntries_nodup _), List.nodup_nil⟩

/-- The link starts with empty queues at a power-on. -/
theorem powerOnClears_queues (s : State) (l copy) (h : s.flc = newFlc) :
    ((s.clearAll l).storeFaultAtPowerOn copy).flc.queuesLegal :=
  queuesLegal_reads (m := [.svp, .alt])
    (.storeFaultAtPowerOn (.clearAll (.refl _ _) (by decide)) (by decide)) (by decide)
    (show s.flc.queuesLegal from h ▸ ⟨List.nodup_nil, List.nodup_nil⟩)

theorem startLink_queues (h : s.flc.queuesLegal) : s.startLink.flc.queuesLegal :=
  arbitrate_queues (s := { s with flc := _ }) h

theorem setItem_queues (h : s.flc.queuesLegal) (i v) : (State.setItem i v s).1.flc.queuesLegal := by
  have taken : ((s.withItem i v).itemTaken i).flc.queuesLegal := by
    have item : (s.withItem i v).flc.queuesLegal := h
    have frame : Frame (touchesTaken (.item i)) (s.withItem i v) ((s.withItem i v).itemTaken i) :=
      .itemTaken (.refl _ _) (List.Subset.refl _)
    refine queuesLegal_reads frame ?_ item
    cases i <;> simp [touchesTaken]
  unfold State.setItem
  split
  · exact h
  · split
    · exact h
    · split
      · exact h
      · split
        · exact h
        · exact retireChanged_queues taken _ _

end Queues

/-- Every step keeps each station to one SET and one TRIP. -/
theorem queuesLegal_kept : Kept fun s => s.flc.queuesLegal := by
  refine queuesLegal_reads.kept (by decide) fun i s t touched ht h => ?_
  have took : ∀ i, (s.took i).flc.queuesLegal := fun _ => h
  cases i <;> simp [touches] at touched
  case powerOn straps tripIn store kept =>
    obtain rfl := next_inj ht
    exact startLink_queues (powerOnClears_queues _ _ _ rfl)
  case restart =>
    obtain rfl := next_inj ht
    exact arbitrate_queues (restartLink_queues _)
  case setParam g i v =>
    obtain rfl := next_inj ht
    refine queuesLegal_reads.serve (by decide) h fun u hu => ?_
    unfold onItem
    split
    · exact setItem_queues hu _ v
    · exact hu
  case slotExpiry =>
    obtain rfl := next_inj ht
    exact arbitrate_queues h
  case fieldReplyReceived bytes =>
    obtain rfl := next_inj ht
    split
    · exact endExchange_queues h _ _ _ _
    · exact h
  case replyTimeout =>
    obtain rfl := next_inj ht
    split
    · exact endExchange_queues h _ _ _ _
    · exact h
  case setPlaced o =>
    obtain rfl := next_inj ht
    dsimp only
    split
    · exact arbitrate_queues (placeSetAt_queues (took _) _ _)
    · exact took _
  case tripPlaced st =>
    obtain rfl := next_inj ht
    dsimp only
    split
    · refine arbitrate_queues ⟨h.1, ?_⟩
      exact (placeTrip_entries _ _).symm ▸ joined_nodup h.2 _
    · exact took _
  case stationRetire e old =>
    obtain rfl := next_inj ht
    exact retireStation_queues (took _) e old
  case settingChangeTaken what old =>
    rcases what with i | l
    · cases i <;> simp [touchesTaken] at touched
    · simp [touchesTaken] at touched

end Sys2Proof.Proofs

/-! PROOFS. What the blocks do to the port's record: notices alone, but for the port's own rows (R185, R187). -/

namespace Sys2Proof.Proofs

open Sys2Proof.Machine

/-- The port's record after any number of notices: the event flags and the selection stand, NOTICES_LOST is not
cleared, and the queue stays within its size (R185, R187, R188). -/
structure Notes (v w : Svp) : Prop where
  linkOverrun : w.linkOverrun = v.linkOverrun
  storeBusySeen : w.storeBusySeen = v.storeBusySeen
  storeFaultSeen : w.storeFaultSeen = v.storeFaultSeen
  selection : w.selection = v.selection
  lost : v.noticesLost = true → w.noticesLost = true
  room : v.notices.length ≤ 32 → w.notices.length ≤ 32

namespace Notes

variable {v w x : Svp} {s t : State}

theorem refl (v : Svp) : Notes v v := ⟨rfl, rfl, rfl, rfl, id, id⟩

theorem trans (h : Notes v w) (k : Notes w x) : Notes v x :=
  ⟨k.linkOverrun.trans h.linkOverrun, k.storeBusySeen.trans h.storeBusySeen,
    k.storeFaultSeen.trans h.storeFaultSeen, k.selection.trans h.selection, k.lost ∘ h.lost, k.room ∘ h.room⟩

theorem queue (v : Svp) (n : Notice) : Notes v (v.queue n) := by
  unfold Svp.queue
  split
  next room => exact ⟨rfl, rfl, rfl, rfl, id, fun _ => by simpa [Config.noticeCapacity] using room⟩
  next => exact ⟨rfl, rfl, rfl, rfl, fun _ => rfl, id⟩

theorem queued (h : Notes v w) (l : List Notice) : Notes v (l.foldl Svp.queue w) := by
  induction l generalizing w with
  | nil => exact h
  | cons n l ih => exact ih (h.trans (.queue w n))

/-- An operation that leaves the port's record. -/
theorem frame (h : Notes v s.svp) {m : List Part} (frame : Frame m s t) (port : Part.svp ∉ m) : Notes v t.svp :=
  frame.svp port ▸ h

theorem ite {p : Prop} [Decidable p] (hs : Notes v s.svp) (ht : Notes v t.svp) :
    Notes v (if p then s else t).svp := by
  split
  · exact hs
  · exact ht

theorem answer_ite {p : Prop} [Decidable p] {a b : Answer} (ha : Notes v a.1.svp) (hb : Notes v b.1.svp) :
    Notes v (if p then a else b).1.svp := by
  split
  · exact ha
  · exact hb

theorem status_ite {p : Prop} [Decidable p] {a b : State × Status} (ha : Notes v a.1.svp)
    (hb : Notes v b.1.svp) : Notes v (if p then a else b).1.svp := by
  split
  · exact ha
  · exact hb

theorem unclaimed {caller target} {f : State → Answer} (h : Notes v s.svp) (hf : Notes v (f s).1.svp) :
    Notes v (s.unclaimed caller target f).1.svp :=
  .answer_ite h hf

theorem foldl {α : Type} (f : State → α → State) (hf : ∀ s x, Notes v s.svp → Notes v (f s x).svp) (l : List α) :
    ∀ {s : State}, Notes v s.svp → Notes v (l.foldl f s).svp := by
  induction l with
  | nil => exact id
  | cons x l ih => exact fun h => ih (hf _ x h)

theorem notify {l} (h : Notes v s.svp) : Notes v (s.notify l).svp := h.queued l

theorem hand {l} (h : Notes v s.svp) : Notes v (s.hand l).svp := h

/-! ### The alarm table -/

theorem alarmChange {code source ch} (h : Notes v s.svp) : Notes v (s.alarmChange code source ch).svp := h.queued _

theorem alarmClear {code source} (h : Notes v s.svp) : Notes v (s.alarmClear code source).svp := h.queued _

theorem clearAll {l} (h : Notes v s.svp) : Notes v (s.clearAll l).svp :=
  foldl _ (fun _ _ hu => .alarmClear hu) l h

/-! ### The exchanger -/

theorem setMode {m} (h : Notes v s.svp) : Notes v (s.setMode m).svp := .ite h (h.queued _)

theorem issueBypass {b} (h : Notes v s.svp) : Notes v (s.issueBypass b).svp :=
  h.frame (m := [.hxc, .handed]) (.issueBypass (.refl _ _) (by decide)) (by decide)

theorem isolate {k} (h : Notes v s.svp) : Notes v (s.isolate k).svp := .setMode (.issueBypass h)

theorem addCause {k} (h : Notes v s.svp) : Notes v (s.addCause k).svp := .ite h (.ite h (.isolate h))

theorem dropCause {k} (h : Notes v s.svp) : Notes v (s.dropCause k).svp := h

theorem outletUpdate {u} (h : Notes v s.svp) : Notes v (outletUpdate u s).svp := .ite (.addCause h) (.ite h h)

theorem controlUpdate {u} (h : Notes v s.svp) : Notes v (controlUpdate u s).svp := by
  unfold Machine.controlUpdate
  split
  · exact .ite (.setMode (.issueBypass h)) h
  · exact h

theorem hxcUpdate {u} (h : Notes v s.svp) : Notes v (s.hxcUpdate u).svp := by
  have stepped : Notes v (Machine.controlUpdate u (targetUpdate u (Machine.outletUpdate u s))).svp :=
    .controlUpdate (.frame (.outletUpdate h) (m := [.hxc, .handed]) (.targetUpdate (.refl _ _) (by decide))
      (by decide))
  exact .frame stepped (m := [.hxc, .handed]) (.heatUpdate (.qmaxUpdate (.breachUpdate (.refl _ _) (by decide))
    (by decide)) (by decide)) (by decide)

theorem hxOn {c} (h : Notes v s.svp) : Notes v (s.hxOn c).1.svp :=
  .unclaimed h (.answer_ite (.setMode h) h)

theorem hxOff {c} (h : Notes v s.svp) : Notes v (s.hxOff c).1.svp :=
  .hand (.setMode (.issueBypass h))

theorem hxResume {c} (h : Notes v s.svp) : Notes v (s.hxResume c).1.svp :=
  .unclaimed h (.answer_ite (.setMode h) h)

/-! ### The wells -/

theorem wellChanged {c old new cause} (h : Notes v s.svp) : Notes v (s.wellChanged c old new cause).svp :=
  .ite h (.notify h)

theorem tripWell {c k} (h : Notes v s.svp) : Notes v (s.tripWell c k).svp := .wellChanged h

theorem decideReply {c} (h : Notes v s.svp) : Notes v (s.decideReply c).svp := by
  refine .ite ?_ h
  split
  · exact .tripWell h
  · exact h

theorem adoptWell {e} (h : Notes v s.svp) : Notes v (s.adoptWell e).svp :=
  .ite (.ite (.wellChanged h) (.ite h h)) h

theorem wellStatus {e} (h : Notes v s.svp) : Notes v (s.wellStatus e).svp := .decideReply (.adoptWell h)

theorem wccWellUpdate {u c} (h : Notes v s.svp) : Notes v (wccWellUpdate u s c).svp := by
  have counted : Notes v (dryUpdate u (overcurrentUpdate u s c) c).svp :=
    .frame h (m := [.wcc, .handed]) (.dryUpdate (.overcurrentUpdate (.refl _ _) (by decide)) (by decide))
      (by decide)
  unfold Machine.wccWellUpdate startUpdate
  dsimp only
  split
  · exact .ite (.wellChanged counted) counted
  · exact counted

theorem rampExpiry {c} (h : Notes v s.svp) : Notes v (s.rampExpiry c).svp := by
  have ramped : Notes v (if s.ramped c = (s.wcc.get c).demand then s else s.issueDemand c (s.ramped c)).svp :=
    .ite h h
  exact .ite (.wellChanged ramped) ramped

theorem wellStart {c k} (h : Notes v s.svp) : Notes v (State.wellStart c k s).1.svp :=
  .unclaimed h (.answer_ite h (.answer_ite (.wellChanged h) h))

theorem wellStop {c k} (h : Notes v s.svp) : Notes v (State.wellStop c k s).1.svp :=
  .answer_ite (.hand (.wellChanged h)) h

theorem wellResetTrip {c k} (h : Notes v s.svp) : Notes v (State.wellResetTrip c k s).1.svp :=
  .unclaimed h (.answer_ite (.answer_ite (.wellChanged h) h) h)

theorem wellWeight {c k x} (h : Notes v s.svp) : Notes v (State.wellWeight c k x s).1.svp := .unclaimed h h

theorem operateTrip {c} (h : Notes v s.svp) : Notes v (State.operateTrip c s).1.svp :=
  .status_ite (.tripWell h) h

theorem operateUnlock {c} (h : Notes v s.svp) : Notes v (State.operateUnlock c s).1.svp :=
  .status_ite h (.status_ite (.wellChanged h) h)

theorem onWell {f : WellNo → State → Answer} {n} (hf : ∀ c, Notes v (f c s).1.svp) (h : Notes v s.svp) :
    Notes v (onWell n f s).1.svp := by
  unfold Machine.onWell
  split
  · exact h
  · exact hf _

theorem operateWell {f : WellNo → State → State × Status} {n} (hf : ∀ c, Notes v (f c s).1.svp)
    (h : Notes v s.svp) : Notes v (operateWell n f s).1.svp := by
  unfold Machine.operateWell
  split
  · exact h
  · exact hf _

/-! ### The turbine -/

theorem commit {force mid late cause r} (h : Notes v s.svp) : Notes v (s.commit force mid late cause r).svp :=
  h.queued _

theorem tripTurbine {k} (h : Notes v s.svp) : Notes v (s.tripTurbine k).svp := .commit h

theorem breakerActs {b} (h : Notes v s.svp) : Notes v (s.breakerActs b).svp := by
  unfold State.breakerActs
  split
  · exact .commit h
  · exact .commit h
  · exact .commit h
  · exact h

theorem adoptTurbine {e} (h : Notes v s.svp) : Notes v (s.adoptTurbine e).svp := by
  have loaded : Notes v (s.commit true [] [] none (s.adoptedRecord e)).svp := .commit h
  exact .ite (.ite (.tripTurbine loaded) loaded) (.ite (.tripTurbine h) h)

theorem turbStatus {e} (h : Notes v s.svp) : Notes v (s.turbStatus e).svp :=
  .ite (.adoptTurbine h) (.breakerActs h)

theorem tripUpdate {u} (h : Notes v s.svp) : Notes v (tripUpdate u s).svp := by
  have tested : Notes v (inletUpdate u s).svp :=
    .frame h (m := [.tbc]) (.inletUpdate (.refl _ _) (by decide)) (by decide)
  exact .ite (.tripTurbine tested) (.ite (.tripTurbine tested) tested)

theorem testShortfall {x} (h : Notes v s.svp) : Notes v (s.testShortfall x).svp :=
  .ite (.ite (.commit h) (.ite (.commit h) h)) (.ite (.commit h) h)

theorem shortfallUpdate {u} (h : Notes v s.svp) : Notes v (shortfallUpdate u s).svp := by
  unfold Machine.shortfallUpdate
  split
  · exact .ite (.testShortfall h) h
  · exact h

theorem breakerTest {g} (h : Notes v s.svp) : Notes v (s.breakerTest g).svp := .ite (.commit h) h

theorem genLoadUpdate {u} (h : Notes v s.svp) : Notes v (genLoadUpdate u s).svp := by
  unfold Machine.genLoadUpdate
  split
  · exact .breakerTest h
  · exact h

theorem tbcUpdate {u} (h : Notes v s.svp) : Notes v (s.tbcUpdate u).svp := by
  have followed : Notes v (mismatchUpdate u (followUpdate u (bandUpdate u (Machine.tripUpdate u s)))).svp :=
    .frame (.tripUpdate h) (m := [.tbc, .handed]) (.mismatchUpdate (.followUpdate (.bandUpdate (.refl _ _) (by decide))
      (by decide)) (by decide)) (by decide)
  exact .genLoadUpdate (.shortfallUpdate followed)

theorem stageStep {k} (h : Notes v s.svp) : Notes v (s.stageStep k).svp := by
  unfold State.stageStep
  split
  · exact h
  · exact .ite (.tripTurbine h) h

theorem settleStep (h : Notes v s.svp) : Notes v s.settleStep.svp := by
  unfold State.settleStep
  exact .ite (.commit h) h

theorem runupSecond (h : Notes v s.svp) : Notes v s.runupSecond.svp := by
  have settled : Notes v s.speedStep.settleStep.svp := settleStep (commit h)
  exact .ite (.stageStep settled) settled

theorem mismatchStep (h : Notes v s.svp) : Notes v s.mismatchStep.1.svp := by
  unfold State.mismatchStep
  split
  · exact h
  · dsimp only
    split
    · exact .tripTurbine h
    · exact h

theorem unloadStep (h : Notes v s.svp) : Notes v s.unloadStep.svp := .breakerTest (.commit h)

theorem holdStep (h : Notes v s.svp) : Notes v s.holdStep.svp := .ite (.commit h) h

theorem loadSecond (h : Notes v s.svp) : Notes v s.loadSecond.svp := by
  have counted := mismatchStep h
  exact .ite counted (.ite (.unloadStep counted) (.ite (.holdStep counted) (.commit counted)))

theorem warmSecond (h : Notes v s.svp) : Notes v s.warmSecond.svp := .ite (mismatchStep h) (mismatchStep h)

theorem turbStart {c} (h : Notes v s.svp) : Notes v (s.turbStart c).1.svp :=
  .unclaimed h (.answer_ite h (.answer_ite (.commit h) h))

theorem turbStopped {c} (h : Notes v s.svp) : Notes v (s.turbStopped c).1.svp := h

theorem turbStop {c} (h : Notes v s.svp) : Notes v (s.turbStop c).1.svp := by
  unfold State.turbStop
  split
  · exact .turbStopped (.commit h)
  · exact .turbStopped (.commit h)
  · exact .turbStopped (.commit h)
  · exact .turbStopped (.commit h)
  · exact h
  · exact h
  · exact h

theorem turbLoad {c x} (h : Notes v s.svp) : Notes v (s.turbLoad c x).1.svp := .unclaimed h (.commit h)

theorem operateTurbTrip (h : Notes v s.svp) : Notes v s.operateTurbTrip.1.svp := .status_ite (.tripTurbine h) h

theorem operateTurbReset (h : Notes v s.svp) : Notes v s.operateTurbReset.1.svp :=
  .status_ite h (.status_ite (.commit h) h)

/-! ### The balance -/

theorem ceilingAnew (h : Notes v s.svp) : Notes v s.ceilingAnew.svp :=
  .frame h (m := [.bbu, .handed]) (.ceilingAnew (.refl _ _) (by decide)) (by decide)

theorem reckon (h : Notes v s.svp) : Notes v s.reckon.svp :=
  .frame h (m := [.bbu]) (.reckon (.refl _ _) (by decide)) (by decide)

theorem setHold {new c a} (h : Notes v s.svp) : Notes v (s.setHold new c a).svp := .ceilingAnew (.ite h (.notify h))

theorem takeLevel {x} (h : Notes v s.svp) : Notes v (s.takeLevel x).svp := by
  unfold State.takeLevel
  dsimp only
  split
  · exact .ite (.setHold h) h
  · exact .ite (.setHold h) h
  · exact .ite (.setHold h) (.ite (.setHold h) (.setHold h))

theorem freezeHold (h : Notes v s.svp) : Notes v s.freezeHold.svp := .ite h (.setHold h)

theorem bbuUpdate {u} (h : Notes v s.svp) : Notes v (s.bbuUpdate u).svp := by
  unfold State.bbuUpdate
  split
  · exact .takeLevel h
  · exact .ite (.freezeHold h) h

theorem balMode {c m} (h : Notes v s.svp) : Notes v (s.balMode c m).1.svp := by
  refine .unclaimed h (.ceilingAnew (.reckon ?_))
  exact .ite h (.notify h)

theorem balFixed {c x} (h : Notes v s.svp) : Notes v (s.balFixed c x).1.svp :=
  .unclaimed h (.ceilingAnew (.reckon h))

/-! ### The slots -/

theorem moveSlot {k r} (h : Notes v s.svp) : Notes v (s.moveSlot k r).svp := .notify h

theorem nextStep {k} (h : Notes v s.svp) : Notes v (s.nextStep k).svp := by
  unfold State.nextStep
  dsimp only
  split <;> exact h

theorem runAt {k n} (h : Notes v s.svp) : Notes v (s.runAt k n).svp := .nextStep (.moveSlot h)

theorem advance {k} (h : Notes v s.svp) : Notes v (s.advance k).svp := .ite (.runAt h) (.moveSlot h)

theorem failStep {k r} (h : Notes v s.svp) : Notes v (s.failStep k r).svp := by
  unfold State.failStep
  dsimp only
  split
  · exact .moveSlot h
  · exact .advance (.notify h)
  · exact .runAt (.notify h)

theorem beginWait {k st} (h : Notes v s.svp) : Notes v (s.beginWait k st).svp := .ite (.advance h) (.moveSlot h)

theorem issueStep {k st} (h : Notes v s.svp) : Notes v (s.issueStep k st).1.svp :=
  issueStep_cases (P := fun a => Notes v a.1.svp) s k st (fun _ => .onWell (fun _ => .wellStart h) h)
    (fun _ => .onWell (fun _ => .wellStop h) h)
    (fun c x => .onWell (n := c) (f := fun c => State.wellWeight (.slot k) c x) (fun _ => .wellWeight h) h)
    (fun _ => .balMode h) (.turbStart h) (fun _ => .turbLoad h) (.turbStop h) (.hxOn h) (.hxOff h)
    (fun _ => .frame h (m := [.hxc, .handed]) (.hxOffset (.refl _ _) (by decide)) (by decide)) h

theorem takeCommand {k st} (h : Notes v s.svp) : Notes v (s.takeCommand k st).svp :=
  .ite (.advance (.issueStep h)) (.failStep (.issueStep h))

theorem slotQtyUpdate {u k} (h : Notes v s.svp) : Notes v (slotQtyUpdate u s k).svp := by
  unfold Machine.slotQtyUpdate
  split
  · split
    · exact .ite (.advance h) h
    · exact h
  · exact h

theorem slotStateChange {x new k} (h : Notes v s.svp) : Notes v (slotStateChange x new s k).svp := by
  unfold Machine.slotStateChange
  split
  · exact .ite (.advance h) h
  · exact h

theorem slotTripStop {x what origin k} (h : Notes v s.svp) : Notes v (slotTripStop x what origin s k).svp := by
  unfold Machine.slotTripStop
  refine .ite h ?_
  split
  · exact .failStep h
  · exact .failStep h
  · exact .ite h h
  · exact h
  · exact h
  · exact h
  · exact h
  · exact h

theorem timerOut {k} (h : Notes v s.svp) : Notes v (s.timerOut k).svp := by
  unfold State.timerOut
  split
  · exact .ite (.advance h) (.failStep h)
  · exact h

theorem slotSecond {k} (h : Notes v s.svp) : Notes v (slotSecond s k).svp := by
  unfold Machine.slotSecond
  dsimp only
  split
  · exact .ite (.timerOut h) h
  · exact h
  · exact h

theorem onSlot {f : SlotNo → State → Answer} {n} (hf : ∀ k, Notes v (f k s).1.svp) (h : Notes v s.svp) :
    Notes v (onSlot n f s).1.svp := by
  unfold Machine.onSlot
  split
  · exact h
  · exact hf _

theorem seqLoad {steps k} (h : Notes v s.svp) : Notes v (State.seqLoad steps k s).1.svp := by
  refine .answer_ite h (.answer_ite h ?_)
  split
  · exact h
  · exact .moveSlot h

theorem seqRun {k} (h : Notes v s.svp) : Notes v (State.seqRun k s).1.svp :=
  .answer_ite h (.answer_ite h (.nextStep (.moveSlot h)))

theorem seqSuspend {k} (h : Notes v s.svp) : Notes v (State.seqSuspend k s).1.svp := by
  unfold State.seqSuspend
  dsimp only
  split
  · exact .moveSlot h
  · exact .moveSlot h
  · exact h
  · exact h
  · exact h
  · exact h
  · exact h
  · exact h

theorem resumeSlot {k} (h : Notes v s.svp) : Notes v (s.resumeSlot k).svp := by
  unfold State.resumeSlot
  dsimp only
  split
  · exact .failStep h
  · split
    · exact .runAt h
    · exact .ite (.advance h) (.moveSlot h)
    · exact .advance h
    · exact .runAt h

theorem seqResume {k} (h : Notes v s.svp) : Notes v (State.seqResume k s).1.svp := .answer_ite (.resumeSlot h) h

theorem seqAbort {k} (h : Notes v s.svp) : Notes v (State.seqAbort k s).1.svp := .answer_ite (.moveSlot h) h

/-! ### Settings taken -/

theorem turbSettingTaken {i} (h : Notes v s.svp) : Notes v (s.turbSettingTaken i).svp := by
  cases i with
  | ratedLoad | steamRate | warmSteam => exact .commit h
  | warmTime | warmPos | ratedSpeed | runupRate | speedBand | settleTime | runupTimeout | syncTimeout | admNoload
    | loadRate | unloadRate | minLoad | shortfallMargin | shortfallPersist | inletPersist | mismatchTime
    | resetSpeed | adoptHold => exact h

theorem requirementTaken (h : Notes v s.svp) : Notes v s.requirementTaken.svp :=
  .frame h (m := [.bbu, .handed]) (.requirementTaken (.refl _ _) (by decide)) (by decide)

theorem itemTaken {i} (h : Notes v s.svp) : Notes v (s.itemTaken i).svp := by
  have apart (hi : Part.svp ∉ touchesTaken (.item i)) : Notes v (s.itemTaken i).svp :=
    .frame h (.itemTaken (.refl _ _) (List.Subset.refl _)) hi
  cases i with
  | turbine => exact .turbSettingTaken h
  | balance i =>
    cases i with
    | steamFraction => exact .requirementTaken (.commit h)
    | heatBaseFlow => exact .requirementTaken h
    | tankXoff | tankXon | holdStep | holdInterval => exact h
  | well | exchanger | scaling | field | entry | qty => exact apart (by simp [touchesTaken])

theorem retireChanged {old i} (h : Notes v s.svp) : Notes v (s.retireChanged old i).svp := by
  unfold State.retireChanged
  split
  · exact .ite (.frame h (m := [.flc, .handed]) (.retireStation (.refl _ _) (by decide)) (by decide)) h
  · exact h

theorem setItem {i x} (h : Notes v s.svp) : Notes v (State.setItem i x s).1.svp :=
  .answer_ite h (.answer_ite h (.answer_ite h (.answer_ite h (.retireChanged (.itemTaken h)))))

end Notes

/-! ### Requests -/

/-- A request's row: while a request is in progress its frame is discarded; otherwise it is answered with its kind,
and the port's record before the reply is formed differs by notices and by what a SELECT selects (R184). -/
def Answered (i : Instr) (k : Byte) (s : State) : Prop :=
  ∃ (u : State) (st : Status) (c : Content), exec i s = .next (if s.svp.reply.isSome then s.overrun else u.answer k st c)
    ∧ Notes { s.svp with selection := u.svp.selection } u.svp
    ∧ ((∀ o a, i ≠ .select o a) → u.svp.selection = none)

section Requests

variable {i : Instr} {k : Byte} {s : State}

theorem answered_of_notes {u : State} {st : Status} {c : Content}
    (he : exec i s = .next (if s.svp.reply.isSome then s.overrun else u.answer k st c))
    (h : Notes s.deselect.svp u.svp) : Answered i k s := by
  have none : u.svp.selection = none := h.selection
  exact ⟨u, st, c, he, by rw [none]; exact h, fun _ => none⟩

theorem answered_of_serve {owner : State → Answer} (he : exec i s = .next (s.serve k owner))
    (h : Notes s.deselect.svp s.deselect.svp → Notes s.deselect.svp (owner s.deselect).1.svp) : Answered i k s :=
  answered_of_notes he (h (.refl _))

theorem answered_of_operate {o : SelObject} {a : Nat} {ok : Bool} {owner : State → State × Status}
    (he : exec i s = .next (s.operate o a ok owner))
    (h : Notes s.deselect.svp s.deselect.svp → Notes s.deselect.svp (owner s.deselect).1.svp) :
    Answered i 0x04 s := by
  unfold State.operate at he
  by_cases selected : ok = true ∧ s.svp.selection = some (o, a)
  · exact answered_of_notes (u := (owner s.deselect).1) (c := .none) (by simpa [selected] using he) (h (.refl _))
  · by_cases hok : ok = true
    · have other : s.svp.selection ≠ some (o, a) := fun hs => selected ⟨hok, hs⟩
      exact answered_of_notes (u := s.deselect) (c := .none) (by simpa [hok, other] using he) (.refl _)
    · exact answered_of_notes (u := s.deselect) (c := .none) (by simpa [hok] using he) (.refl _)

/-- A read leaves the part as it is. -/
theorem notes_of_read {s t : State} (frame : Frame [] s t) {v : Svp} (h : Notes v s.svp) : Notes v t.svp :=
  .frame h frame (by decide)

theorem select_answered (o : Option SelObject) (a : Nat) (s : State) : Answered (.select o a) 0x03 s := by
  refine ⟨(State.selectAnswer o a s.deselect).1, _, _, rfl, ?_, fun h => absurd rfl (h o a)⟩
  unfold State.selectAnswer
  split
  · exact .refl _
  · split
    · exact .refl _
    · exact .refl _

/-- Every request's row is one that answers. -/
theorem request_answered (hk : requestKind i = some k) (s : State) : Answered i k s := by
  cases i <;> cases hk
  case ident => exact answered_of_serve rfl id
  case setTime => exact answered_of_serve rfl fun h => h.trans ⟨rfl, rfl, rfl, rfl, id, id⟩
  case select o a => exact select_answered o a s
  case operateWellTrip => exact answered_of_operate rfl (.operateWell fun _ => .operateTrip (.refl _))
  case operateWellUnlock => exact answered_of_operate rfl (.operateWell fun _ => .operateUnlock (.refl _))
  case operateTurbineTrip => exact answered_of_operate rfl .operateTurbTrip
  case operateTurbineReset => exact answered_of_operate rfl .operateTurbReset
  case operateSetBoundary =>
    exact answered_of_operate rfl (.frame · (m := [.ssl]) (.operateBoundary (.refl _ _) (by decide)) (by decide))
  case operateCommissionLock =>
    exact answered_of_operate rfl (.frame · (m := [.ssl]) (.operateLock (.refl _ _) (by decide)) (by decide))
  case operateRestart => exact answered_of_operate rfl fun h => h.trans ⟨rfl, rfl, rfl, rfl, id, id⟩
  case readQty => exact answered_of_serve rfl (notes_of_read (.readQty (.refl _ _)))
  case loadTable =>
    exact answered_of_serve rfl (.frame · (m := [.tip]) (.loadTable (.refl _ _) (by decide)) (by decide))
  case readTable => exact answered_of_serve rfl (notes_of_read (.readTable (.refl _ _)))
  case evalTableForward => exact answered_of_serve rfl (notes_of_read (.evalForward (.refl _ _)))
  case evalTableInverse => exact answered_of_serve rfl (notes_of_read (.evalInverse (.refl _ _)))
  case readScaling => exact answered_of_serve rfl (notes_of_read (.readScaling (.refl _ _)))
  case readTrend =>
    exact answered_of_serve rfl (.frame · (m := [.free]) (.readTrend (.refl _ _) (by decide)) (by decide))
  case captureBaseline =>
    exact answered_of_serve rfl (.frame · (m := [.scm, .handed]) (.capture (.refl _ _) (by decide)) (by decide))
  case hxCmdOn => exact answered_of_serve rfl .hxOn
  case hxCmdOff => exact answered_of_serve rfl .hxOff
  case hxCmdIsolate => exact answered_of_serve rfl .addCause
  case hxCmdResume => exact answered_of_serve rfl .hxResume
  case hxCmdOffset =>
    exact answered_of_serve rfl (.frame · (m := [.hxc, .handed]) (.hxOffset (.refl _ _) (by decide)) (by decide))
  case readExchanger => exact answered_of_serve rfl id
  case wellCmdStart => exact answered_of_serve rfl (.onWell fun _ => .wellStart (.refl _))
  case wellCmdStop => exact answered_of_serve rfl (.onWell fun _ => .wellStop (.refl _))
  case wellCmdResetTrip => exact answered_of_serve rfl (.onWell fun _ => .wellResetTrip (.refl _))
  case wellCmdWeight => exact answered_of_serve rfl (.onWell fun _ => .wellWeight (.refl _))
  case readWell => exact answered_of_serve rfl (.onWell fun _ => .refl _)
  case turbCmdStart => exact answered_of_serve rfl .turbStart
  case turbCmdStop => exact answered_of_serve rfl .turbStop
  case turbCmdLoad v =>
    cases v with
    | none => exact answered_of_serve rfl id
    | some v => exact answered_of_serve rfl .turbLoad
  case readTurbine => exact answered_of_serve rfl id
  case balCmdMode m =>
    cases m with
    | none => exact answered_of_serve rfl id
    | some m => exact answered_of_serve rfl .balMode
  case balCmdFixedTarget => exact answered_of_serve rfl .balFixed
  case readBalance => exact answered_of_serve rfl id
  case readField => exact answered_of_serve rfl (notes_of_read (.readField (.refl _ _)))
  case seqLoad => exact answered_of_serve rfl (.onSlot fun _ => .seqLoad (.refl _))
  case seqRun => exact answered_of_serve rfl (.onSlot fun _ => .seqRun (.refl _))
  case seqSuspend => exact answered_of_serve rfl (.onSlot fun _ => .seqSuspend (.refl _))
  case seqResume => exact answered_of_serve rfl (.onSlot fun _ => .seqResume (.refl _))
  case seqAbort => exact answered_of_serve rfl (.onSlot fun _ => .seqAbort (.refl _))
  case readSeq => exact answered_of_serve rfl (.onSlot fun _ => .refl _)
  case ack =>
    exact answered_of_serve rfl (.frame · (m := [.alt]) (.ack (.refl _ _) (by decide)) (by decide))
  case ackAll => exact answered_of_serve rfl id
  case readAlarms => exact answered_of_serve rfl (notes_of_read (.readAlarms (.refl _ _)))
  case readCounters => exact answered_of_serve rfl (notes_of_read (.readCounters (.refl _ _)))
  case readAndClear =>
    exact answered_of_serve rfl (.frame · (m := [.alt]) (.readAndClear (.refl _ _) (by decide)) (by decide))
  case setParam g i v =>
    refine answered_of_serve rfl fun h => ?_
    unfold onItem
    split
    · exact .setItem h
    · exact h
  case getParam =>
    exact answered_of_serve rfl (notes_of_read (.onItem (.refl _ _) fun _ => .getItem (.refl _ _)))
  case lockGroup =>
    exact answered_of_serve rfl (.frame · (m := [.ssl]) (.setHostLock (.refl _ _) (by decide)) (by decide))
  case unlockGroup =>
    exact answered_of_serve rfl (.frame · (m := [.ssl]) (.setHostLock (.refl _ _) (by decide)) (by decide))
  case setLimit =>
    exact answered_of_serve rfl
      (.frame · (m := [.ssl, .scm, .handed]) (.setLimit (.refl _ _) (by decide)) (by decide))
  case readLimits => exact answered_of_serve rfl id
  case store =>
    exact answered_of_serve rfl (.frame · (m := [.ssl]) (.store (.refl _ _) (by decide)) (by decide))
  case badKind =>
    exact answered_of_serve rfl fun h => .answer_ite h h

end Requests

end Sys2Proof.Proofs

/-! PROOFS. The notice queue and the trend log stay within their sizes (R48, R187). -/

namespace Sys2Proof.Proofs

open Sys2Proof.Machine

/-! ### The trend log (R48): the interval's expiry alone appends to it -/

section Trend

variable (s : State) (u : Update) (c : WellNo)

theorem computePoint_trend (p : PointNo) (x temp : Int) : (s.computePoint p x temp).scm.trend = s.scm.trend := rfl

@[simp] theorem pointUpdate_trend (p : PointNo) : (pointUpdate u s p).scm.trend = s.scm.trend := by
  unfold pointUpdate
  split
  · split
    · exact computePoint_trend s p _ _
    · rfl
  · rfl

@[simp] theorem floorUpdate_trend : (floorUpdate u s).scm.trend = s.scm.trend := by
  unfold floorUpdate
  split <;> rfl

@[simp] theorem holdUpdate_trend : (holdUpdate u s).scm.trend = s.scm.trend := by
  unfold holdUpdate
  split <;> rfl

@[simp] theorem staleSeenUpdate_trend : (staleSeenUpdate u s).scm.trend = s.scm.trend := rfl

@[simp] theorem hxFoulingUpdate_trend : (hxFoulingUpdate u s).scm.trend = s.scm.trend := rfl

@[simp] theorem pumpUpdate_trend : (pumpUpdate u s c).scm.trend = s.scm.trend := rfl

@[simp] theorem moveCalcite_trend (hold : Bool) : (moveCalcite u s c hold).scm.trend = s.scm.trend := by
  unfold moveCalcite
  dsimp only
  split
  · rfl
  · split <;> rfl

@[simp] theorem holdUpdateWell_trend (m : Int) : (holdUpdateWell u s c m).scm.trend = s.scm.trend := by
  unfold holdUpdateWell
  dsimp only
  split
  · rfl
  · rw [moveCalcite_trend]
    rfl

@[simp] theorem marginUpdate_trend : (marginUpdate u s c).scm.trend = s.scm.trend := by
  unfold marginUpdate
  dsimp only
  split
  · split <;> rfl
  · split
    · split
      · rw [holdUpdateWell_trend]
        rfl
      · rfl
    · rfl

@[simp] theorem feedIsShort_trend (v : Int) : (feedIsShort s c v).scm.trend = s.scm.trend := by
  unfold feedIsShort
  dsimp only
  split
  · rfl
  · split <;> rfl

@[simp] theorem feedIsGood_trend : (feedIsGood s c).scm.trend = s.scm.trend := rfl

@[simp] theorem feedUpdate_trend : (feedUpdate u s c).scm.trend = s.scm.trend := by
  unfold feedUpdate
  split
  · split <;> simp
  · rfl

@[simp] theorem wellUpdate_trend : (wellUpdate u s c).scm.trend = s.scm.trend := by
  unfold wellUpdate
  split <;> simp

theorem foldl_trend {α : Type} (f : State → α → State) (hf : ∀ s x, (f s x).scm.trend = s.scm.trend) (l : List α) :
    ∀ s : State, (l.foldl f s).scm.trend = s.scm.trend := by
  induction l with
  | nil => exact fun _ => rfl
  | cons x l ih => exact fun s => (ih (f s x)).trans (hf s x)

@[simp] theorem scmUpdate_trend : (s.scmUpdate u).scm.trend = s.scm.trend := by
  simp [State.scmUpdate, foldl_trend _ (fun s c => wellUpdate_trend s u c),
    foldl_trend _ (fun s p => pointUpdate_trend s u p)]

@[simp] theorem scmWellState_trend (old new : WellState) :
    (s.scmWellState c old new).scm.trend = s.scm.trend := by
  unfold State.scmWellState
  dsimp only
  split <;> rfl

@[simp] theorem testStale_trend : s.testStale.scm.trend = s.scm.trend := by
  unfold State.testStale
  split
  · rfl
  · split <;> rfl

@[simp] theorem limitTaken_trend (l : RowNo) : (s.limitTaken l).scm.trend = s.scm.trend := by
  unfold State.limitTaken
  split
  · unfold State.l5Taken
    split <;> rfl
  · split
    · exact testStale_trend s
    · rfl

@[simp] theorem captureWell_trend : (s.captureWell c).1.scm.trend = s.scm.trend := by
  unfold State.captureWell
  repeat' split
  all_goals rfl

@[simp] theorem captureHx_trend : s.captureHx.1.scm.trend = s.scm.trend := by
  unfold State.captureHx
  repeat' split
  all_goals rfl

@[simp] theorem capture_trend (t : FoulTarget) : (State.capture t s).1.scm.trend = s.scm.trend := by
  unfold State.capture
  split
  · rfl
  · exact captureHx_trend s
  · split
    · rfl
    · exact captureWell_trend s _

theorem nextInterval_trend : s.nextInterval.scm.trend = s.scm.trend := rfl

/-- A record joins a log of at most 256, which keeps the newest 256. -/
theorem append_trend {m : Scm} (h : m.trend.length ≤ 256) (p : PointNo) : (m.append p).trend.length ≤ 256 := by
  unfold Scm.append
  dsimp only
  split
  · exact h
  · simp only [List.length_drop, Config.trendCapacity]
    omega

theorem appends_trend (l : List PointNo) : ∀ {m : Scm}, m.trend.length ≤ 256 →
    (l.foldl Scm.append m).trend.length ≤ 256 := by
  induction l with
  | nil => exact id
  | cons p l ih => exact fun h => ih (append_trend h p)

end Trend

theorem trend_reads : Reads [.scm] fun s => s.scm.trend.length ≤ 256 := fun {m s t} frame apart h => by
  have watch : t.scm = s.scm := frame.scm (apart _ (by simp))
  simpa [watch] using h

theorem trend_kept : Kept fun s => s.scm.trend.length ≤ 256 := by
  refine trend_reads.kept (by decide) fun i s t touched ht h => ?_
  have of_eq {u : State} (hu : u.scm.trend = s.scm.trend) : u.scm.trend.length ≤ 256 := hu ▸ h
  cases i <;> simp [touches] at touched
  case powerOn => exact trend_reads (powerOn_frame ht) (by decide) (Nat.zero_le _)
  case restart => exact trend_reads (restart_frame ht) (by decide) (of_eq rfl)
  case plantTimeTick =>
    obtain rfl := next_inj ht
    exact h
  case captureBaseline target =>
    obtain rfl := next_inj ht
    exact trend_reads.serve (by decide) h fun u hu => (capture_trend u target).symm ▸ hu
  case setParam g i v =>
    rcases i with - | i
    · simp [touchesWritten] at touched
    · cases i <;> simp [touchesWritten, touchesTaken] at touched
  case setLimit l v =>
    obtain rfl := next_inj ht
    refine trend_reads.serve (by decide) h fun u hu => ?_
    unfold State.setLimit
    repeat' split
    iterate 4 exact hu
    exact (limitTaken_trend _ _).symm ▸ hu
  case settingChangeTaken what old =>
    obtain rfl := next_inj ht
    rcases what with i | l
    · cases i <;> simp [touchesTaken] at touched
    · exact of_eq (limitTaken_trend _ l)
  case scmUpdate u =>
    obtain rfl := next_inj ht
    exact of_eq (scmUpdate_trend _ u)
  case scmWellState c move cause =>
    obtain rfl := next_inj ht
    exact of_eq (scmWellState_trend _ c _ _)
  case scmRoleChange c role =>
    obtain rfl := next_inj ht
    refine of_eq ?_
    dsimp only
    split <;> rfl
  case staleClockExpiry =>
    obtain rfl := next_inj ht
    refine of_eq ?_
    repeat' split
    · rfl
    · rfl
    · exact testStale_trend _
  case trendIntervalExpiry =>
    obtain rfl := next_inj ht
    change (State.nextInterval { s with scm := pointNos.foldl Scm.append s.scm }).scm.trend.length ≤ 256
    have appended := appends_trend pointNos (m := s.scm) h
    rw [nextInterval_trend]
    exact appended
  case staleClockSecond =>
    obtain rfl := next_inj ht
    refine of_eq ?_
    split
    · rfl
    · exact testStale_trend _

/-! ### The notice queue (R187) -/

theorem notices_reads : Reads [.svp] fun s => s.svp.notices.length ≤ 32 := fun {m s t} frame apart h => by
  have port : t.svp = s.svp := frame.svp (apart _ (by simp))
  simpa [port] using h

theorem storeFaultAtPowerOn_notices {s : State} (copy : Option StoredCopy) (h : s.svp.notices.length ≤ 32) :
    (s.storeFaultAtPowerOn copy).svp.notices.length ≤ 32 := by
  have seen : Notes { s.svp with storeFaultSeen := true } { s.svp with storeFaultSeen := true } := .refl _
  cases copy with
  | none => exact (Notes.alarmChange (s := { s with svp := { s.svp with storeFaultSeen := true } }) seen).room h
  | some c => exact (Notes.alarmClear (.refl s.svp)).room h

theorem notices_kept : Kept fun s => s.svp.notices.length ≤ 32 := by
  refine notices_reads.kept (by decide) fun i s t touched ht h => ?_
  by_cases request : ∃ k, requestKind i = some k
  · obtain ⟨k, hk⟩ := request
    obtain ⟨u, st, c, he, notes, -⟩ := request_answered hk s
    obtain rfl := next_inj (he.symm.trans ht)
    refine inv_ite (inv := fun s => s.svp.notices.length ≤ 32) (fun _ => h) fun _ => notes.room h
  · have of_notes {u : State} (hu : Notes s.svp u.svp) : u.svp.notices.length ≤ 32 := hu.room h
    have same : Notes s.svp s.svp := .refl _
    cases i <;> simp [touches, requestKind] at touched request
    case powerOn straps tripIn store kept =>
      obtain rfl := next_inj ht
      exact notices_reads (m := [.flc, .handed]) (.startLink (.refl _ _) (by decide)) (by decide)
        (storeFaultAtPowerOn_notices _ ((Notes.clearAll (.refl _)).room (Nat.zero_le _)))
    case restart => exact notices_reads (restart_frame ht) (by decide) (Nat.zero_le _)
    all_goals obtain rfl := next_inj ht
    case selectWindowExpiry | plantTimeTick | portResync => exact h
    case storeComplete =>
      split
      · exact h
      · split <;> exact h
    case frameDiscarded => split <;> exact h
    case linkOverrun | noticeStart => split <;> exact h
    case replyComplete =>
      split
      · unfold State.endReply
        dsimp only
        split <;> exact h
      · exact h
    case noticeComplete =>
      split
      · exact (List.length_tail ▸ Nat.sub_le _ _ : s.svp.notices.tail.length ≤ s.svp.notices.length).trans h
      · exact h
    case tripInAsserted => exact of_notes (.ite same (.ite (.tripTurbine same) same))
    case settingChangeTaken what old =>
      cases what with
      | item i => exact of_notes (.itemTaken same)
      | limit l => simp [touchesTaken] at touched
    case hxcUpdate => exact of_notes (.hxcUpdate same)
    case hxcSp0Change => exact of_notes (.ite (.addCause same) (.ite same same))
    case hxcSilicaStale => exact of_notes (.ite (.addCause same) same)
    case wccStatusEvent => exact of_notes (.wellStatus same)
    case wccUpdate => exact of_notes (.foldl _ (fun _ _ hu => .wccWellUpdate hu) _ same)
    case wccLinkLost => exact of_notes (.ite (.tripWell same) same)
    case rampTimerExpiry => exact of_notes (.ite (.rampExpiry same) same)
    case startTimerExpiry => exact of_notes (.ite (.tripWell same) same)
    case tbcStatusEvent => exact of_notes (.turbStatus same)
    case tbcUpdate => exact of_notes (.tbcUpdate same)
    case tbcLinkLost => exact of_notes (.ite (.tripTurbine same) same)
    case tbcWellDemand | tbcWellState => exact of_notes (.ite (.commit same) same)
    case stageTimerExpiry => exact of_notes (.ite (.commit same) same)
    case tbcSecondTimer =>
      refine of_notes ?_
      split
      · exact .runupSecond same
      · exact .stageStep same
      · exact .loadSecond same
      · exact .loadSecond same
      · exact .warmSecond same
      · exact same
      · exact same
    case settleComplete => exact of_notes (.ite (.commit same) same)
    case runupTimeout | syncTimeout | valveMismatch => exact of_notes (.ite (.tripTurbine same) same)
    case adoptHoldEnd => exact of_notes (.ite (.commit same) same)
    case bbuTankUpdate => exact of_notes (.bbuUpdate same)
    case seqCommandStep =>
      refine of_notes ?_
      dsimp only
      split
      · exact .takeCommand same
      · exact same
    case seqWaitStep =>
      refine of_notes ?_
      dsimp only
      split
      · exact .beginWait same
      · exact same
    case seqPauseStep | seqEndStep =>
      refine of_notes ?_
      dsimp only
      split
      · exact .moveSlot same
      · exact same
    case sqrQtyUpdate => exact of_notes (.foldl _ (fun _ _ hu => .slotQtyUpdate hu) _ same)
    case sqrStateChange => exact of_notes (.foldl _ (fun _ _ hu => .slotStateChange hu) _ same)
    case sqrTargetTripStop => exact of_notes (.foldl _ (fun _ _ hu => .slotTripStop hu) _ same)
    case sqrSecondTimer => exact of_notes (.foldl _ (fun _ _ hu => .slotSecond hu) _ same)
    case waitTimeout =>
      refine of_notes ?_
      split
      · exact .ite (.failStep same) same
      · exact same
    case delayExpiry =>
      refine of_notes ?_
      split
      · exact .ite (.advance same) same
      · exact same
    case alarmChange => exact of_notes (.alarmChange same)
    case alarmClear => exact of_notes (.alarmClear same)

/-- Every step keeps both stores within their sizes. -/
theorem storesBounded_kept : Kept State.storesBounded := fun s t ⟨notices, trend⟩ ht =>
  ⟨notices_kept s t notices ht, trend_kept s t trend ht⟩

end Sys2Proof.Proofs

/-! PROOFS. The settings, limit rows and tables stay ones the chapters allow, and the commissioning record stands
(R3, R136, R174, R177 to R180). -/

namespace Sys2Proof.Proofs

open Sys2Proof.Machine

/-! ### One setting written -/

/-- A settings record the chapters allow. -/
def Settings.legal (t : Settings) : Prop := t.inRange ∧ t.inOrder ∧ t.stationsApart

section Write

variable {t : Settings} {i : Item} {v : Int}

theorem read_write_other {j : Item} (h : j ≠ i) : (t.write i v).read j = t.read j := by
  rw [Laws.read_write, if_neg h]

theorem write_inRange (h : t.inRange) (hv : (itemRange i).lo ≤ v ∧ v ≤ (itemRange i).hi) :
    (t.write i v).inRange := fun j => by
  rw [Laws.read_write]
  split
  next hj => exact hj ▸ hv
  next => exact h j

/-- The order a write has to keep is that of its own item; the others stand. -/
theorem write_inOrder {s : State} (h : s.ssl.settings.inOrder) (ho : (s.setting i v).itemOrder i) :
    (s.ssl.settings.write i v).inOrder := by
  obtain ⟨wells, loads, supply, tank, ranges⟩ := h
  refine ⟨fun c => ?_, ?_, ?_, ?_, fun q => ?_⟩
  · by_cases hi : ∃ x, i = .well c x
    · obtain ⟨x, rfl⟩ := hi
      exact ho
    · have other : ∀ x, Item.well c x ≠ i := fun x hx => hi ⟨x, hx.symm⟩
      simpa only [read_write_other (other _)] using wells c
  · by_cases hi : ∃ x, i = .turbine x
    · obtain ⟨x, rfl⟩ := hi
      exact ho
    · have other : ∀ x, Item.turbine x ≠ i := fun x hx => hi ⟨x, hx.symm⟩
      simpa only [read_write_other (other _)] using loads
  · by_cases hi : ∃ x, i = .exchanger x
    · obtain ⟨x, rfl⟩ := hi
      exact ho
    · have other : ∀ x, Item.exchanger x ≠ i := fun x hx => hi ⟨x, hx.symm⟩
      simpa only [read_write_other (other _)] using supply
  · by_cases hi : ∃ x, i = .balance x
    · obtain ⟨x, rfl⟩ := hi
      exact ho
    · have other : ∀ x, Item.balance x ≠ i := fun x hx => hi ⟨x, hx.symm⟩
      simpa only [read_write_other (other _)] using tank
  · by_cases hi : ∃ x, i = .qty q x
    · obtain ⟨x, rfl⟩ := hi
      exact ho
    · have other : ∀ x, Item.qty q x ≠ i := fun x hx => hi ⟨x, hx.symm⟩
      simpa only [read_write_other (other _)] using ranges q

/-- Two entries of a settings record may stand together (R136). -/
def Settings.apart (t : Settings) (e x : EntryNo) : Prop :=
  kindOfCode (t.read (.entry e .kind)) ≠ .none → kindOfCode (t.read (.entry x .kind)) ≠ .none →
    t.read (.entry e .address) ≠ t.read (.entry x .address)
    ∧ (kindOfCode (t.read (.entry e .kind)) = kindOfCode (t.read (.entry x .kind)) →
      kindOfCode (t.read (.entry e .kind)) = .well ∧ t.read (.entry e .channel) ≠ t.read (.entry x .channel))

theorem stationsApart_iff (t : Settings) : t.stationsApart ↔ ∀ e x, e ≠ x → Settings.apart t e x := by
  constructor
  · exact fun h e x hx => h e x _ _ hx rfl rfl
  · rintro h e x _ _ hx rfl rfl
    exact h e x hx

theorem apart_symm {e x : EntryNo} (h : Settings.apart t e x) : Settings.apart t x e := fun hx he => by
  obtain ⟨address, kinds⟩ := h he hx
  exact ⟨address.symm, fun same => ⟨same ▸ (kinds same.symm).1, (kinds same.symm).2.symm⟩⟩

theorem apart_congr {r : Settings} {e x : EntryNo} (he : ∀ k, t.read (.entry e k) = r.read (.entry e k))
    (hx : ∀ k, t.read (.entry x k) = r.read (.entry x k)) (h : Settings.apart r e x) : Settings.apart t e x := by
  unfold Settings.apart
  rw [he, hx, he, hx, he, hx]
  exact h

/-- Stations with addresses and channels apart have settings apart. -/
theorem apart_of_itemOrder {s : State} {e x : EntryNo} {k : EntryItem} (ho : s.itemOrder (.entry e k)) (hx : x ≠ e) :
    Settings.apart s.ssl.settings e x := fun he hx' => by
  obtain ⟨address, kinds⟩ := ho x hx he hx'
  refine ⟨fun same => address ?_, fun same => ?_⟩
  · exact congrArg Int.toNat same
  · obtain ⟨well, channel⟩ := kinds same
    exact ⟨well, fun same => channel (congrArg (fun n => Fin.ofNat 16 (Int.toNat n)) same)⟩

theorem write_stationsApart {s : State} (h : s.ssl.settings.stationsApart) (ho : (s.setting i v).itemOrder i) :
    (s.ssl.settings.write i v).stationsApart := by
  rw [stationsApart_iff] at h ⊢
  intro e x hx
  by_cases hi : ∃ y k, i = .entry y k
  · obtain ⟨y, k, rfl⟩ := hi
    by_cases he : e = y
    · exact he ▸ apart_of_itemOrder ho (he ▸ hx.symm)
    · by_cases hy : x = y
      · exact apart_symm (hy ▸ apart_of_itemOrder ho (hy ▸ hx))
      · have other : ∀ z k', z ≠ y → Item.entry z k' ≠ .entry y k := fun z k' hz hzk => hz (by injection hzk)
        exact apart_congr (fun _ => read_write_other (other e _ he)) (fun _ => read_write_other (other x _ hy))
          (h e x hx)
  · have other : ∀ z k, Item.entry z k ≠ i := fun z k hz => hi ⟨z, k, hz.symm⟩
    exact apart_congr (fun _ => read_write_other (other _ _)) (fun _ => read_write_other (other _ _)) (h e x hx)

theorem write_legal {s : State} (h : Settings.legal s.ssl.settings) (hv : s.valueOk i v = true) :
    Settings.legal (s.ssl.settings.write i v) := by
  obtain ⟨lo, hi, order⟩ := (Laws.valueOk_iff s i v).1 hv
  obtain ⟨range, inOrder, stations⟩ := h
  exact ⟨write_inRange range ⟨lo, hi⟩, write_inOrder inOrder order, write_stationsApart stations order⟩

end Write

/-! ### The defaults -/

theorem read_default (i : Item) : defaultSettings.read i = (itemRange i).dflt := by
  cases i with
  | well c i => cases i <;> simp [Settings.read, defaultSettings, itemRange] <;> rfl
  | turbine i => cases i <;> rfl
  | exchanger i => cases i <;> rfl
  | scaling i => cases i <;> rfl
  | balance i => cases i <;> rfl
  | field i => cases i <;> rfl
  | entry e i => cases i <;> simp [Settings.read, defaultSettings, itemRange] <;> rfl
  | qty q i => cases i <;> simp [Settings.read, defaultSettings, itemRange] <;> rfl

theorem plausible_ordered : ∀ q, (plausible q).1 < (plausible q).2 := by decide

/-- A default lies in its range. -/
def Range.holdsDefault (r : Range) : Prop := r.lo ≤ r.dflt ∧ r.dflt ≤ r.hi

theorem defaults_inRange (i : Item) : Range.holdsDefault (itemRange i) := by
  have wells : ∀ i, Range.holdsDefault (wellItemRange i) := fun i => by cases i <;> unfold Range.holdsDefault <;> decide
  have others : ∀ i e, i ≠ .address → Range.holdsDefault (entryItemRange e i) := fun i e hi => by
    unfold Range.holdsDefault
    cases i <;> simp_all [entryItemRange]
  cases i with
  | well c i => exact wells i
  | turbine i => cases i <;> unfold Range.holdsDefault <;> decide
  | exchanger i => cases i <;> unfold Range.holdsDefault <;> decide
  | scaling i => cases i <;> unfold Range.holdsDefault <;> decide
  | balance i => cases i <;> unfold Range.holdsDefault <;> decide
  | field i => cases i <;> unfold Range.holdsDefault <;> decide
  | entry e i =>
    by_cases hi : i = .address
    · subst hi
      simp only [Range.holdsDefault, itemRange, entryItemRange]
      omega
    · exact others i e hi
  | qty q i =>
    have ordered := plausible_ordered q
    cases i <;> simp only [Range.holdsDefault, itemRange, qtyItemRange] <;> omega

theorem defaultSettings_inRange : defaultSettings.inRange := fun i => by
  rw [read_default]
  exact defaults_inRange i

theorem defaultSettings_legal : Settings.legal defaultSettings := by
  refine ⟨defaultSettings_inRange, ⟨fun c => ?_, ?_, ?_, ?_, fun q => ?_⟩, fun e x kind other _ hk _ hn => ?_⟩
  · simp only [read_default, itemRange]; decide
  · simp only [read_default, itemRange]; decide
  · simp only [read_default, itemRange]; decide
  · simp only [read_default, itemRange]; decide
  · simp only [read_default]; exact plausible_ordered q
  · exact absurd (hk.trans (by rw [read_default]; rfl)) hn

theorem defaultLimits_inRange : rowsInRange defaultLimits := by
  have rows : ∀ l, (limitRange l).lo ≤ (limitRange l).dflt ∧ (limitRange l).dflt ≤ (limitRange l).hi := by decide
  intro l
  simpa [defaultLimits] using rows l

/-! ### The settings, limit rows and copies (R136, R174, R177, R178) -/

theorem sslLegal_reads : Reads [.ssl] fun s => s.ssl.legal := fun {m s t} frame apart h => by
  have same : t.ssl = s.ssl := frame.ssl (apart _ (by simp))
  simpa [same] using h

section Stores

variable {s : State}

theorem withItem_legal (h : s.ssl.legal) {i : Item} {v : Int} (hv : s.valueOk i v = true) :
    (s.withItem i v).ssl.legal := by
  obtain ⟨⟨range, order, stations, force⟩, kept⟩ := h
  obtain ⟨range, order, stations⟩ := write_legal ⟨range, order, stations⟩ hv
  exact ⟨⟨range, order, stations, force⟩, kept⟩

/-- The blocks that take a written item, and a retirement, leave the settings. -/
theorem applyItem_ssl (i : Item) (v : Int) : (s.applyItem i v).ssl = (s.withItem i v).ssl := by
  have frame : Frame (touchesWritten (some i)) (s.withItem i v) (s.applyItem i v) :=
    .retireChanged (.itemTaken (.refl _ _) (touchesTaken_written i)) (List.Subset.refl _)
  refine frame.ssl ?_
  cases i <;> simp [touchesWritten, touchesTaken]

theorem setItem_legal (h : s.ssl.legal) (i : Item) (v : Int) : (State.setItem i v s).1.ssl.legal := by
  unfold State.setItem
  by_cases hv : s.valueOk i v = true
  · rw [if_neg (by simp [hv])]
    split
    · exact h
    · split
      · exact h
      · split
        · exact h
        · rw [applyItem_ssl]
          exact withItem_legal h hv
  · rw [if_pos (by simpa using hv)]
    exact h

/-- A limit row written in its range. -/
theorem setRow_legal {b : Bank Int 55} (h : rowsInRange b) {l : RowNo} {v : Int}
    (hv : (limitRange l).lo ≤ v ∧ v ≤ (limitRange l).hi) : rowsInRange (b.set l v) := fun j => by
  rw [Bank.get_set]
  split
  next hj => exact hj ▸ hv
  next => exact h j

/-- SCM's taking of a limit row leaves the settings. -/
theorem applyLimit_ssl (l : RowNo) (v : Int) :
    (s.applyLimit l v).ssl = { s.ssl with limits := s.ssl.limits.set l v } :=
  (Frame.limitTaken (l := [.scm, .handed]) (.refl _ _) (by decide)).ssl (by decide)

theorem setLimit_legal (h : s.ssl.legal) (l : Nat) (v : Int) : (State.setLimit l v s).1.ssl.legal := by
  obtain ⟨⟨range, order, stations, rows, boundary⟩, kept⟩ := id h
  unfold State.setLimit
  split
  · exact h
  · split
    · exact h
    next hv =>
      split
      · exact h
      · split
        · exact h
        · rw [applyLimit_ssl]
          exact ⟨⟨range, order, stations, setRow_legal rows (not_not.1 hv), boundary⟩, kept⟩

theorem setHostLock_legal (h : s.ssl.legal) (b g) : (State.setHostLock b g s).1.ssl.legal := by
  unfold State.setHostLock
  split <;> exact h

theorem operateBoundary_legal (h : s.ssl.legal) {p : Nat} (hp : p ≤ 55) : (State.operateBoundary p s).1.ssl.legal := by
  obtain ⟨⟨range, order, stations, rows, -⟩, kept⟩ := id h
  unfold State.operateBoundary
  split
  · exact h
  · exact ⟨⟨range, order, stations, rows, hp⟩, kept⟩

theorem operateLock_legal (h : s.ssl.legal) : s.operateLock.1.ssl.legal := by
  obtain ⟨⟨range, order, stations, rows, boundary⟩, copies, -⟩ := id h
  unfold State.operateLock
  split
  · exact h
  · exact ⟨⟨range, order, stations, rows, boundary⟩, copies, fun r hr => by cases hr; exact ⟨rows, boundary⟩⟩

theorem store_legal (h : s.ssl.legal) : s.store.1.ssl.legal := by
  obtain ⟨force, copies, record⟩ := id h
  unfold State.store
  split
  · exact h
  · refine ⟨force, fun c hc => ?_, record⟩
    rcases hc with hc | hc
    · exact copies c (.inl hc)
    · cases hc
      exact force

theorem storePassed_legal (h : s.ssl.legal) {c : StoredCopy} (hc : s.ssl.storing = some c) :
    (s.storePassed c).ssl.legal := by
  obtain ⟨force, copies, record⟩ := h
  refine ⟨force, fun x hx => ?_, record⟩
  rcases hx with hx | hx
  · cases hx
    exact copies c (.inr hc)
  · cases hx

theorem storeFailed_legal (h : s.ssl.legal) : s.storeFailed.ssl.legal := by
  obtain ⟨force, -, record⟩ := h
  refine ⟨force, fun x hx => ?_, record⟩
  rcases hx with hx | hx <;> cases hx

theorem protectedRows_inRange {record : Option CommRecord} (hr : ∀ r, record = some r → rowsInRange r.limits)
    {rows : Bank Int 55} (h : rowsInRange rows) : rowsInRange (protectedRows record rows) := fun l => by
  unfold protectedRows
  split
  next r =>
    rw [Bank.get_ofFn]
    split
    · exact hr r rfl l
    · exact h l
  next => exact h l

theorem sslAtPowerOn_legal {copy : Option StoredCopy} {record : Option CommRecord}
    (hc : ∀ c, copy = some c → c.settings.inRange ∧ c.settings.inOrder ∧ c.settings.stationsApart
      ∧ rowsInRange c.limits ∧ c.boundary ≤ 55)
    (hr : ∀ r, record = some r → rowsInRange r.limits ∧ r.boundary ≤ 55) : (sslAtPowerOn copy record).legal := by
  have rows {b : Bank Int 55} (hb : rowsInRange b) : rowsInRange (protectedRows record b) :=
    protectedRows_inRange (fun r h => (hr r h).1) hb
  refine ⟨?_, fun c h => h.elim (hc c) nofun, hr⟩
  cases copy with
  | none =>
    obtain ⟨range, order, stations⟩ := defaultSettings_legal
    refine ⟨range, order, stations, rows defaultLimits_inRange, ?_⟩
    cases record with
    | none => exact Nat.zero_le _
    | some r => exact (hr r rfl).2
  | some c =>
    obtain ⟨range, order, stations, limits, p⟩ := hc c rfl
    refine ⟨range, order, stations, rows limits, ?_⟩
    cases record with
    | none => exact p
    | some r => exact (hr r rfl).2

theorem copyAtPowerOn_of {passes : Bool} {c : StoredCopy} (h : s.copyAtPowerOn passes = some c) :
    s.ssl.copy = some c := by
  unfold State.copyAtPowerOn at h
  split at h
  · exact h
  · cases h

theorem recordAtPowerOn_of {k : StoreChecks} {r : CommRecord} (h : s.recordAtPowerOn k = some r) :
    s.ssl.record = some r := by
  unfold State.recordAtPowerOn at h
  split at h
  · exact h
  · cases h

end Stores

/-- Every step keeps the settings, limit rows and copies ones the chapters allow. -/
theorem sslLegal_kept : Kept fun s => s.ssl.legal := by
  refine sslLegal_reads.kept (by decide) fun i s t touched ht h => ?_
  cases i <;> simp [touches] at touched
  case powerOn =>
    refine sslLegal_reads (powerOn_frame ht) (by decide) ?_
    exact sslAtPowerOn_legal (fun c hc => h.2.1 c (.inl (copyAtPowerOn_of hc)))
      fun r hr => h.2.2 r (recordAtPowerOn_of hr)
  case operateSetBoundary p =>
    obtain rfl := next_inj ht
    by_cases hp : p ≤ 55
    · exact sslLegal_reads.operate (by decide) h fun u hu => operateBoundary_legal hu hp
    · have refused : s.operate .setBoundary p (decide (p ≤ 55)) (State.operateBoundary p)
          = s.operate .setBoundary p false fun u => (u, .ok) := by simp [State.operate, hp]
      exact refused ▸ sslLegal_reads.operate (by decide) h fun u hu => hu
  case operateCommissionLock =>
    obtain rfl := next_inj ht
    exact sslLegal_reads.operate (by decide) h fun u hu => operateLock_legal hu
  case setParam g i v =>
    obtain rfl := next_inj ht
    refine sslLegal_reads.serve (by decide) h fun u hu => ?_
    unfold onItem
    split
    · exact setItem_legal hu _ v
    · exact hu
  case lockGroup | unlockGroup =>
    obtain rfl := next_inj ht
    exact sslLegal_reads.serve (by decide) h fun u hu => setHostLock_legal hu _ _
  case setLimit l v =>
    obtain rfl := next_inj ht
    exact sslLegal_reads.serve (by decide) h fun u hu => setLimit_legal hu l v
  case store =>
    obtain rfl := next_inj ht
    exact sslLegal_reads.serve (by decide) h fun u hu => store_legal hu
  case storeComplete passes =>
    obtain rfl := next_inj ht
    split
    · exact h
    next c hc =>
      exact inv_ite (inv := fun s => s.ssl.legal) (fun _ => storePassed_legal h hc) fun _ => storeFailed_legal h
  case settingChangeTaken what old =>
    rcases what with i | l
    · cases i <;> simp [touchesTaken] at touched
    · simp [touchesTaken] at touched

/-! ### The tables (R3, R4, R14, R180) -/

theorem tablesLegal_reads : Reads [.tip, .ssl] State.tablesLegal := fun {m s t} frame apart h => by
  have tip : t.tip = s.tip := frame.tip (apart _ (by simp))
  have ssl : t.ssl = s.ssl := frame.ssl (apart _ (by simp))
  simpa [State.tablesLegal, State.tbl, tip, ssl] using h

section Tables

variable {s t : State}

/-- The copies and the tables stand. -/
theorem tablesLegal_of_eq (h : s.tablesLegal) (tip : t.tip = s.tip) (copy : t.ssl.copy = s.ssl.copy)
    (storing : t.ssl.storing = s.ssl.storing) : t.tablesLegal := by
  unfold State.tablesLegal State.tbl
  rw [tip, copy, storing]
  exact h

theorem factory_wellFormed (n : TableName) : wellFormedAs n (factoryTip.table n).entries := by
  unfold wellFormedAs
  cases n <;> decide

/-- One table replaced by a well-formed one. -/
theorem withTable_wellFormed (h : ∀ m, wellFormedAs m (s.tbl m)) {n : TableName} {x : Table}
    (hx : offendingIndex n x.entries.rows = none) (m : TableName) :
    wellFormedAs m ((s.tip.withTable n x).table m).entries := by
  by_cases hm : m = n
  · subst hm
    cases m <;> exact hx
  · have other : (s.tip.withTable n x).table m = s.tip.table m := by
      cases n <;> cases m <;> first | rfl | exact absurd rfl hm
    exact other ▸ h m

theorem loadTable_legal (h : s.tablesLegal) (name l) : (State.loadTable name l s).1.tablesLegal := by
  unfold State.loadTable
  split
  · exact h
  · split
    · split
      · exact h
      · split
        · exact h
        · split
          · exact h
          · exact ⟨withTable_wellFormed h.1 ‹_›, h.2⟩
    · exact h

theorem store_tables (h : s.tablesLegal) : s.store.1.tablesLegal := by
  unfold State.store
  split
  · exact h
  · refine ⟨h.1, fun c hc => ?_⟩
    rcases hc with hc | hc
    · exact h.2 c (.inl hc)
    · cases hc
      exact ⟨h.1 .silica, h.1 .psat, h.1 .curve⟩

theorem storePassed_tables (h : s.tablesLegal) {c : StoredCopy} (hc : s.ssl.storing = some c) :
    (s.storePassed c).tablesLegal := by
  refine ⟨fun n => ?_, fun x hx => ?_⟩
  · have entries : (s.storePassed c).tbl n = s.tbl n := by cases n <;> rfl
    exact entries ▸ h.1 n
  · rcases hx with hx | hx
    · cases hx
      exact h.2 c (.inr hc)
    · cases hx

theorem storeFailed_tables (h : s.tablesLegal) : s.storeFailed.tablesLegal :=
  ⟨h.1, fun x hx => by rcases hx with hx | hx <;> cases hx⟩

theorem poweredOn_tables (h : s.tablesLegal) (straps tripIn passes record retained) :
    (s.poweredOn straps tripIn (s.copyAtPowerOn passes) record retained).tablesLegal := by
  have copied : ∀ c, s.copyAtPowerOn passes = some c → wellFormedAs .silica c.silica ∧ wellFormedAs .psat c.psat
      ∧ wellFormedAs .curve c.curve := fun c hc => h.2 c (.inl (copyAtPowerOn_of hc))
  generalize s.copyAtPowerOn passes = copy at copied
  refine ⟨fun n => ?_, fun c hc => hc.elim (copied c) nofun⟩
  cases copy with
  | none => exact factory_wellFormed n
  | some c =>
    obtain ⟨silica, psat, curve⟩ := copied c rfl
    cases n with
    | silica => exact silica
    | psat => exact psat
    | curve => exact curve

/-- What SET_PARAM, SET_LIMIT and the locks leave of the stores: the tables and the copies. -/
theorem setItem_tables (h : s.tablesLegal) (i v) : (State.setItem i v s).1.tablesLegal := by
  have applied : (s.applyItem i v).tablesLegal :=
    tablesLegal_of_eq h
      ((Frame.applyItem (.refl (.ssl :: touchesWritten (some i)) s) (by simp) (by simp)).tip
        (by cases i <;> simp [touchesWritten, touchesTaken]))
      (by rw [applyItem_ssl]; rfl) (by rw [applyItem_ssl]; rfl)
  unfold State.setItem
  split
  · exact h
  · split
    · exact h
    · split
      · exact h
      · split
        · exact h
        · exact applied

theorem setLimit_tables (h : s.tablesLegal) (l v) : (State.setLimit l v s).1.tablesLegal := by
  unfold State.setLimit
  split
  · exact h
  · split
    · exact h
    · split
      · exact h
      · split
        · exact h
        · exact tablesLegal_of_eq h ((Frame.limitTaken (l := [.scm, .handed]) (.refl _ _) (by decide)).tip (by decide))
            (by rw [applyLimit_ssl]) (by rw [applyLimit_ssl])

end Tables

/-- Every step keeps the tables in force and those of the copies well formed. -/
theorem tablesLegal_kept : Kept State.tablesLegal := by
  refine tablesLegal_reads.kept (by decide) fun i s t touched ht h => ?_
  cases i <;> simp [touches] at touched
  case powerOn => exact tablesLegal_reads (powerOn_frame ht) (by decide) (poweredOn_tables h _ _ _ _ _)
  case operateSetBoundary p =>
    obtain rfl := next_inj ht
    refine tablesLegal_reads.operate (by decide) h fun u hu => ?_
    unfold State.operateBoundary
    split <;> exact hu
  case operateCommissionLock =>
    obtain rfl := next_inj ht
    refine tablesLegal_reads.operate (by decide) h fun u hu => ?_
    unfold State.operateLock
    split <;> exact hu
  case loadTable name l =>
    obtain rfl := next_inj ht
    exact tablesLegal_reads.serve (by decide) h fun u hu => loadTable_legal hu name l
  case setParam g i v =>
    obtain rfl := next_inj ht
    refine tablesLegal_reads.serve (by decide) h fun u hu => ?_
    unfold onItem
    split
    · exact setItem_tables hu _ v
    · exact hu
  case lockGroup | unlockGroup =>
    obtain rfl := next_inj ht
    refine tablesLegal_reads.serve (by decide) h fun u hu => ?_
    unfold State.setHostLock
    split <;> exact hu
  case setLimit l v =>
    obtain rfl := next_inj ht
    exact tablesLegal_reads.serve (by decide) h fun u hu => setLimit_tables hu l v
  case store =>
    obtain rfl := next_inj ht
    exact tablesLegal_reads.serve (by decide) h fun u hu => store_tables hu
  case storeComplete passes =>
    obtain rfl := next_inj ht
    split
    · exact h
    next c hc => exact inv_ite (fun _ => storePassed_tables h hc) fun _ => storeFailed_tables h
  case settingChangeTaken what old =>
    rcases what with i | l
    · cases i <;> simp [touchesTaken] at touched
    · simp [touchesTaken] at touched

/-! ### The commissioning record (R179) -/

section Commissioned

variable {r : CommRecord} {s : State}

theorem commissioned_reads (r : CommRecord) : Reads [.ssl] fun s => s.ssl.commissioned r :=
  fun {m s t} frame apart h => by
    have same : t.ssl = s.ssl := frame.ssl (apart _ (by simp))
    simpa [same] using h

theorem setItem_commissioned (h : s.ssl.commissioned r) (i v) : (State.setItem i v s).1.ssl.commissioned r := by
  have applied : (s.applyItem i v).ssl.commissioned r := by
    rw [applyItem_ssl]
    exact h
  unfold State.setItem
  split
  · exact h
  · split
    · exact h
    · split
      · exact h
      · split
        · exact h
        · exact applied

/-- A row below P is refused; one from P on is no row of the record. -/
theorem setLimit_commissioned (h : s.ssl.commissioned r) (l v) : (State.setLimit l v s).1.ssl.commissioned r := by
  obtain ⟨record, locked, boundary, rows⟩ := id h
  unfold State.setLimit
  split
  · exact h
  · split
    · exact h
    · split
      · exact h
      · split
        · exact h
        next l _ _ _ hl =>
          rw [applyLimit_ssl]
          refine ⟨record, locked, boundary, fun j hj => ?_⟩
          have other : l ≠ j := by rintro rfl; exact hl (boundary ▸ hj)
          rw [Bank.get_set_ne _ _ other]
          exact rows j hj

theorem poweredOn_commissioned (h : s.ssl.commissioned r) {k : StoreChecks}
    (found : k.firstRecord = true ∨ k.secondRecord = true) (straps tripIn copy retained) :
    (s.poweredOn straps tripIn copy (s.recordAtPowerOn k) retained).ssl.commissioned r := by
  have record : s.recordAtPowerOn k = some r := by
    unfold State.recordAtPowerOn
    rw [if_pos (by simpa using found)]
    exact h.1
  rw [record]
  refine ⟨rfl, rfl, rfl, fun l hl => ?_⟩
  change (protectedRows (some r) _).get l = r.limits.get l
  simp [protectedRows, hl]

/-- Every command keeps the record in force, but for a power-on that finds both its copies failing. -/
theorem exec_commissioned {i : Instr} {t : State} (h : s.ssl.commissioned r) (ht : exec i s = .next t)
    (found : ∀ straps tripIn k kept, i = .powerOn straps tripIn k kept →
      k.firstRecord = true ∨ k.secondRecord = true) : t.ssl.commissioned r := by
  have reads := @commissioned_reads r
  by_cases touched : Part.ssl ∈ touches i
  swap
  · exact reads (.of_exec ht) (by simpa using touched) h
  cases i <;> simp [touches] at touched
  case powerOn straps tripIn k kept =>
    exact reads (powerOn_frame ht) (by decide) (poweredOn_commissioned h (found _ _ _ _ rfl) _ _ _ _)
  case operateSetBoundary p =>
    obtain rfl := next_inj ht
    refine reads.operate (by decide) h fun u hu => ?_
    rw [State.operateBoundary, if_pos hu.2.1]
    exact hu
  case operateCommissionLock =>
    obtain rfl := next_inj ht
    refine reads.operate (by decide) h fun u hu => ?_
    rw [State.operateLock, if_pos hu.2.1]
    exact hu
  case setParam g i v =>
    obtain rfl := next_inj ht
    refine reads.serve (by decide) h fun u hu => ?_
    unfold onItem
    split
    · exact setItem_commissioned hu _ v
    · exact hu
  case lockGroup | unlockGroup =>
    obtain rfl := next_inj ht
    refine reads.serve (by decide) h fun u hu => ?_
    unfold State.setHostLock
    split <;> exact hu
  case setLimit l v =>
    obtain rfl := next_inj ht
    exact reads.serve (by decide) h fun u hu => setLimit_commissioned hu l v
  case store =>
    obtain rfl := next_inj ht
    refine reads.serve (by decide) h fun u hu => ?_
    unfold State.store
    split <;> exact hu
  case storeComplete passes =>
    obtain rfl := next_inj ht
    split
    · exact h
    · split <;> exact h
  case settingChangeTaken what old =>
    rcases what with i | l
    · cases i <;> simp [touchesTaken] at touched
    · simp [touchesTaken] at touched

/-- A step runs the head of the queue and of the events handed behind it, or idles. -/
theorem step_commissioned {t : State} (h : s.ssl.commissioned r) (ht : step s = .next t)
    (found : ∀ straps tripIn k kept, (s.pending ++ s.handed).head? = some (.powerOn straps tripIn k kept) →
      k.firstRecord = true ∨ k.secondRecord = true) : t.ssl.commissioned r := by
  unfold step at ht
  split at ht
  next c rest hq =>
    exact exec_commissioned (s := { s with pending := rest }) h ht
      fun a b k d hc => found a b k d (by simp [hq, hc])
  next hq =>
    split at ht
    next e rest he => exact exec_commissioned h ht fun a b k d hc => found a b k d (by simp [hq, he, hc])
    next => exact next_inj ht ▸ h

end Commissioned

/-- Settles O59: each invariant is kept by every command that changes the part it reads. -/
theorem storesStayLegal : Obligations.StoresStayLegal :=
  ⟨sslLegal_kept, tablesLegal_kept, fun _ _ _ h ht found => step_commissioned h ht found, altLegal_kept,
    storesBounded_kept, queuesLegal_kept⟩

end Sys2Proof.Proofs

/-! PROOFS. The step and the port: the queue, requests and their replies, the selection, notices and the plant time
(chapter 12). -/

namespace Sys2Proof.Proofs

open Sys2Proof.Machine

/-- Settles O1: the step's match over the two queues, case by case. -/
theorem stepRunsTheFrontCommand : Obligations.StepRunsTheFrontCommand := by
  intro s
  refine ⟨fun c rest hq => ?_, fun hq => ⟨fun e rest he => ?_, fun he => ?_⟩⟩
  · unfold step
    rw [hq]
  · unfold step
    rw [hq]
    dsimp only
    rw [he]
  · unfold step
    rw [hq]
    dsimp only
    rw [he]

/-- Settles O3: a request's row and LINK_OVERRUN both test the port first. -/
theorem busyPortDiscardsRequests : Obligations.BusyPortDiscardsRequests := by
  rintro i k s (hk | rfl) busy
  · obtain ⟨u, st, c, he, -⟩ := request_answered hk s
    rw [he, if_pos busy]
    rfl
  · exact congrArg Host.Outcome.next (if_pos busy)

theorem answer_reply (s : State) (k : Byte) (st : Status) (c : Content) :
    (s.answer k st c).svp.reply = some ⟨k, st, s.portFlags, c⟩ := rfl

/-- Settles O4: the reply shows the flags of the state its owner leaves, which differ from those before by what it
shows of STORE and of the alarms and by notices lost. -/
theorem everyRequestIsAnswered : Obligations.EveryRequestIsAnswered := by
  intro i k s hk idle
  obtain ⟨u, st, c, he, notes, selection⟩ := request_answered hk s
  rw [if_neg (by simp [Laws.portIdle_noReply idle])] at he
  refine ⟨_, _, he, answer_reply u k st c, rfl, notes.linkOverrun, notes.lost, ?_, ?_, rfl, rfl, rfl, rfl, rfl,
    selection⟩
  · exact congrArg (u.storeBusy || ·) notes.storeBusySeen
  · exact congrArg (u.ssl.storeFault || ·) notes.storeFaultSeen

/-! ### SELECT and OPERATE (R188, R189) -/

theorem selRange_iff (o : SelObject) (a : Nat) : selRange o a = true ↔ a ≤ lastArg o := by
  cases o <;> simp [selRange, lastArg] <;> omega

theorem exec_operateOf (o : SelObject) (a : Nat) (s : State) :
    ∃ owner, exec (operateOf o a) s = .next (s.operate o a (selRange o a) owner) := by
  cases o <;> exact ⟨_, rfl⟩

theorem exec_select {s : State} (idle : s.portIdle) (o : SelObject) (a : Nat) :
    exec (.select (some o) a) s = .next (if selRange o a
      then { s with svp := { s.svp with selection := some (o, a) } }.answer 0x03 .ok .none
      else s.deselect.answer 0x03 .badValue .none) := by
  refine congrArg Host.Outcome.next ((Laws.serve_idle idle).trans ?_)
  unfold State.selectAnswer
  dsimp only
  split <;> rfl

/-- Settles O5: the answers of SELECT and OPERATE by the selection, and the end of a reply by `restartDue`. -/
theorem selectOperateAndRestart : Obligations.SelectOperateAndRestart := by
  refine ⟨fun s o a => ⟨rfl, fun idle => ⟨fun ha => ?_, fun ha => ?_, ?_, fun ha hs => ?_, fun ha => ?_⟩⟩,
    fun s => ⟨fun idle hs => ?_, fun hr hn hd => ?_, fun hr hn hd => ?_, fun h => ?_⟩⟩
  · rw [exec_select idle, if_pos ((selRange_iff o a).2 ha)]
  · rw [exec_select idle, if_neg (by rw [selRange_iff]; omega)]
    rfl
  · exact congrArg Host.Outcome.next (Laws.serve_idle idle)
  · obtain ⟨owner, he⟩ := exec_operateOf o a s
    rw [he, Laws.operate_notSelected idle ((selRange_iff o a).2 ha) hs]
    rfl
  · obtain ⟨owner, he⟩ := exec_operateOf o a s
    rw [he, Laws.operate_badValue idle (by rw [Bool.eq_false_iff, ne_eq, selRange_iff]; omega)]
    rfl
  · exact congrArg Host.Outcome.next (Laws.operate_selected idle (by decide) hs)
  · refine congrArg Host.Outcome.next ((if_pos (by simp [hr, hn])).trans ?_)
    rw [State.endReply, if_pos hd]
    rfl
  · refine congrArg Host.Outcome.next ((if_pos (by simp [hr, hn])).trans ?_)
    rw [State.endReply, if_neg (by simp [hd])]
    rw [← hd]
  · refine congrArg Host.Outcome.next (if_neg ?_)
    rcases h with h | h <;> simp [h]

/-! ### Notices (R186, R187) -/

theorem noticeKind_apart (n : Notice) : noticeKind n ∉ catalogue := by
  have kinds : 0xE1#8 ∉ catalogue ∧ 0xE2#8 ∉ catalogue ∧ 0xE3#8 ∉ catalogue := by decide
  cases n with
  | alarm => exact kinds.1
  | state => exact kinds.2.1
  | seq => exact kinds.2.2

theorem exec_badKind {s : State} (idle : s.portIdle) {k : Byte} (hk : k ∉ catalogue) :
    exec (.badKind k) s = .next ({ s with svp := { s.svp with selection := none } }.answer k .badKind .none) := by
  refine congrArg Host.Outcome.next ((Laws.serve_idle idle).trans ?_)
  simp only [if_neg hk]
  rfl

/-- Settles O6: the queue's two branches, and the tests of a notice's start and end. -/
theorem noticesQueueAndGoOut : Obligations.NoticesQueueAndGoOut := by
  intro s n
  refine ⟨⟨?_, ?_, ?_, fun idle => exec_badKind idle (noticeKind_apart n)⟩, fun room => ?_, fun full => ?_,
    fun hr hn hq => ?_, fun h => ?_, fun hs => ?_, fun hs => ?_⟩
  · rintro e m rfl
    rfl
  · rintro x a b c rfl
    rfl
  · rintro k a b p f rfl
    rfl
  · exact congrArg (fun v => { s with svp := v }) (Laws.queue_room room)
  · exact congrArg (fun v => { s with svp := v }) (Laws.queue_full full)
  · exact congrArg Host.Outcome.next (if_pos (by simp [hr, hn, hq]))
  · refine congrArg Host.Outcome.next (if_neg ?_)
    rcases h with h | h | h
    · simp [Option.isSome_iff_ne_none.1 h]
    · simp [h]
    · simp [h]
  · exact congrArg Host.Outcome.next (if_pos hs)
  · exact congrArg Host.Outcome.next (if_neg (by simp [hs]))

/-- Settles O8: each row's own effect. -/
theorem portRequestsAndEvents : Obligations.PortRequestsAndEvents := by
  intro s now k
  refine ⟨fun idle => ?_, fun idle => ?_, rfl, rfl, fun idle => exec_badKind idle, fun idle hk => ?_⟩
  · exact congrArg Host.Outcome.next (Laws.serve_idle idle)
  · exact congrArg Host.Outcome.next (Laws.serve_idle idle)
  · refine congrArg Host.Outcome.next ((Laws.serve_idle idle).trans ?_)
    simp only [if_pos hk]
    rfl

end Sys2Proof.Proofs

/-! PROOFS. The state after reset, the reads, and the stores: what they hold and answer (chapters 1 to 12). -/

namespace Sys2Proof.Proofs

open Sys2Proof.Machine

/-! ### The state after reset (R2, R181) -/

/-- Settles O11: the defaults of every item and row, and the reset state's own records. -/
theorem resetHoldsTheDefaults : Obligations.ResetHoldsTheDefaults :=
  ⟨read_default, fun l => Bank.get_ofFn _ l, rfl, rfl, rfl, rfl, rfl, rfl, rfl, rfl⟩

theorem newWell_legal : newWell.legal := by
  unfold Well.legal
  decide

/-- Settles O60: each invariant of the records that a reset writes. -/
theorem resetMeetsEveryInvariant : Obligations.ResetMeetsEveryInvariant := by
  obtain ⟨range, order, stations⟩ := defaultSettings_legal
  refine ⟨⟨by decide, fun h => absurd h (by decide)⟩, fun _ => rfl, fun c => ?_, fun q => ?_,
    ⟨fun k _ => ?_, fun j k _ x hx => ?_⟩,
    ⟨⟨range, order, stations, defaultLimits_inRange, Nat.zero_le _⟩, fun c hc => ?_, nofun⟩,
    ⟨factory_wellFormed, fun c hc => ?_⟩, ⟨by decide, by decide, by decide⟩, ⟨by decide, by decide⟩,
    ⟨List.nodup_nil, List.nodup_nil⟩, rfl⟩
  · simpa [State.reset] using newWell_legal
  · simpa [State.reset] using newQty_legal
  · simp [State.reset, newSlot]
  · simp [State.reset, newSlot] at hx
  · rcases hc with hc | hc <;> cases hc
  · rcases hc with hc | hc <;> cases hc

/-! ### Reads -/

section Reads

variable {s : State} {i : Instr} {k : Byte}

/-- A request taken at an idle port is answered from what its owner answers. -/
theorem exec_of_serve {owner : State → Answer} {u : State} {st : Status} {c : Content} (idle : s.portIdle)
    (he : exec i s = .next (s.serve k owner)) (ho : owner s.deselect = (u, st, c)) :
    exec i s = .next (u.answer k st c) := by
  rw [he, Laws.serve_idle idle, ho]

/-- An OPERATE of the object selected is answered from what its owner answers. -/
theorem exec_of_operate {o : SelObject} {a : Nat} {ok : Bool} {owner : State → State × Status} {u : State}
    {st : Status} (idle : s.portIdle) (hs : s.svp.selection = some (o, a))
    (he : exec i s = .next (s.operate o a ok owner)) (hok : ok = true) (ho : owner s.deselect = (u, st)) :
    exec i s = .next (u.answer 0x04 st .none) := by
  rw [he, Laws.operate_selected idle hok hs, ho]

/-- A request whose owner changes nothing answers and changes nothing else. -/
theorem onlyAnswers_of_serve {owner : State → Answer} {st : Status} {c : Content} (idle : s.portIdle)
    (he : exec i s = .next (s.serve k owner)) (ho : owner s.deselect = (s.deselect, st, c)) :
    s.onlyAnswers i k st c := exec_of_serve idle he ho

/-- A request about a channel that exists. -/
theorem onWell_fin (c : WellNo) (f : WellNo → State → Answer) (s : State) : onWell c f s = f c s := by
  rw [onWell, Laws.indexArg_fin]

theorem onWell_ge {n : Nat} (h : 16 ≤ n) (f : WellNo → State → Answer) (s : State) :
    onWell n f s = s.says .badValue := by
  rw [onWell, Laws.indexArg_ge h]

theorem onSlot_fin (c : SlotNo) (f : SlotNo → State → Answer) (s : State) : onSlot c f s = f c s := by
  rw [onSlot, Laws.indexArg_fin]

theorem onSlot_ge {n : Nat} (h : 4 ≤ n) (f : SlotNo → State → Answer) (s : State) :
    onSlot n f s = s.says .badValue := by
  rw [onSlot, Laws.indexArg_ge h]

end Reads

/-- Settles O19: each read's answer is the record as it stands. -/
theorem readsOfWholeBlocks : Obligations.ReadsOfWholeBlocks := fun _ idle =>
  ⟨onlyAnswers_of_serve idle rfl rfl, onlyAnswers_of_serve idle rfl rfl, onlyAnswers_of_serve idle rfl rfl,
    onlyAnswers_of_serve idle rfl rfl, onlyAnswers_of_serve idle rfl rfl, onlyAnswers_of_serve idle rfl rfl,
    onlyAnswers_of_serve idle rfl rfl, onlyAnswers_of_serve idle rfl rfl, onlyAnswers_of_serve idle rfl rfl⟩

/-! #### The reads of named records -/

section Named

variable {s : State}

theorem readWell_answers (idle : s.portIdle) (c : WellNo) :
    s.onlyAnswers (.readWell c) 0x31 .ok (.well (s.wcc.get c) (s.role c)) :=
  onlyAnswers_of_serve idle rfl (onWell_fin c _ _)

theorem readScaling_answers (idle : s.portIdle) (c : WellNo) :
    s.onlyAnswers (.readScaling (some (.calcite c))) 0x20 .ok (.calcite (s.scm.calcite.get c) (s.role c))
    ∧ s.onlyAnswers (.readScaling (some (.fouling (.well c)))) 0x20 .ok
      (.fouling (s.scm.fouling.get c) (s.wellSet c .ratedFlow)) := by
  constructor <;> refine onlyAnswers_of_serve idle rfl ?_ <;> rw [State.readScaling, Laws.indexArg_fin] <;> rfl

theorem readScaling_refuses (idle : s.portIdle) {k : Nat} (hk : 16 ≤ k) :
    s.onlyAnswers (.readScaling (some (.calcite k))) 0x20 .badValue
    ∧ s.onlyAnswers (.readScaling (some (.fouling (.well k)))) 0x20 .badValue := by
  constructor <;> refine onlyAnswers_of_serve idle rfl ?_ <;> rw [State.readScaling, Laws.indexArg_ge hk] <;> rfl

theorem readField_answers (idle : s.portIdle) (e : EntryNo) :
    s.onlyAnswers (.readField (.entry e)) 0x48 .ok (s.entryView e) := by
  refine onlyAnswers_of_serve idle rfl ?_
  rw [State.readField, Laws.indexArg_fin]
  rfl

theorem readField_refuses (idle : s.portIdle) {e : Nat} (he : 24 ≤ e) :
    s.onlyAnswers (.readField (.entry e)) 0x48 .badValue := by
  refine onlyAnswers_of_serve idle rfl ?_
  rw [State.readField, Laws.indexArg_ge he]
  rfl

theorem evalTableForward_answers (idle : s.portIdle) (n : TableName) {u : Int} (lo : -3000 ≤ u) (hi : u ≤ 3000) :
    s.onlyAnswers (.evalTableForward (some n) u) 0x1A .ok
      (.forward (forward n (s.tbl n) u).1 (forward n (s.tbl n) u).2) :=
  onlyAnswers_of_serve idle rfl (if_pos ⟨lo, hi⟩)

theorem evalTableForward_refuses (idle : s.portIdle) (n : Option TableName) (u : Int)
    (h : n = none ∨ u < -3000 ∨ 3000 < u) : s.onlyAnswers (.evalTableForward n u) 0x1A .badValue := by
  refine onlyAnswers_of_serve idle rfl ?_
  cases n with
  | none => rfl
  | some n => exact if_neg (by rcases h with h | h <;> simp_all; omega)

theorem evalTableInverse_refuses (idle : s.portIdle) (n : Option TableName) (c m : Int)
    (h : n ≠ some .silica ∨ c < 0 ∨ 2000 < c ∨ m < 0 ∨ 500 < m) :
    s.onlyAnswers (.evalTableInverse n c m) 0x1A .badValue := by
  refine onlyAnswers_of_serve idle rfl (if_neg ?_)
  rintro ⟨hn, _, _, _, _⟩
  rcases h with h | h
  · exact h hn
  · omega

theorem getParam_answers (idle : s.portIdle) (i : Item) :
    s.onlyAnswers (.getParam (some (itemGroup i)) (some i)) 0x71 .ok
      (.param (s.item i) (itemRange i).lo (itemRange i).hi (s.lockState (itemGroup i))) := by
  refine onlyAnswers_of_serve idle rfl ?_
  simp only [onItem, existing, if_true]
  rfl

theorem existing_none {g : Option Group} {i : Option Item} (h : ∀ j, i = some j → g ≠ some (itemGroup j)) :
    existing g i = none := by
  unfold existing
  split
  next g j => exact if_neg fun he : itemGroup j = g => h j rfl (congrArg some he.symm)
  next => rfl

theorem getParam_refuses (idle : s.portIdle) {g : Option Group} {i : Option Item}
    (h : ∀ j, i = some j → g ≠ some (itemGroup j)) : s.onlyAnswers (.getParam g i) 0x71 .badValue := by
  refine onlyAnswers_of_serve idle rfl ?_
  rw [onItem, existing_none h]
  rfl

/-- READ_QTY's list: `count` quantities from `first` on, in index order (R28). -/
theorem readQty_answers (idle : s.portIdle) {first count : Nat} (lo : 1 ≤ count) (hi : count ≤ 24)
    (hf : first ≤ 114) (h : first + count ≤ 115) :
    s.onlyAnswers (.readQty first count) 0x10 .ok
      (.qtys ((((List.finRange 115).drop first).take count).map s.viewOf)) :=
  onlyAnswers_of_serve idle rfl (if_pos ⟨lo, hi, hf, h⟩)

theorem viewOf_spec (s : State) (q : QtyNo) :
    ∃ v, s.viewOf q = ⟨q, (s.qtb.get q).state, v, (s.qtb.get q).prime, (s.qtb.get q).run, (s.qtb.get q).lastGood,
        if q = qSilica then (s.qtb.get q).sampleNo else none⟩
      ∧ ((s.qtb.get q).state = .unprimed → v = none)
      ∧ ((s.qtb.get q).state ≠ .unprimed →
        ∃ r, v = some r ∧ 16 * r - 8 ≤ (s.qtb.get q).y ∧ (s.qtb.get q).y < 16 * r + 8) := by
  refine ⟨_, rfl, fun hu => if_pos hu, fun hu => ⟨_, if_neg hu, ?_⟩⟩
  unfold reportedOf
  omega

end Named

/-- Settles O20: each read's answer by the bounds of what it names. -/
theorem readsOfNamedRecords : Obligations.ReadsOfNamedRecords := by
  refine ⟨fun s idle => ⟨fun c => ⟨readWell_answers idle c, readScaling_answers idle c⟩,
    onlyAnswers_of_serve idle rfl rfl, onlyAnswers_of_serve idle rfl rfl,
    fun k hk => ⟨onlyAnswers_of_serve idle rfl (onWell_ge hk _ _), readScaling_refuses idle hk⟩,
    readField_answers idle, fun e he => readField_refuses idle he,
    fun k => onlyAnswers_of_serve idle rfl (onSlot_fin k _ _),
    fun k hk => onlyAnswers_of_serve idle rfl (onSlot_ge hk _ _),
    fun n => onlyAnswers_of_serve idle rfl rfl, onlyAnswers_of_serve idle rfl rfl,
    fun n u => evalTableForward_answers idle n, evalTableForward_refuses idle,
    fun c m h1 h2 h3 h4 => onlyAnswers_of_serve idle rfl (if_pos ⟨rfl, h1, h2, h3, h4⟩),
    evalTableInverse_refuses idle,
    fun first count h1 h2 h3 => onlyAnswers_of_serve idle rfl (if_pos ⟨h1, h2, h3⟩),
    fun first count h => onlyAnswers_of_serve idle rfl (if_neg (by omega)),
    fun o => onlyAnswers_of_serve idle rfl rfl, onlyAnswers_of_serve idle rfl rfl,
    getParam_answers idle, fun g i => getParam_refuses idle⟩,
    fun s first count idle => ⟨fun h1 h2 h3 h4 => ⟨_, readQty_answers idle h1 h2 h3 h4, ?_, fun j hj hc => ?_⟩,
      fun h => onlyAnswers_of_serve idle rfl (if_neg (by omega)), viewOf_spec s⟩⟩
  · simp
    omega
  · simp [List.getElem?_drop, hc, hj]

/-! ### SCM's reports of a well (R42, R43) -/

/-- The calcite record of a channel reported as entering RUNNING or as staying outside it. -/
theorem scmWellState_notes {s : State} (c : WellNo) {old new : WellState} (h : ¬(old = .running ∧ new ≠ .running)) :
    s.scmWellState c old new
      = s.setCalcite c { s.scm.calcite.get c with running := decide (new = .running) } := if_neg h

/-- A channel leaving RUNNING: its feed run ends and CALCITE_RISK is cleared (R42). -/
theorem scmWellState_leaves {s : State} (c : WellNo) {new : WellState} (h : new ≠ .running) :
    s.scmWellState c .running new
      = (s.setCalcite c { s.scm.calcite.get c with running := false, feedRun := 0, state := .none }).hand
        (if (s.scm.calcite.get c).state = .none then [] else [.alarmClear .calciteRisk (.well c)]) := by
  refine (if_pos ⟨rfl, h⟩).trans ?_
  simp [feedIsGood, State.setCalcite, State.hand, Laws.set_set, h]

theorem scmRoleChange_production {s : State} {c : WellNo} :
    exec (.scmRoleChange c .production) s = .next (s.took (.scmRoleChange c .production)) := rfl

theorem scmRoleChange_other {s : State} {c : WellNo} {role : Role} (h : role ≠ .production) :
    exec (.scmRoleChange c role) s = .next ((s.took (.scmRoleChange c role)).resetWellWatch c) :=
  congrArg Host.Outcome.next (if_neg h)

/-- What a report of a channel's change of state leaves of SCM and hands on. -/
theorem exec_scmWellState (s : State) (c : WellNo) (old new : WellState) (k : Option WellCause) :
    ∃ t, exec (.scmWellState c (old, new) k) s = .next t ∧ t.scm = { s.scm with calcite := t.scm.calcite }
      ∧ (∀ d, d ≠ c → t.scm.calcite.get d = s.scm.calcite.get d)
      ∧ (old = .running → new ≠ .running →
        t.scm.calcite.get c = { s.scm.calcite.get c with running := false, feedRun := 0, state := .none }
        ∧ t.handed = s.handed.erase (.scmWellState c (old, new) k)
          ++ if (s.scm.calcite.get c).state = .none then [] else [.alarmClear .calciteRisk (.well c)])
      ∧ (old ≠ .running ∨ new = .running →
        t.scm.calcite.get c = { s.scm.calcite.get c with running := decide (new = .running) }
        ∧ t.handed = s.handed.erase (.scmWellState c (old, new) k)) := by
  by_cases leaves : old = .running ∧ new ≠ .running
  · obtain ⟨rfl, hnew⟩ := leaves
    refine ⟨_, congrArg Host.Outcome.next (scmWellState_leaves c hnew), rfl,
      fun d hd => Bank.get_set_ne _ _ (Ne.symm hd), fun _ _ => ⟨Bank.get_set_self _ _ _, rfl⟩, ?_⟩
    rintro (h | h)
    · exact absurd rfl h
    · exact absurd h hnew
  · exact ⟨_, congrArg Host.Outcome.next (scmWellState_notes c leaves), rfl,
      fun d hd => Bank.get_set_ne _ _ (Ne.symm hd), fun h1 h2 => absurd ⟨h1, h2⟩ leaves,
      fun _ => ⟨Bank.get_set_self _ _ _, rfl⟩⟩

/-- What a change of a channel's role leaves of SCM and hands on. -/
theorem exec_scmRoleChange (s : State) (c : WellNo) (role : Role) :
    ∃ u, exec (.scmRoleChange c role) s = .next u
      ∧ u.scm = { s.scm with calcite := u.scm.calcite, fouling := u.scm.fouling }
      ∧ (∀ d, d ≠ c → u.scm.calcite.get d = s.scm.calcite.get d ∧ u.scm.fouling.get d = s.scm.fouling.get d)
      ∧ (role = .production → u = s.took (.scmRoleChange c role))
      ∧ (role ≠ .production →
        u.scm.calcite.get c = ⟨none, .none, false, 0, .none, (s.scm.calcite.get c).running⟩
        ∧ u.scm.fouling.get c = ⟨(s.scm.fouling.get c).baseline, none, .none⟩
        ∧ u.handed = s.handed.erase (.scmRoleChange c role)
          ++ (if (s.scm.calcite.get c).margin.isSome then [.wccFlashMargin c none] else [])
          ++ (if (s.scm.calcite.get c).hold then
            [.bbuFlashHold c false, .wccFlashHold c false, .alarmClear .flashWatch (.well c)] else [])
          ++ (if (s.scm.calcite.get c).state = WatchState.none then [] else [.alarmClear .calciteRisk (.well c)])
          ++ (if (s.scm.fouling.get c).state = WatchState.none then []
            else [.alarmClear .pumpFouling (.well c)])) := by
  by_cases hr : role = .production
  · subst hr
    exact ⟨_, scmRoleChange_production, rfl, fun d _ => ⟨rfl, rfl⟩, fun _ => rfl, fun h => absurd rfl h⟩
  · refine ⟨_, scmRoleChange_other hr, rfl, fun d hd => ⟨Bank.get_set_ne _ _ (Ne.symm hd),
      Bank.get_set_ne _ _ (Ne.symm hd)⟩, fun h => absurd h hr, fun _ => ⟨Bank.get_set_self _ _ _,
      Bank.get_set_self _ _ _, ?_⟩⟩
    simp only [State.resetWellWatch, State.hand, State.took, List.append_assoc]
    rfl

/-- Settles O26: the two rows, each with its frame. -/
theorem wellReportsReachTheWatch : Obligations.WellReportsReachTheWatch := by
  intro s c old new k role
  obtain ⟨t, ht, tScm, tOthers, leaves, stays⟩ := exec_scmWellState s c old new k
  obtain ⟨u, hu, uScm, uOthers, production, other⟩ := exec_scmRoleChange s c role
  exact ⟨t, u, ht, .of_exec ht, hu, .of_exec hu, tScm, uScm,
    fun d hd => ⟨tOthers d hd, (uOthers d hd).1, (uOthers d hd).2⟩, leaves, stays, production, other⟩

/-! ### The stores (R178 to R180) -/

/-- Settles O56: each owner's branches. -/
theorem commissioningAndStore : Obligations.CommissioningAndStore := by
  intro s
  refine ⟨fun idle => ⟨fun p hp hs => ⟨fun locked => ?_, fun unlocked => ?_⟩,
    fun hs => ⟨fun locked => ?_, fun unlocked => ?_⟩, fun busy => ?_, fun free => ?_⟩, fun none ok => ?_,
    fun copy hc => ⟨?_, ?_⟩⟩
  · exact exec_of_operate idle hs rfl (decide_eq_true hp) (if_pos locked)
  · exact exec_of_operate idle hs rfl (decide_eq_true hp) (if_neg (by simp [unlocked]))
  · exact exec_of_operate idle hs rfl rfl (if_pos locked)
  · exact exec_of_operate idle hs rfl rfl (if_neg (by simp [unlocked]))
  · exact onlyAnswers_of_serve idle rfl (if_pos (Option.isSome_iff_ne_none.2 busy))
  · exact ⟨s.snapshot, exec_of_serve idle rfl (if_neg (by simp [State.storeBusy, free])), rfl, rfl, rfl, rfl, rfl,
      rfl, rfl, rfl, fun c => Bank.get_ofFn _ c⟩
  · refine congrArg Host.Outcome.next ?_
    rw [none]
  · refine congrArg Host.Outcome.next ?_
    rw [hc]
    rfl
  · refine congrArg Host.Outcome.next ?_
    rw [hc]
    rfl

end Sys2Proof.Proofs

/-! PROOFS. Deliveries, lost stations and the settings of a quantity (chapter 2). -/

namespace Sys2Proof.Proofs

open Sys2Proof.Machine

/-! ### Records written one after another, and the update that lists them (R19, R26, R27) -/

section Record

/-- What one element of a delivery or of a station does: the quantity it names, its record after it, and whether it
is a good sample. -/
structure Recording (α : Type) where
  qty : α → QtyNo
  record : α → Qty → Qty
  sample : α → Bool

variable {α : Type} (f : Recording α)

/-- The element taken. -/
def Recording.take (acc : State × Update) (x : α) : State × Update :=
  recordQty acc (f.qty x) (f.record x (acc.1.qtb.get (f.qty x))) (f.sample x)

/-- The new value the update lists for the element, its record before being `r`. -/
def Recording.value (x : α) (r : Qty) : List (QtyNo × Int) :=
  if f.sample x && decide ((f.record x r).state = .valid) then [(f.qty x, reportedOf (f.record x r).y)] else []

/-- The change of state the update lists for the element. -/
def Recording.move (x : α) (r : Qty) : List (QtyNo × QState × QState) :=
  if listedMove r.state (f.record x r).state then [(f.qty x, r.state, (f.record x r).state)] else []

theorem take_eq (acc : State × Update) (x : α) :
    f.take acc x = ({ acc.1 with qtb := acc.1.qtb.set (f.qty x) (f.record x (acc.1.qtb.get (f.qty x))) },
      { acc.2 with
        values := acc.2.values ++ f.value x (acc.1.qtb.get (f.qty x))
        changes := acc.2.changes ++ f.move x (acc.1.qtb.get (f.qty x)) }) := rfl

/-- Every element of a list that names no quantity twice: each quantity has its record after its own element, and
the update lists what each element gives, in the list's order. -/
theorem takeAll_eq (l : List α) (hl : (l.map f.qty).Nodup) : ∀ (s : State) (u : Update), ∃ b : Bank Qty 115,
    l.foldl f.take (s, u) = ({ s with qtb := b },
      { u with
        values := u.values ++ l.flatMap fun x => f.value x (s.qtb.get (f.qty x))
        changes := u.changes ++ l.flatMap fun x => f.move x (s.qtb.get (f.qty x)) })
    ∧ (∀ x ∈ l, b.get (f.qty x) = f.record x (s.qtb.get (f.qty x)))
    ∧ ∀ q, q ∉ l.map f.qty → b.get q = s.qtb.get q := by
  induction l with
  | nil => exact fun s u => ⟨s.qtb, by simp, nofun, fun _ _ => rfl⟩
  | cons x l ih =>
    intro s u
    obtain ⟨hx, hl⟩ := List.nodup_cons.1 (show (f.qty x :: l.map f.qty).Nodup from hl)
    obtain ⟨b, he, records, others⟩ := ih hl _ _
    have ne : ∀ y ∈ l, f.qty x ≠ f.qty y := fun y hy h => hx (h ▸ List.mem_map_of_mem hy)
    have stands : ∀ y ∈ l, (s.qtb.set (f.qty x) (f.record x (s.qtb.get (f.qty x)))).get (f.qty y)
        = s.qtb.get (f.qty y) := fun y hy => Bank.get_set_ne _ _ (ne y hy)
    refine ⟨b, ?_, fun y hy => ?_, fun q hq => ?_⟩
    · rw [List.foldl_cons, take_eq, he]
      simp only [List.flatMap_cons, List.append_assoc]
      congr 4 <;> exact List.flatMap_congr fun y hy => by rw [stands y hy]
    · rcases List.mem_cons.1 hy with rfl | hy
      · rw [others _ hx]
        exact Bank.get_set_self _ _ _
      · rw [records y hy]
        simp only [stands y hy]
    · obtain ⟨hq, hql⟩ : q ≠ f.qty x ∧ q ∉ l.map f.qty := by simpa using hq
      rw [others q hql]
      exact Bank.get_set_ne _ _ (Ne.symm hq)

/-- The same from an update that lists nothing. -/
theorem takeAll_empty {l : List α} (hl : (l.map f.qty).Nodup) (s : State) : ∃ b : Bank Qty 115,
    l.foldl f.take (s, .empty) = ({ s with qtb := b },
      ⟨l.flatMap fun x => f.value x (s.qtb.get (f.qty x)), l.flatMap fun x => f.move x (s.qtb.get (f.qty x)), [], []⟩)
    ∧ (∀ x ∈ l, b.get (f.qty x) = f.record x (s.qtb.get (f.qty x)))
    ∧ ∀ q, q ∉ l.map f.qty → b.get q = s.qtb.get q := takeAll_eq f l hl s .empty

end Record

/-! ### A station declared LOST (R26) -/

/-- The quantities of a station made STALE. -/
def staling : Recording QtyNo := ⟨id, fun _ r => r.makeStale, fun _ => false⟩

theorem staleAll_eq (s : State) (l : List QtyNo) : s.staleAll l = l.foldl staling.take (s, .empty) := rfl

theorem stationQtys_nodup : ∀ (k : Kind) (c : WellNo), (stationQtys k c).Nodup := by
  intro k
  cases k <;> decide

theorem mem_staling_move {q p : QtyNo} {r : Qty} {old new : QState} :
    (p, old, new) ∈ staling.move q r ↔ p = q ∧ old = r.state ∧ new = .stale ∧ (old = .priming ∨ old = .valid) := by
  simp only [Recording.move, staling, Laws.makeStale_eq]
  cases h : r.state <;> simp [listedMove, h] <;> rintro rfl rfl <;> simp

/-- What a flatMap of at most one pair to each element lists stands in the elements' order. -/
theorem flatMap_keys {α β γ : Type} (key : α → β) (g : α → List (β × γ))
    (hg : ∀ x, g x = [] ∨ ∃ y, g x = [(key x, y)]) (l : List α) :
    ((l.flatMap g).map Prod.fst).Sublist (l.map key) := by
  induction l with
  | nil => exact .refl _
  | cons x l ih =>
    rw [List.flatMap_cons, List.map_append, List.map_cons]
    rcases hg x with hx | ⟨y, hx⟩ <;> rw [hx]
    · exact ih.cons _
    · exact ih.cons_cons _

theorem move_keys {α : Type} (f : Recording α) (x : α) (r : Qty) :
    f.move x r = [] ∨ ∃ y, f.move x r = [(f.qty x, y)] := by
  unfold Recording.move
  split
  · exact .inr ⟨_, rfl⟩
  · exact .inl rfl

theorem value_keys {α : Type} (f : Recording α) (x : α) (r : Qty) :
    f.value x r = [] ∨ ∃ y, f.value x r = [(f.qty x, y)] := by
  unfold Recording.value
  split
  · exact .inr ⟨_, rfl⟩
  · exact .inl rfl

/-- Settles O17: each quantity of the station is written once, and the update lists what moves. -/
theorem lostStationMakesStale : Obligations.LostStationMakesStale := by
  intro kind c s
  obtain ⟨b, he, records, others⟩ := takeAll_empty staling (l := stationQtys kind c)
    (by simpa [staling] using stationQtys_nodup kind c) (s.took (.qtbStationLost kind c))
  have exec_eq : exec (.qtbStationLost kind c) s
      = .next (((s.took (.qtbStationLost kind c)).staleAll (stationQtys kind c)).1.handUpdate
        (s.took (.qtbStationLost kind c)) (stationQtys kind c)
        ((s.took (.qtbStationLost kind c)).staleAll (stationQtys kind c)).2) := rfl
  rw [staleAll_eq, he] at exec_eq
  have record : ∀ q, b.get q =
      if q ∈ stationQtys kind c ∧ ((s.qtb.get q).state = .priming ∨ (s.qtb.get q).state = .valid) then
        { s.qtb.get q with state := .stale, prime := 0 }
      else s.qtb.get q := by
    intro q
    by_cases hq : q ∈ stationQtys kind c
    · have made : b.get q = (s.qtb.get q).makeStale := records q hq
      simp [made, Laws.makeStale_eq, hq]
    · simpa [hq] using others q (by simpa [staling] using hq)
  have moves : ∀ q old new, (q, old, new) ∈ ((stationQtys kind c).flatMap fun q => staling.move q (s.qtb.get q))
      ↔ q ∈ stationQtys kind c ∧ old = (s.qtb.get q).state ∧ new = .stale ∧ (old = .priming ∨ old = .valid) := by
    intro q old new
    simp only [List.mem_flatMap, mem_staling_move]
    constructor
    · rintro ⟨x, hx, rfl, h⟩
      exact ⟨hx, h⟩
    · exact fun ⟨hq, h⟩ => ⟨q, hq, rfl, h⟩
  have values : ((stationQtys kind c).flatMap fun q => staling.value q (s.qtb.get q)) = [] := by
    simp [Recording.value, staling]
  refine ⟨_, _, _, exec_eq, .of_exec exec_eq, record, values, moves, ?_,
    Laws.shown_shows rfl (fun q v hv => ?_) (fun q old new hq => ?_), Laws.before_keeps rfl,
    Laws.updateEvents_handed _, rfl⟩
  · simpa [staling] using flatMap_keys id (fun q => staling.move q (s.qtb.get q)) (fun q => move_keys staling q _)
      (stationQtys kind c)
  · have listed : (q, v) ∈ (stationQtys kind c).flatMap fun q => staling.value q (s.qtb.get q) := hv
    rw [values] at listed
    exact absurd listed (by simp)
  · obtain ⟨named, rfl, rfl, moved⟩ := (moves q old new).1 hq
    exact (congrArg Qty.state ((record q).trans (if_pos ⟨named, moved⟩))).symm

/-! ### A delivery (R19, R21, R27) -/

theorem mem_value {α : Type} (f : Recording α) {x : α} {r : Qty} {q : QtyNo} {y : Int} :
    (q, y) ∈ f.value x r ↔
      f.sample x = true ∧ (f.record x r).state = .valid ∧ q = f.qty x ∧ y = reportedOf (f.record x r).y := by
  unfold Recording.value
  split <;> simp_all

theorem mem_move {α : Type} (f : Recording α) {x : α} {r : Qty} {q : QtyNo} {old new : QState} :
    (q, old, new) ∈ f.move x r ↔ q = f.qty x ∧ old = r.state ∧ new = (f.record x r).state ∧ old ≠ new
      ∧ (old = .valid ∨ new = .valid ∨ new = .stale) := by
  have listed : listedMove r.state (f.record x r).state = true ↔ r.state ≠ (f.record x r).state
      ∧ (r.state = .valid ∨ (f.record x r).state = .valid ∨ (f.record x r).state = .stale) := by
    simp [listedMove, or_assoc]
  unfold Recording.move
  split
  case isTrue h =>
    have := listed.1 h
    constructor
    · intro hm
      obtain ⟨rfl, rfl, rfl⟩ : q = f.qty x ∧ old = r.state ∧ new = (f.record x r).state := by simpa using hm
      exact ⟨rfl, rfl, rfl, this⟩
    · rintro ⟨rfl, rfl, rfl, -⟩
      exact List.mem_singleton.2 rfl
  case isFalse h =>
    constructor
    · nofun
    · rintro ⟨rfl, rfl, rfl, hm⟩
      exact absurd (listed.2 hm) h

theorem isGood_iff {s : State} {q : QtyNo} {x : Reading} : s.isGood q x = true ↔
    ∃ v, x = .value v .good ∧ s.qtySet q .rangeLow ≤ v ∧ v ≤ s.qtySet q .rangeHigh := by
  match x with
  | .value v .good => simp [State.isGood]
  | .value _ .suspect | .value _ .fault | .erasure => simp [State.isGood]

/-- The readings of a delivery, under the settings and the time of a state. -/
def delivered (s : State) : Recording (QtyNo × Reading) :=
  ⟨Prod.fst, fun x => s.takeReading x.1 x.2, fun x => s.isGood x.1 x.2⟩

/-- Taking a reading reads settings and time, which no reading changes. -/
theorem readings_eq (s : State) (l : List (QtyNo × Reading)) : ∀ acc : State × Update,
    acc.1.ssl = s.ssl → acc.1.svp = s.svp → l.foldl takeOne acc = l.foldl (delivered s).take acc := by
  induction l with
  | nil => exact fun _ _ _ => rfl
  | cons x l ih =>
    intro acc hl hv
    have good : acc.1.isGood x.1 x.2 = s.isGood x.1 x.2 := by
      rw [Bool.eq_iff_iff, isGood_iff, isGood_iff]
      simp only [State.qtySet, State.item, hl]
    have one : takeOne acc x = (delivered s).take acc x := by
      simp only [takeOne, Recording.take, delivered, State.takeReading, good, State.qtySet, State.item, hl, hv]
    rw [List.foldl_cons, List.foldl_cons, one]
    exact ih _ hl hv

theorem takeReading_sampleNo (s : State) (q : QtyNo) (x : Reading) (r : Qty) (n : Option Byte) :
    s.takeReading q x { r with sampleNo := n } = { s.takeReading q x r with sampleNo := n } := by
  unfold State.takeReading
  split <;> rfl

/-- The sample number recorded for a quantity once a delivery has come. -/
def sampleNoAfter (d : Delivery) (s : State) (q : QtyNo) : Option Byte :=
  if q = qSilica ∧ d.kind = .analyser ∧ d.sampleNo.isSome = true then d.sampleNo else (s.qtb.get q).sampleNo

theorem noteSample_eq (s : State) (d : Delivery) : s.noteSample d = { s with qtb := (s.noteSample d).qtb } := by
  unfold State.noteSample
  split <;> rfl

theorem noteSample_get (s : State) (d : Delivery) (q : QtyNo) :
    (s.noteSample d).qtb.get q = { s.qtb.get q with sampleNo := sampleNoAfter d s q } := by
  by_cases kind : d.kind = .analyser
  · cases number : d.sampleNo with
    | none => simp [State.noteSample, Delivery.analyserNo, sampleNoAfter, kind, number]
    | some n =>
      by_cases hq : q = qSilica
      · simp [State.noteSample, Delivery.analyserNo, sampleNoAfter, kind, number, hq]
      · simp [State.noteSample, Delivery.analyserNo, sampleNoAfter, kind, number, hq, Ne.symm hq]
  · simp [State.noteSample, Delivery.analyserNo, sampleNoAfter, kind]

theorem repeats_iff {s : State} {d : Delivery} : s.repeats d = true ↔
    d.kind = .analyser ∧ d.sampleNo.isSome = true ∧ (s.qtb.get qSilica).sampleNo = d.sampleNo := by
  by_cases kind : d.kind = .analyser
  · cases number : d.sampleNo <;> simp [State.repeats, Delivery.analyserNo, kind, number]
  · simp [State.repeats, Delivery.analyserNo, kind]

/-- A delivery that repeats no sample number: the records it gives, and the update that lists them. -/
theorem takeDelivery_eq {s : State} {d : Delivery} (hr : s.repeats d = false) (hd : (d.readings.map Prod.fst).Nodup) :
    ∃ b : Bank Qty 115, s.takeDelivery d = ({ s with qtb := b },
      ⟨d.readings.flatMap fun x => (delivered s).value x ((s.noteSample d).qtb.get x.1),
        d.readings.flatMap fun x => (delivered s).move x ((s.noteSample d).qtb.get x.1), [], []⟩)
    ∧ (∀ x ∈ d.readings,
      (delivered s).record x ((s.noteSample d).qtb.get x.1) = b.get x.1
      ∧ b.get x.1 = { s.takeReading x.1 x.2 (s.qtb.get x.1) with sampleNo := sampleNoAfter d s x.1 })
    ∧ ∀ q, q ∉ d.readings.map Prod.fst → b.get q = { s.qtb.get q with sampleNo := sampleNoAfter d s q } := by
  obtain ⟨b, he, records, others⟩ := takeAll_empty (delivered s) hd (s.noteSample d)
  refine ⟨b, ?_, fun x hx => ⟨(records x hx).symm, ?_⟩, fun q hq => (others q hq).trans (noteSample_get s d q)⟩
  · have fold : s.takeDelivery d = d.readings.foldl takeOne (s.noteSample d, .empty) := by
      simp [State.takeDelivery, hr]
    rw [fold, readings_eq s _ _ (by rw [noteSample_eq]) (by rw [noteSample_eq]), he, noteSample_eq]
    rfl
  · rw [show b.get x.1 = _ from records x hx, show (delivered s).qty x = x.1 from rfl, noteSample_get]
    exact takeReading_sampleNo ..

/-- Settles O16: a delivery writes each quantity once, and the update lists what its readings give. -/
theorem deliveryIsTakenWhole : Obligations.DeliveryIsTakenWhole := by
  intro d s hd
  have repeats : (s.took (.qtbDelivery d)).repeats d = true ↔
      d.kind = .analyser ∧ d.sampleNo.isSome = true ∧ (s.qtb.get qSilica).sampleNo = d.sampleNo := repeats_iff
  refine ⟨fun hk hn hs => ?_, fun hnew => ?_⟩
  · have again := repeats.2 ⟨hk, hn, hs⟩
    change Host.Outcome.next ((s.took (.qtbDelivery d)).deliver d) = _
    simp [State.deliver, State.takeDelivery, again, State.handUpdate, updateEvents, Update.only, Update.isEmpty,
      Update.empty]
  obtain ⟨b, he, records, others⟩ := takeDelivery_eq (Bool.eq_false_iff.2 (mt repeats.1 hnew)) hd
  have exec_eq : exec (.qtbDelivery d) s
      = .next (((s.took (.qtbDelivery d)).takeDelivery d).1.handUpdate (s.took (.qtbDelivery d))
        (stationQtys d.kind d.channel) ((s.took (.qtbDelivery d)).takeDelivery d).2) := rfl
  rw [he] at exec_eq
  have sampleNo : ∀ q, (b.get q).sampleNo = sampleNoAfter d s q := by
    intro q
    by_cases hq : q ∈ d.readings.map Prod.fst
    · obtain ⟨x, hx, rfl⟩ := List.mem_map.1 hq
      rw [(records x hx).2]
      rfl
    · rw [others q hq]
      rfl
  have values : ∀ q y, (q, y) ∈ (d.readings.flatMap fun x => (delivered (s.took (.qtbDelivery d))).value x
        (((s.took (.qtbDelivery d)).noteSample d).qtb.get x.1))
      ↔ (b.get q).state = .valid ∧ y = reportedOf (b.get q).y ∧ ∃ v, (q, Reading.value v .good) ∈ d.readings
        ∧ s.qtySet q .rangeLow ≤ v ∧ v ≤ s.qtySet q .rangeHigh := by
    intro q y
    simp only [List.mem_flatMap, mem_value]
    constructor
    · rintro ⟨x, hx, good, valid, rfl, rfl⟩
      rw [(records x hx).1] at valid ⊢
      obtain ⟨v, hv, range⟩ := isGood_iff.1 good
      exact ⟨valid, rfl, v, by rw [← hv]; exact hx, range⟩
    · rintro ⟨valid, rfl, v, hx, range⟩
      have made := (records _ hx).1
      exact ⟨_, hx, isGood_iff.2 ⟨v, rfl, range⟩, by rw [made]; exact valid, rfl, by rw [made]⟩
  have moves : ∀ q old new, (q, old, new) ∈ (d.readings.flatMap fun x =>
        (delivered (s.took (.qtbDelivery d))).move x (((s.took (.qtbDelivery d)).noteSample d).qtb.get x.1))
      ↔ q ∈ d.readings.map Prod.fst ∧ old = (s.qtb.get q).state ∧ new = (b.get q).state ∧ old ≠ new
        ∧ (old = .valid ∨ new = .valid ∨ new = .stale) := by
    intro q old new
    simp only [List.mem_flatMap, mem_move, noteSample_get]
    constructor
    · rintro ⟨x, hx, rfl, rfl, rfl, listed⟩
      rw [← noteSample_get, (records x hx).1] at listed ⊢
      exact ⟨List.mem_map_of_mem hx, rfl, rfl, listed⟩
    · rintro ⟨hq, rfl, rfl, listed⟩
      obtain ⟨x, hx, rfl⟩ := List.mem_map.1 hq
      refine ⟨x, hx, rfl, rfl, ?_, listed⟩
      rw [← noteSample_get, (records x hx).1]
  refine ⟨_, _, _, exec_eq, .of_exec exec_eq, fun q hq => ?_, fun q hq => ?_, ?_, fun q v hx hl hh => ?_,
    fun q x hx bad => ?_, values, moves, flatMap_keys Prod.fst _ (fun x => value_keys (delivered _) x _) _,
    flatMap_keys Prod.fst _ (fun x => move_keys (delivered _) x _) _,
    Laws.shown_shows rfl (fun q v hv => ⟨((values q v).1 hv).1, ((values q v).1 hv).2.1⟩)
      (fun q old new hm => ((moves q old new).1 hm).2.2.1), Laws.before_keeps rfl, Laws.updateEvents_handed _, rfl⟩
  · change (b.get q).state = _ ∧ (b.get q).y = _ ∧ (b.get q).prime = _ ∧ (b.get q).run = _ ∧ (b.get q).lastGood = _
    rw [others q hq]
    exact ⟨rfl, rfl, rfl, rfl, rfl⟩
  · exact (sampleNo q).trans (if_neg fun h => hq h.1)
  · refine (sampleNo qSilica).trans ?_
    simp only [sampleNoAfter, true_and]
  · have good : (s.took (.qtbDelivery d)).isGood q (.value v .good) = true := isGood_iff.2 ⟨v, rfl, hl, hh⟩
    refine (records _ hx).2.trans ?_
    rw [show sampleNoAfter d (s.took _) q = (b.get q).sampleNo from (sampleNo q).symm]
    simp only [State.takeReading, good, readingValue, ↓reduceIte]
    rfl
  · have bad : (s.took (.qtbDelivery d)).isGood q x = false := Bool.eq_false_iff.2 (mt isGood_iff.1 bad)
    refine (records _ hx).2.trans ?_
    rw [show sampleNoAfter d (s.took _) q = (b.get q).sampleNo from (sampleNo q).symm]
    simp only [State.takeReading, bad, Bool.false_eq_true, ↓reduceIte]
    rfl

/-! ### The law of R15, on one record -/

/-- A value that is there lies in the plausible range. -/
def valueWithin (lo hi : Int) (r : Qty) : Prop := r.state ≠ .unprimed → lo ≤ reportedOf r.y ∧ reportedOf r.y ≤ hi

/-- A run at its limit is not VALID. -/
def runBelow (limit : Int) (r : Qty) : Prop := r.state = .valid → (r.run : Int) < limit

section Law

variable {lo hi limit : Int} {r : Qty}

theorem reportedOf_whole (x : Int) : reportedOf (16 * x) = x := by unfold reportedOf; omega

/-- A value between the old one and 16 times a sample of the range stays in the range. -/
theorem sample_within (h : valueWithin lo hi r) {w x : Int} (hw : 1 ≤ w) (hw' : w ≤ 16) (hx : lo ≤ x) (hx' : x ≤ hi)
    (now : U32) : valueWithin lo hi (r.sample now w x) := by
  intro _
  change lo ≤ reportedOf (smoothed w x r) ∧ reportedOf (smoothed w x r) ≤ hi
  by_cases run : r.state = .priming ∨ r.state = .valid
  · have old := h (by rcases run with e | e <;> simp [e])
    have := smoothed_between x hw hw' run
    unfold reportedOf at old ⊢
    omega
  · have new : r.state = .unprimed ∨ r.state = .stale := by cases e : r.state <;> simp_all
    rw [smoothed_newRun w x new, reportedOf_whole]
    exact ⟨hx, hx'⟩

theorem sample_below (hl : 1 ≤ limit) (now : U32) (w x : Int) : runBelow limit (r.sample now w x) :=
  fun _ => Int.lt_of_lt_of_le Int.zero_lt_one hl

theorem erase_within (h : valueWithin lo hi r) : valueWithin lo hi (r.erase limit) := by
  refine fun primed => h fun unprimed => primed ?_
  exact (erase_state_noRun (.inl unprimed)).trans unprimed

theorem erase_below : runBelow limit (r.erase limit) := by
  intro valid
  by_contra reached
  have reached : limit ≤ ((r.erase limit).run : Int) := Int.not_lt.1 reached
  by_cases run : r.state = .priming ∨ r.state = .valid
  · rw [erase_state_reached run reached] at valid
    exact nomatch valid
  · have other : r.state = .unprimed ∨ r.state = .stale := by cases e : r.state <;> simp_all
    rw [erase_state_noRun other] at valid
    exact run (.inr valid)

theorem makeStale_within (h : valueWithin lo hi r) : valueWithin lo hi r.makeStale := by
  rw [Laws.makeStale_eq]
  split
  next run => exact fun _ => h (by rcases run with e | e <;> simp [e])
  next => exact h

theorem makeStale_below : runBelow limit r.makeStale := by
  rw [Laws.makeStale_eq]
  split
  next => nofun
  next run => exact fun valid => absurd (.inr valid) run

theorem clampRange_within (hr : lo < hi) : valueWithin lo hi (r.clampRange lo hi) := by
  unfold Qty.clampRange
  split
  next unprimed => exact fun primed => absurd unprimed primed
  next =>
    split
    next => exact fun _ => by rw [reportedOf_whole]; omega
    next =>
      split
      next => exact fun _ => by rw [reportedOf_whole]; omega
      next => exact fun _ => by omega

theorem clampRange_below (h : runBelow limit r) : runBelow limit (r.clampRange lo hi) := by
  unfold Qty.clampRange
  split
  · exact h
  · split
    · exact h
    · split
      · exact h
      · exact h

end Law

/-! ### The law of R15, over the table -/

/-- What each element of a list keeps of the record of its quantity stands of it after the list. -/
theorem takeAll_keeps {α : Type} (f : Recording α) (P : QtyNo → Qty → Prop)
    (hf : ∀ x r, P (f.qty x) r → P (f.qty x) (f.record x r)) (l : List α) : ∀ acc : State × Update,
    ∀ q, P q (acc.1.qtb.get q) → P q ((l.foldl f.take acc).1.qtb.get q) := by
  induction l with
  | nil => exact fun _ _ h => h
  | cons x l ih =>
    intro acc q h
    refine ih _ q ?_
    rw [take_eq, Bank.get_set]
    split
    next hq => exact hq ▸ hf x _ (hq ▸ h)
    next => exact h

theorem delivered_keeps (s : State) (d : Delivery) (P : QtyNo → Qty → Prop)
    (hn : ∀ q r n, P q r → P q { r with sampleNo := n })
    (hf : ∀ q x r, P q r → P q (s.takeReading q x r)) (q : QtyNo) (h : P q (s.qtb.get q)) :
    P q ((s.takeDelivery d).1.qtb.get q) := by
  unfold State.takeDelivery
  split
  · exact h
  · rw [readings_eq s _ _ (by rw [noteSample_eq]) (by rw [noteSample_eq])]
    refine takeAll_keeps (delivered s) P (fun x r => hf x.1 x.2 r) _ _ q ?_
    rw [noteSample_get]
    exact hn _ _ _ h

theorem takeReading_within {s : State} {q : QtyNo} {r : Qty} (hw : 1 ≤ s.qtySet q .weight)
    (hw' : s.qtySet q .weight ≤ 16) (x : Reading) (h : valueWithin (s.qtySet q .rangeLow) (s.qtySet q .rangeHigh) r) :
    valueWithin (s.qtySet q .rangeLow) (s.qtySet q .rangeHigh) (s.takeReading q x r) := by
  unfold State.takeReading
  split
  next good =>
    obtain ⟨v, rfl, low, high⟩ := isGood_iff.1 good
    exact sample_within h hw hw' low high _
  next => exact erase_within h

theorem takeReading_below {s : State} {q : QtyNo} {r : Qty} (hl : 1 ≤ s.qtySet q .eraseLimit) (x : Reading) :
    runBelow (s.qtySet q .eraseLimit) (s.takeReading q x r) := by
  unfold State.takeReading
  split
  · exact sample_below hl _ _ _
  · exact erase_below

/-- The two halves of the law of a quantity, under settings that stand. -/
theorem law_iff {s t : State} (q : QtyNo) (hs : t.ssl = s.ssl) :
    (t.valueInRange q ↔ valueWithin (s.qtySet q .rangeLow) (s.qtySet q .rangeHigh) (t.qtb.get q))
      ∧ (t.runBelowLimit q ↔ runBelow (s.qtySet q .eraseLimit) (t.qtb.get q)) := by
  unfold State.valueInRange State.runBelowLimit State.qtySet State.item
  rw [hs]
  exact ⟨.rfl, .rfl⟩

theorem deliver_law (s : State) (d : Delivery) (q : QtyNo) (hw : 1 ≤ s.qtySet q .weight)
    (hw' : s.qtySet q .weight ≤ 16) (hl : 1 ≤ s.qtySet q .eraseLimit) (hv : s.valueInRange q)
    (hr : s.runBelowLimit q) : (s.deliver d).valueInRange q ∧ (s.deliver d).runBelowLimit q := by
  have law := law_iff q ((Frame.deliver (d := d) (.refl _ s) (List.Subset.refl _)).ssl (by decide))
  refine ⟨law.1.2 ?_, law.2.2 ?_⟩
  · exact delivered_keeps s d (fun p r => p = q → valueWithin _ _ r) (fun _ _ _ h => h)
      (fun p x r h hp => by subst hp; exact takeReading_within hw hw' x (h rfl)) q (fun _ => hv) rfl
  · exact delivered_keeps s d (fun p r => p = q → runBelow _ r) (fun _ _ _ h => h)
      (fun p x r h hp => by subst hp; exact takeReading_below hl x) q (fun _ => hr) rfl

theorem stationLost_law (s : State) (k : Kind) (c : WellNo) (q : QtyNo) (hv : s.valueInRange q)
    (hr : s.runBelowLimit q) : (s.stationLost k c).valueInRange q ∧ (s.stationLost k c).runBelowLimit q := by
  have kept := fun P hP => takeAll_keeps staling P hP (stationQtys k c) (s, .empty) q
  have law := law_iff q ((Frame.stationLost (a := k) (b := c) (.refl _ s) (List.Subset.refl _)).ssl (by decide))
  refine ⟨law.1.2 ?_, law.2.2 ?_⟩
  · exact kept (fun p r => p = q → valueWithin _ _ r) (fun p r h hp => makeStale_within (h hp)) (fun _ => hv) rfl
  · exact kept (fun p r => p = q → runBelow _ r) (fun _ _ _ _ => makeStale_below) (fun _ => hr) rfl

/-- A change of the range brings the value into it and keeps the run. -/
theorem rangeTaken_law (s : State) (q : QtyNo) (i : QtyItem) (hi : i = .rangeLow ∨ i = .rangeHigh)
    (hr : s.qtySet q .rangeLow < s.qtySet q .rangeHigh) : (s.qtySettingTaken q i).valueInRange q
      ∧ (s.runBelowLimit q → (s.qtySettingTaken q i).runBelowLimit q) := by
  have record : (s.qtySettingTaken q i).qtb.get q
      = (s.qtb.get q).clampRange (s.qtySet q .rangeLow) (s.qtySet q .rangeHigh) := by
    rcases hi with rfl | rfl <;> exact Bank.get_set_self _ _ _
  have law := law_iff (s := s) (t := s.qtySettingTaken q i) q (by rcases hi with rfl | rfl <;> rfl)
  rw [law.1, law.2, record]
  exact ⟨clampRange_within hr, clampRange_below⟩

/-- A change of the erasure limit makes a run that has reached it STALE, and no value moves. -/
theorem limitTaken_law (s : State) (q : QtyNo) : (s.qtySettingTaken q .eraseLimit).runBelowLimit q
      ∧ (s.valueInRange q → (s.qtySettingTaken q .eraseLimit).valueInRange q) := by
  by_cases reached : reaches (s.qtb.get q).run (s.qtySet q .eraseLimit) = true
  · have taken : s.qtySettingTaken q .eraseLimit
        = (s.staleAll [q]).1.handUpdate s (feederQtys q) (s.staleAll [q]).2 := if_pos reached
    have record : (s.qtySettingTaken q .eraseLimit).qtb.get q = (s.qtb.get q).makeStale := by
      rw [taken]
      exact Bank.get_set_self _ _ _
    have law := law_iff (s := s) (t := s.qtySettingTaken q .eraseLimit) q (by rw [taken]; rfl)
    rw [law.1, law.2, record]
    exact ⟨makeStale_below, makeStale_within⟩
  · rw [show s.qtySettingTaken q .eraseLimit = s from if_neg reached]
    exact ⟨fun _ => Int.not_le.1 (mt decide_eq_true reached), id⟩

/-- Settles O18: what each setting does (the law of the machine), and the two halves of R15's law by record. -/
theorem quantityLawIsKept : Obligations.QuantityLawIsKept := by
  refine ⟨fun s q i old => ⟨_, rfl, Laws.qtySettingTaken_acts _ q i⟩, fun s q hw hw' hl hr =>
    ⟨fun hv hb => ⟨fun d => ?_, fun k c => ?_⟩, fun i old hi => ?_, fun old => ?_⟩⟩
  · exact ⟨_, rfl, deliver_law (s.took _) d q hw hw' hl hv hb⟩
  · exact ⟨_, rfl, stationLost_law (s.took _) k c q hv hb⟩
  · exact ⟨_, rfl, rangeTaken_law (s.took (.settingChangeTaken (.item (.qty q i)) old)) q i hi hr⟩
  · exact ⟨_, rfl, limitTaken_law (s.took (.settingChangeTaken (.item (.qty q .eraseLimit)) old)) q⟩

end Sys2Proof.Proofs

/-! PROOFS. What the Scaling Monitor does with an update (chapter 3): the points, the wells and the exchanger. -/

namespace Sys2Proof.Proofs

open Sys2Proof.Machine

/-! ### What an update says of a quantity -/

/-- A quantity whose state and value stand is seen alike from both states. -/
theorem valid_of_qtb {s t : State} (h : t.qtb = s.qtb) (u : Update) (q : QtyNo) : u.valid t q = u.valid s q := by
  have seen : u.seen t q = u.seen s q := by simp only [Update.seen, State.reported, h]
  have state : u.stateOf t q = u.stateOf s q := by
    unfold Update.stateOf
    rw [seen]
  unfold Update.valid
  rw [seen, state]

theorem lookup_none_of {α β : Type} [BEq α] [LawfulBEq α] {l : List (α × β)} {a : α}
    (h : ∀ x ∈ l, x.1 ≠ a) : l.lookup a = none := by
  cases hl : l.lookup a with
  | none => rfl
  | some b => exact absurd rfl (h _ (Laws.lookup_mem hl))

/-- An update of a station lists nothing of a quantity of another. -/
theorem notListed_of {u : Update} {station : List QtyNo} {q : QtyNo} (hv : ∀ x ∈ u.values, x.1 ∈ station)
    (hc : ∀ x ∈ u.changes, x.1 ∈ station) (hq : q ∉ station) : u.newValue q = none ∧ u.change q = none :=
  ⟨lookup_none_of fun x hx h => hq (h ▸ hv x hx), lookup_none_of fun x hx h => hq (h ▸ hc x hx)⟩

/-! ### The points (R31 to R33) -/

/-- A scaling point at an update: its record `r`, its record `r'` after it but for STALE_SEEN, and the events handed
(R31 to R33, R47). -/
def PointStep (u : Update) (s : State) (p : PointNo) (r r' : Point) (parts : List Instr) : Prop :=
  (¬(u.listsValue (pointQty p) = true ∨ u.listsValue qSilica = true)
      ∨ u.valid s (pointQty p) = none ∨ u.valid s qSilica = none → parts = []
    ∧ r' = { r with figures := { r.figures with staleSeen := r'.figures.staleSeen } })
  ∧ ∀ x c : Int, u.listsValue (pointQty p) = true ∨ u.listsValue qSilica = true →
    u.valid s (pointQty p) = some x → u.valid s qSilica = some c →
    ∃ (sol si : Int) (fall : Nat) (alarm : List Instr), sol = (forward .silica (s.tbl .silica) x).1
      ∧ si = min ((c * 1000 + sol / 2) / sol) 9999
      ∧ r'.si = some si ∧ r'.temp = some x ∧ r'.solubility = some sol
      ∧ r'.clamp = (forward .silica (s.tbl .silica) x).2
      ∧ r'.alarmRun = (if s.limit 3 < si then min (r.alarmRun + 1) 15 else 0)
      ∧ r'.watchRun = (if s.scaleSet .siWatch < si then min (r.watchRun + 1) 15 else 0)
      ∧ fall = (if (r.state = .alarm ∧ si ≤ s.limit 3 - s.scaleSet .siHyst)
          ∨ (r.state = .watch ∧ si ≤ s.scaleSet .siWatch - s.scaleSet .siHyst)
        then min (r.fallRun + 1) 15 else 0)
      ∧ r'.fallRun = (if r'.state = r.state then fall else 0)
      ∧ (r.state = .alarm → r'.state = if s.scaleSet .siPersist ≤ fall then .watch else .alarm)
      ∧ (r.state = .watch → r'.state = if s.scaleSet .siPersist ≤ r'.alarmRun then .alarm
        else if s.scaleSet .siPersist ≤ fall then .clear else .watch)
      ∧ (r.state = .clear → r'.state = if s.scaleSet .siPersist ≤ r'.alarmRun then .alarm
        else if s.scaleSet .siPersist ≤ r'.watchRun then .watch else .clear)
      ∧ r'.figures.count = r.figures.count + 1 ∧ r'.figures.sum = r.figures.sum + si
      ∧ (r.figures.count = 0 → r'.figures.min = si ∧ r'.figures.max = si)
      ∧ (r.figures.count ≠ 0 →
        r'.figures.min = min r.figures.min si ∧ r'.figures.max = max r.figures.max si)
      ∧ parts = alarm
        ++ (if p = 0 ∧ r'.state ≠ r.state then [.hxcSp0Change r.state r'.state] else [])
      ∧ (r'.state = r.state → alarm = [])
      ∧ (r.state = .clear → r'.state = .alarm →
        alarm = [.alarmChange .silicaSi (.point p) (.raise .alarm si)])
      ∧ (r.state = .clear → r'.state = .watch →
        alarm = [.alarmChange .silicaSi (.point p) (.raise .watch si)])
      ∧ (r.state = .watch → r'.state = .alarm →
        alarm = [.alarmChange .silicaSi (.point p) (.escalate .alarm si)])
      ∧ (r.state = .alarm → r'.state = .watch →
        alarm = [.alarmChange .silicaSi (.point p) (.deescalate .watch)])
      ∧ (r.state = .watch → r'.state = .clear → alarm = [.alarmClear .silicaSi (.point p)])

/-- A point's record replaced and its events handed. -/
def pointTo (s : State) (p : PointNo) (r : Point) (l : List Instr) : State :=
  { s with scm := { s.scm with points := s.scm.points.set p r } }.hand l

theorem pointTo_same (s : State) (p : PointNo) : pointTo s p (s.scm.points.get p) [] = s := by
  simp [pointTo, Bank.set_get_self]

theorem decided_alarm {r : Point} {persist : Int} (h : r.state = .alarm) :
    r.decided persist = if persist ≤ r.fallRun then .watch else .alarm := by
  simp [Point.decided, reaches, h]

theorem decided_watch {r : Point} {persist : Int} (h : r.state = .watch) :
    r.decided persist = if persist ≤ r.alarmRun then .alarm else if persist ≤ r.fallRun then .clear else .watch := by
  simp [Point.decided, reaches, h]

theorem decided_clear {r : Point} {persist : Int} (h : r.state = .clear) :
    r.decided persist = if persist ≤ r.alarmRun then .alarm else if persist ≤ r.watchRun then .watch else .clear := by
  simp [Point.decided, reaches, h]

theorem pointAlarm_same {p : PointNo} {si : Int} {old new : PointState} (h : old = new) :
    pointAlarm p si old new = [] := by
  subst h
  cases old <;> rfl

/-- A point whose temperature or SILICA is listed anew, both being VALID, is computed. -/
theorem computePoint_steps {u : Update} {s : State} {p : PointNo} {x c : Int}
    (hx : u.valid s (pointQty p) = some x) (hc : u.valid s qSilica = some c) : ∃ r l,
    s.computePoint p c x = pointTo s p r l ∧ r.figures.staleSeen = (s.scm.points.get p).figures.staleSeen
    ∧ (u.listsValue (pointQty p) = true ∨ u.listsValue qSilica = true →
      PointStep u s p (s.scm.points.get p) r l) := by
  refine ⟨_, _, rfl, rfl, fun lists => ⟨fun h => ?_, fun x' c' _ hx' hc' => ?_⟩⟩
  · exact absurd h (by simp [lists, hx, hc])
  · obtain rfl : x = x' := Option.some.inj (hx.symm.trans hx')
    obtain rfl : c = c' := Option.some.inj (hc.symm.trans hc')
    have moves {old new : PointState} (h : (s.pointComputed p c x).state = old)
        (h' : (s.pointComputed p c x).decided (s.scaleSet .siPersist) = new) :
        pointAlarm p _ _ _ = pointAlarm p ((s.pointComputed p c x).si.getD 0) old new :=
      congrArg₂ (pointAlarm p _) h h'
    refine ⟨_, _, _, _, rfl, rfl, rfl, rfl, rfl, rfl, rfl, rfl, rfl, rfl, 
      decided_alarm (r := s.pointComputed p c x), decided_watch (r := s.pointComputed p c x),
      decided_clear (r := s.pointComputed p c x),
      rfl, rfl, fun h => ⟨if_pos h, if_pos h⟩, fun h => ⟨if_neg h, if_neg h⟩, ?_, fun h => ?_, moves, moves,
      moves, moves, moves⟩
    · simp only [sp0Event, ne_comm]
      rfl
    · exact pointAlarm_same h.symm

/-- A point that is not computed stands. -/
theorem pointUpdate_steps (u : Update) (s : State) (p : PointNo) : ∃ r l,
    pointUpdate u s p = pointTo s p r l ∧ PointStep u s p (s.scm.points.get p) r l
      ∧ r.figures.staleSeen = (s.scm.points.get p).figures.staleSeen := by
  have stands (h : ¬(u.listsValue (pointQty p) = true ∨ u.listsValue qSilica = true)
      ∨ u.valid s (pointQty p) = none ∨ u.valid s qSilica = none) :
      PointStep u s p (s.scm.points.get p) (s.scm.points.get p) [] :=
    ⟨fun _ => ⟨rfl, rfl⟩, fun x c hl hx hc => by simp_all⟩
  by_cases lists : u.listsValue (pointQty p) = true ∨ u.listsValue qSilica = true
  · cases hx : u.valid s (pointQty p) with
    | none => exact ⟨_, _, by simp [pointUpdate, lists, hx, pointTo_same], stands (.inr (.inl hx)), rfl⟩
    | some x =>
      cases hc : u.valid s qSilica with
      | none => exact ⟨_, _, by simp [pointUpdate, lists, hx, hc, pointTo_same], stands (.inr (.inr hc)), rfl⟩
      | some c =>
        obtain ⟨r, l, he, seen, step⟩ := computePoint_steps hx hc
        exact ⟨r, l, by simpa [pointUpdate, lists, hx, hc] using he, step lists, seen⟩
  · exact ⟨_, _, by simp [pointUpdate, lists, pointTo_same], stands (.inl lists), rfl⟩

/-- The points taken one after another, each by its own step. -/
theorem pointUpdates_step (u : Update) (l : List PointNo) (hl : l.Nodup) : ∀ s : State,
    ∃ (b : Bank Point 4) (parts : PointNo → List Instr), l.foldl (pointUpdate u) s
      = { s with scm := { s.scm with points := b }, handed := s.handed ++ l.flatMap parts }
    ∧ (∀ p ∈ l, PointStep u s p (s.scm.points.get p) (b.get p) (parts p)
      ∧ (b.get p).figures.staleSeen = (s.scm.points.get p).figures.staleSeen)
    ∧ ∀ p, p ∉ l → b.get p = s.scm.points.get p := by
  induction l with
  | nil => exact fun s => ⟨s.scm.points, fun _ => [], by simp, nofun, fun _ _ => rfl⟩
  | cons p l ih =>
    intro s
    obtain ⟨hp, hl⟩ := List.nodup_cons.1 hl
    obtain ⟨r, e, one, step, seen⟩ := pointUpdate_steps u s p
    obtain ⟨b, parts, rest, steps, others⟩ := ih hl (pointTo s p r e)
    have stands : ∀ q, q ≠ p → (s.scm.points.set p r).get q = s.scm.points.get q :=
      fun q hq => Bank.get_set_ne _ _ hq.symm
    have first : b.get p = r := (others p hp).trans (Bank.get_set_self _ _ _)
    refine ⟨b, fun q => if q = p then e else parts q, ?_, fun q hq => ?_, fun q hq => ?_⟩
    · have same : l.flatMap (fun q => if q = p then e else parts q) = l.flatMap parts :=
        List.flatMap_congr fun q hq => if_neg fun h : q = p => hp (h ▸ hq)
      rw [List.foldl_cons, one, rest, List.flatMap_cons, same, if_pos rfl, ← List.append_assoc]
      rfl
    · by_cases here : q = p
      · subst here
        simp only [first, ↓reduceIte]
        exact ⟨step, seen⟩
      · have := steps q ((List.mem_cons.1 hq).resolve_left here)
        rw [show (pointTo s p r e).scm.points.get q = _ from stands q here] at this
        simp only [if_neg here]
        exact this
    · obtain ⟨here, hql⟩ := not_or.1 (mt List.mem_cons.2 hq)
      exact (others q hql).trans (stands q here)

/-- STALE_SEEN bears on nothing of the point's own step. -/
theorem PointStep.seen {u : Update} {s : State} {p : PointNo} {r r' : Point} {l : List Instr}
    (h : PointStep u s p r r' l) (b : Bool) :
    PointStep u s p r { r' with figures := { r'.figures with staleSeen := b } } l := by
  obtain ⟨stands, computed⟩ := h
  refine ⟨fun hn => ⟨(stands hn).1, ?_⟩, computed⟩
  rw [(stands hn).2]

/-- The record after an update that may list a quantity of the point into STALE (R47). -/
theorem staleSeenUpdate_get (u : Update) (s : State) (p : PointNo) : (staleSeenUpdate u s).scm.points.get p
    = let r := s.scm.points.get p
      { r with figures := { r.figures with
          staleSeen := r.figures.staleSeen || u.intoStale (pointQty p) || u.intoStale qSilica } } := by
  have got : (staleSeenUpdate u s).scm.points.get p = _ := Bank.get_mapIdx ..
  rw [got]
  cases u.intoStale (pointQty p) <;> cases u.intoStale qSilica <;> simp

/-! ### The events of the points, and those of the floor, the wells and the exchanger -/

/-- An event is none of the points': neither an alarm change of SILICA_SI nor a change of SP0 (R33). -/
def OffPoints (e : Instr) : Prop :=
  (∀ p ch, e ≠ .alarmChange .silicaSi p ch) ∧ (∀ p, e ≠ .alarmClear .silicaSi p) ∧ ∀ a b, e ≠ .hxcSp0Change a b

section Off

@[simp] theorem offPoints_alarmChange {a src ch} : OffPoints (.alarmChange a src ch) ↔ a ≠ .silicaSi := by
  simp [OffPoints]

@[simp] theorem offPoints_alarmClear {a src} : OffPoints (.alarmClear a src) ↔ a ≠ .silicaSi := by
  simp [OffPoints]

@[simp] theorem offPoints_hxcSilicaStale {b} : OffPoints (.hxcSilicaStale b) := by simp [OffPoints]

@[simp] theorem offPoints_wccFlashMargin {c m} : OffPoints (.wccFlashMargin c m) := by simp [OffPoints]

@[simp] theorem offPoints_wccFlashHold {c h} : OffPoints (.wccFlashHold c h) := by simp [OffPoints]

@[simp] theorem offPoints_bbuFlashHold {c h} : OffPoints (.bbuFlashHold c h) := by simp [OffPoints]

theorem staleClearEvents_off {f : Floor} : ∀ e ∈ staleClearEvents f, OffPoints e := by
  unfold staleClearEvents; split <;> simp

theorem unreachableEvents_off {old new : FloorFlag} {target : Int} :
    ∀ e ∈ unreachableEvents old new target, OffPoints e := by
  unfold unreachableEvents; split
  · simp
  · split <;> simp

theorem foulingAlarm_off {code : AlarmCode} (h : code ≠ .silicaSi) {src : Source} {rise : Int} {old new : WatchState} :
    ∀ e ∈ foulingAlarm code src rise old new, OffPoints e := by
  unfold foulingAlarm; split <;> simp [h]

theorem compareFouling_off {code : AlarmCode} (h : code ≠ .silicaSi) {s : State} {u : Update} {flowQ dpQ : QtyNo}
    {rated : Int} {src : Source} {r : Fouling} :
    ∀ e ∈ (s.compareFouling u flowQ dpQ rated code src r).2, OffPoints e := by
  unfold State.compareFouling
  split
  · split
    · split
      · exact foulingAlarm_off h
      · simp
    · simp
  · simp

end Off

/-- The floor's record replaced and its events handed. -/
def floorTo (s : State) (f : Floor) (l : List Instr) : State :=
  { s with scm := { s.scm with floor := f }, handed := s.handed ++ l }

theorem floorTo_same (s : State) : floorTo s s.scm.floor [] = s := by simp [floorTo]

theorem floorUpdate_steps (u : Update) (s : State) : ∃ f l, floorUpdate u s = floorTo s f l ∧ (∀ e ∈ l, OffPoints e)
    ∧ (u.newValue qSilica = none → f = s.scm.floor ∧ l = []) := by
  cases h : u.newValue qSilica with
  | none =>
    refine ⟨s.scm.floor, [], ?_, by simp, fun _ => ⟨rfl, rfl⟩⟩
    rw [floorTo_same, floorUpdate_of_noValue h]
  | some c =>
    have made : floorUpdate u s = floorTo s (s.freshFloor c) (staleClearEvents s.scm.floor
        ++ unreachableEvents s.scm.floor.flag (s.freshFloor c).flag ((s.freshFloor c).target.getD 0)) := by
      unfold floorUpdate
      rw [h]
      rfl
    refine ⟨_, _, made, fun e he => ?_, nofun⟩
    exact (List.mem_append.1 he).elim (staleClearEvents_off e) (unreachableEvents_off e)

/-- The floor at an update: it changes the floor's record alone, and nothing unless SILICA is listed (R36, R37). -/
theorem floor_steps (u : Update) (s : State) : ∃ f l, holdUpdate u (floorUpdate u s) = floorTo s f l
    ∧ (∀ e ∈ l, OffPoints e)
    ∧ (u.newValue qSilica = none → u.intoStale qSilica = false → f = s.scm.floor ∧ l = []) := by
  obtain ⟨f, l, value, off, kept⟩ := floorUpdate_steps u s
  cases h : u.intoStale qSilica with
  | false => exact ⟨f, l, by simp [holdUpdate, h, value], off, fun hn _ => kept hn⟩
  | true => exact ⟨_, l, (if_pos h).trans (by rw [value]; rfl), off, nofun⟩

end Sys2Proof.Proofs

/-! PROOFS. What the Scaling Monitor does with an update: the wells and the exchanger (R40 to R45). -/

namespace Sys2Proof.Proofs

open Sys2Proof.Machine

/-! ### The calcite record of a well -/

/-- A calcite record replaced, its events handed, and the free values counted on to `n`. -/
def calciteTo (s : State) (c : WellNo) (r : Calcite) (l : List Instr) (n : Nat) : State :=
  { (s.setCalcite c r).hand l with free := n }

theorem calciteTo_same (s : State) (c : WellNo) : calciteTo s c (s.scm.calcite.get c) [] s.free = s := by
  simp [calciteTo, State.setCalcite, Bank.set_get_self]

theorem calciteTo_get (s : State) (c : WellNo) (r : Calcite) (l : List Instr) (n : Nat) :
    (calciteTo s c r l n).scm.calcite.get c = r := Bank.get_set_self _ _ _

theorem calciteTo_calciteTo (s : State) (c : WellNo) (r r' : Calcite) (l l' : List Instr) (n n' : Nat) :
    calciteTo (calciteTo s c r l n) c r' l' n' = calciteTo s c r' (l ++ l') n' := by
  simp [calciteTo, State.setCalcite, State.hand, Laws.set_set]

/-- CALCITE_RISK at a move of FLASH_HOLD to `hold` from the calcite state `old` (R42). -/
def RiskMoves (u : Update) (s : State) (c : WellNo) (hold : Bool) (old new : WatchState) (move : List Instr) : Prop :=
  (old = .none → move = [] ∧ new = .none)
  ∧ (old ≠ .none → hold = true → new = .alarm
    ∧ ∃ v, move = [.alarmChange .calciteRisk (.well c) (.escalate .alarm v)]
      ∧ (∀ w, u.valid s (qInhibFeed c) = some w → v = w)
      ∧ (u.stateOf s (qInhibFeed c) = .stale → u.valid s (qInhibFeed c) = none → v = -1))
  ∧ (old ≠ .none → hold = false → new = .watch
    ∧ move = [.alarmChange .calciteRisk (.well c) (.deescalate .watch)])

theorem feedValue_of_valid {u : Update} {s : State} {c : WellNo} {w : Int} (h : u.valid s (qInhibFeed c) = some w) :
    s.feedValue u c = w := by
  simp [State.feedValue, h]

theorem feedValue_of_stale {u : Update} {s : State} {c : WellNo} (h : u.stateOf s (qInhibFeed c) = .stale)
    (hv : u.valid s (qInhibFeed c) = none) : s.feedValue u c = -1 := by
  simp [State.feedValue, h, hv]

theorem moveCalcite_moves (u : Update) (s : State) (c : WellNo) (hold : Bool) : ∃ new move n,
    moveCalcite u s c hold = calciteTo s c { s.scm.calcite.get c with state := new } move n
    ∧ RiskMoves u s c hold (s.scm.calcite.get c).state new move := by
  by_cases none : (s.scm.calcite.get c).state = .none
  · refine ⟨_, _, _, (if_pos none).trans (calciteTo_same s c).symm, fun _ => ⟨rfl, none⟩, ?_, ?_⟩
    · exact fun h => absurd none h
    · exact fun h => absurd none h
  · cases hold with
    | true =>
      refine ⟨_, _, _, if_neg none, fun h => absurd h none, fun _ _ => ⟨rfl, _, rfl, ?_, ?_⟩, nofun⟩
      · exact fun w hw => feedValue_of_valid hw
      · exact feedValue_of_stale
    | false => exact ⟨_, _, s.free, if_neg none, fun h => absurd h none, nofun, fun _ _ => ⟨rfl, rfl⟩⟩

/-- FLASH_HOLD at a move from the record `r` to `held`, and CALCITE_RISK with it (R41, R42). -/
def HoldMoves (u : Update) (s : State) (c : WellNo) (r : Calcite) (held : Bool) (moved : WatchState)
    (hold move : List Instr) : Prop :=
  (r.hold = true → held = false →
    hold = [.alarmClear .flashWatch (.well c), .bbuFlashHold c false, .wccFlashHold c false])
  ∧ (held = r.hold → hold = [] ∧ move = [] ∧ moved = r.state)
  ∧ (held ≠ r.hold → RiskMoves u s c held r.state moved move)

theorem HoldMoves.stands (u : Update) (s : State) (c : WellNo) (r : Calcite) :
    HoldMoves u s c r r.hold r.state [] [] :=
  ⟨fun h h' => absurd (h.symm.trans h') nofun, fun _ => ⟨rfl, rfl, rfl⟩, fun h => absurd rfl h⟩

/-- The margin's two marks, 50 apart, between which FLASH_HOLD stands (R41). -/
theorem holdAfter_iff (watch m : Int) (hold : Bool) : (hold = false → (holdAfter watch m hold = true ↔ m < watch))
    ∧ (hold = true → (holdAfter watch m hold = false ↔ watch + 50 ≤ m)) := by
  constructor
  · rintro rfl
    simp [holdAfter]
  · rintro rfl
    simp [holdAfter]

/-- The events of a move of FLASH_HOLD to `held` at the margin `m` (R41). -/
def flashEvents (c : WellNo) (m : Int) (held : Bool) : List Instr :=
  (if held then [Instr.alarmChange .flashWatch (.well c) (.raise .watch m)]
    else [Instr.alarmClear .flashWatch (.well c)]) ++ [.bbuFlashHold c held, .wccFlashHold c held]

theorem flashEvents_on {c : WellNo} {m : Int} {held : Bool} (h : held = true) : flashEvents c m held
    = [.alarmChange .flashWatch (.well c) (.raise .watch m), .bbuFlashHold c true, .wccFlashHold c true] := by
  subst h; rfl

theorem flashEvents_off {c : WellNo} {m : Int} {held : Bool} (h : held = false) : flashEvents c m held
    = [.alarmClear .flashWatch (.well c), .bbuFlashHold c false, .wccFlashHold c false] := by
  subst h; rfl

theorem holdUpdateWell_moves (u : Update) (s : State) (c : WellNo) (m : Int) : ∃ held moved hold move n,
    let r := s.scm.calcite.get c
    holdUpdateWell u s c m = calciteTo s c { r with hold := held, state := moved } (hold ++ move) n
    ∧ held = holdAfter (s.scaleSet .flashWatch) m r.hold ∧ HoldMoves u s c r held moved hold move
    ∧ (r.hold = false → held = true → hold = [.alarmChange .flashWatch (.well c) (.raise .watch m),
      .bbuFlashHold c true, .wccFlashHold c true]) := by
  by_cases same : holdAfter (s.scaleSet .flashWatch) m (s.scm.calcite.get c).hold = (s.scm.calcite.get c).hold
  · refine ⟨_, _, [], [], _, (if_pos same).trans (calciteTo_same s c).symm, same.symm, .stands u s c _, ?_⟩
    exact fun h h' => absurd (h.symm.trans h') nofun
  · obtain ⟨new, move, n, moved, risk⟩ := moveCalcite_moves u (calciteTo s c
      { s.scm.calcite.get c with hold := holdAfter (s.scaleSet .flashWatch) m (s.scm.calcite.get c).hold }
      (flashEvents c m (holdAfter (s.scaleSet .flashWatch) m (s.scm.calcite.get c).hold)) s.free) c
      (holdAfter (s.scaleSet .flashWatch) m (s.scm.calcite.get c).hold)
    rw [calciteTo_calciteTo] at moved
    rw [calciteTo_get] at moved risk
    exact ⟨_, new, _, move, n, (if_neg same).trans moved, rfl,
      ⟨fun _ off => flashEvents_off off, fun h => absurd h same, fun _ => risk⟩, fun _ on => flashEvents_on on⟩

/-! ### The flash margin (R40) -/

/-- The flash margin of a production well at an update, with the hold and the risk that follow it: the record `r`, the
record `r'` after it, and the events handed. -/
def MarginStep (u : Update) (s : State) (c : WellNo) (r r' : Calcite) (margin hold move : List Instr) : Prop :=
  let lost := u.outOfValid (qIntakeP c) || u.outOfValid (qWhTemp c)
  let fresh := u.listsValue (qIntakeP c) || u.listsValue (qWhTemp c)
  (lost = true → r'.margin = none ∧ r'.clamp = .none ∧ r'.hold = r.hold
    ∧ margin = if r.margin.isSome then [.wccFlashMargin c none] else [])
  ∧ (lost = false → fresh = false ∨ u.valid s (qIntakeP c) = none ∨ u.valid s (qWhTemp c) = none →
    r'.margin = r.margin ∧ r'.clamp = r.clamp ∧ r'.hold = r.hold ∧ margin = [])
  ∧ (∀ p x, lost = false → fresh = true → u.valid s (qIntakeP c) = some p →
    u.valid s (qWhTemp c) = some x → ∃ m f, forward .psat (s.tbl .psat) x = f ∧ m = p - f.1
      ∧ r'.margin = some m ∧ r'.clamp = f.2 ∧ margin = [.wccFlashMargin c (some m)]
      ∧ (r.hold = false → (r'.hold = true ↔ m < s.scaleSet .flashWatch))
      ∧ (r.hold = true → (r'.hold = false ↔ s.scaleSet .flashWatch + 50 ≤ m))
      ∧ (r.hold = false → r'.hold = true → hold = [.alarmChange .flashWatch (.well c) (.raise .watch m),
        .bbuFlashHold c true, .wccFlashHold c true]))
  ∧ HoldMoves u s c r r'.hold r'.state hold move
  ∧ r'.running = r.running ∧ r'.feedRun = r.feedRun

/-- The margin computed at an intake pressure and a wellhead temperature. -/
def computeMargin (u : Update) (s : State) (c : WellNo) (p x : Int) : State :=
  holdUpdateWell u (calciteTo s c { s.scm.calcite.get c with
    margin := some (p - (forward .psat (s.tbl .psat) x).1), clamp := (forward .psat (s.tbl .psat) x).2 }
    [.wccFlashMargin c (some (p - (forward .psat (s.tbl .psat) x).1))] s.free) c
    (p - (forward .psat (s.tbl .psat) x).1)

theorem computeMargin_moves (u : Update) (s : State) (c : WellNo) (p x : Int) : ∃ held moved hold move n,
    let r := s.scm.calcite.get c
    let f := forward .psat (s.tbl .psat) x
    computeMargin u s c p x = calciteTo s c
      { r with margin := some (p - f.1), clamp := f.2, hold := held, state := moved }
      ([.wccFlashMargin c (some (p - f.1))] ++ hold ++ move) n
    ∧ held = holdAfter (s.scaleSet .flashWatch) (p - f.1) r.hold ∧ HoldMoves u s c r held moved hold move
    ∧ (r.hold = false → held = true → hold = [.alarmChange .flashWatch (.well c) (.raise .watch (p - f.1)),
      .bbuFlashHold c true, .wccFlashHold c true]) := by
  obtain ⟨held, moved, hold, move, n, he, hh, moves, raised⟩ := holdUpdateWell_moves u (calciteTo s c
    { s.scm.calcite.get c with
      margin := some (p - (forward .psat (s.tbl .psat) x).1), clamp := (forward .psat (s.tbl .psat) x).2 }
    [.wccFlashMargin c (some (p - (forward .psat (s.tbl .psat) x).1))] s.free) c
    (p - (forward .psat (s.tbl .psat) x).1)
  rw [calciteTo_calciteTo] at he
  rw [calciteTo_get] at he hh moves raised
  exact ⟨held, moved, hold, move, n, by rw [List.append_assoc]; exact he, hh, moves, raised⟩

theorem marginUpdate_steps (u : Update) (s : State) (c : WellNo) : ∃ r margin hold move n,
    marginUpdate u s c = calciteTo s c r (margin ++ hold ++ move) n
    ∧ MarginStep u s c (s.scm.calcite.get c) r margin hold move := by
  by_cases lost : (u.outOfValid (qIntakeP c) || u.outOfValid (qWhTemp c)) = true
  · have dropped : marginUpdate u s c = calciteTo s c { s.scm.calcite.get c with margin := none, clamp := .none }
        (if (s.scm.calcite.get c).margin.isSome then [.wccFlashMargin c none] else []) s.free := by
      refine (if_pos lost).trans ?_
      split
      · rfl
      · exact (State.hand_nil (s.setCalcite _ _)).symm
    refine ⟨{ s.scm.calcite.get c with margin := none, clamp := .none }, _, [], [], _, by simpa using dropped, fun _ => ⟨rfl, rfl, rfl, rfl⟩,
      fun h => ?_, fun _ _ h => ?_, .stands u s c _, rfl, rfl⟩
    · exact absurd (lost.symm.trans h) nofun
    · exact absurd (lost.symm.trans h) nofun
  have stands (h : marginUpdate u s c = s)
      (hn : (u.listsValue (qIntakeP c) || u.listsValue (qWhTemp c)) = false ∨ u.valid s (qIntakeP c) = none
        ∨ u.valid s (qWhTemp c) = none) : ∃ r margin hold move n,
      marginUpdate u s c = calciteTo s c r (margin ++ hold ++ move) n
      ∧ MarginStep u s c (s.scm.calcite.get c) r margin hold move := by
    refine ⟨_, [], [], [], _, h.trans (calciteTo_same s c).symm, fun h => absurd h lost, fun _ _ => ⟨rfl, rfl, rfl, rfl⟩,
      fun p x _ hf hp hx => ?_, .stands u s c _, rfl, rfl⟩
    simp [hf, hp, hx] at hn
  by_cases fresh : (u.listsValue (qIntakeP c) || u.listsValue (qWhTemp c)) = true
  · cases hp : u.valid s (qIntakeP c) with
    | none => exact stands ((if_neg lost).trans ((if_pos fresh).trans (by simp only [hp]))) (.inr (.inl hp))
    | some p =>
      cases hx : u.valid s (qWhTemp c) with
      | none => exact stands ((if_neg lost).trans ((if_pos fresh).trans (by simp only [hp, hx]))) (.inr (.inr hx))
      | some x =>
        have computed : marginUpdate u s c = computeMargin u s c p x :=
          (if_neg lost).trans ((if_pos fresh).trans (by simp only [hp, hx]; rfl))
        obtain ⟨held, moved, hold, move, n, he, hh, moves, raised⟩ := computeMargin_moves u s c p x
        refine ⟨_, _, hold, move, n, computed.trans he, fun h => absurd h lost, fun _ hn => ?_, fun p' x' _ _ hp' hx' =>
          ⟨_, _, rfl, rfl, ?_⟩, moves, rfl, rfl⟩
        · simp [fresh, hp, hx] at hn
        · obtain rfl : p = p' := Option.some.inj (hp.symm.trans hp')
          obtain rfl : x = x' := Option.some.inj (hx.symm.trans hx')
          exact ⟨rfl, rfl, rfl, fun h => hh ▸ (holdAfter_iff _ _ _).1 h, fun h => hh ▸ (holdAfter_iff _ _ _).2 h, raised⟩
  · have fresh := Bool.eq_false_iff.2 fresh
    exact stands ((if_neg lost).trans (if_neg (Bool.eq_false_iff.1 fresh))) (.inl fresh)

/-! ### The inhibitor feed (R42) -/

/-- A feed evaluated short: VALID and below INHIB_MIN, or STALE (−1). -/
theorem feedShort_iff {u : Update} {s : State} {c : WellNo} {v : Int} : feedShort u s c = some (true, v) ↔
    (u.valid s (qInhibFeed c) = some v ∧ v < s.wellSet c .inhibMin)
      ∨ (u.valid s (qInhibFeed c) = none ∧ u.stateOf s (qInhibFeed c) = .stale ∧ v = -1) := by
  unfold feedShort
  cases hv : u.valid s (qInhibFeed c) with
  | some w =>
    simp only [Option.some.injEq, Prod.mk.injEq, decide_eq_true_eq, reduceCtorEq, false_and, or_false]
    exact ⟨fun ⟨h, e⟩ => ⟨e, e ▸ h⟩, fun ⟨e, h⟩ => ⟨e ▸ h, e⟩⟩
  | none => by_cases stale : u.stateOf s (qInhibFeed c) = .stale <;> simp [stale, eq_comm]

theorem feedGood_iff {u : Update} {s : State} {c : WellNo} {v : Int} : feedShort u s c = some (false, v) ↔
    u.valid s (qInhibFeed c) = some v ∧ s.wellSet c .inhibMin ≤ v := by
  unfold feedShort
  cases hv : u.valid s (qInhibFeed c) with
  | some w =>
    simp only [Option.some.injEq, Prod.mk.injEq, decide_eq_false_iff_not, Int.not_lt]
    exact ⟨fun ⟨h, e⟩ => ⟨e, e ▸ h⟩, fun ⟨e, h⟩ => ⟨e ▸ h, e⟩⟩
  | none => by_cases stale : u.stateOf s (qInhibFeed c) = .stale <;> simp [stale]

theorem feedSilent_iff {u : Update} {s : State} {c : WellNo} : feedShort u s c = none ↔
    u.valid s (qInhibFeed c) = none ∧ u.stateOf s (qInhibFeed c) ≠ .stale := by
  unfold feedShort
  cases u.valid s (qInhibFeed c) <;> simp

/-- The record and the events of a feed that is not evaluated, or that changes nothing. -/
def FeedStands (r r' : Calcite) (feed : List Instr) : Prop :=
  r'.feedRun = r.feedRun ∧ r'.state = r.state ∧ feed = []

/-- A short evaluation, carrying `v`. -/
def FeedShort (s : State) (c : WellNo) (r : Calcite) (v : Int) (r' : Calcite) (feed : List Instr) : Prop :=
  (r.state ≠ .none → FeedStands r r' feed)
  ∧ (r.state = .none → r'.feedRun = min (r.feedRun + 1) 15
    ∧ ((r'.feedRun : Int) < s.scaleSet .calcitePersist → r'.state = .none ∧ feed = [])
    ∧ (s.scaleSet .calcitePersist ≤ (r'.feedRun : Int) →
      r'.state = (if r.hold then .alarm else .watch)
      ∧ feed = [.alarmChange .calciteRisk (.well c) (.raise (if r.hold then .alarm else .watch) v)]))

/-- The inhibitor feed of a production well at an update: the record `r` as the margin left it, the record `r'` after
it, and the events handed. -/
def FeedStep (u : Update) (s : State) (c : WellNo) (r r' : Calcite) (feed : List Instr) : Prop :=
  (r.running = false ∨ listsWell u c = false → FeedStands r r' feed)
  ∧ (r.running = true → listsWell u c = true →
    (∀ v, feedShort u s c = some (false, v) → r'.feedRun = 0 ∧ r'.state = .none
      ∧ feed = if r.state = WatchState.none then [] else [.alarmClear .calciteRisk (.well c)])
    ∧ (∀ v, feedShort u s c = some (true, v) → FeedShort s c r v r' feed)
    ∧ (feedShort u s c = none → FeedStands r r' feed))
  ∧ r'.running = r.running ∧ r'.hold = r.hold ∧ r'.margin = r.margin ∧ r'.clamp = r.clamp

/-- A short evaluation counts the run and raises CALCITE_RISK once; a raised one stands. -/
theorem feedIsShort_steps (s : State) (c : WellNo) (v : Int) : ∃ run state feed,
    let r := s.scm.calcite.get c
    feedIsShort s c v = calciteTo s c { r with feedRun := run, state := state } feed s.free
    ∧ FeedShort s c r v { r with feedRun := run, state := state } feed := by
  by_cases none : (s.scm.calcite.get c).state = .none
  · by_cases due : reaches (run15 (s.scm.calcite.get c).feedRun) (s.scaleSet .calcitePersist) = true
    · refine ⟨_, _, _, (if_neg (not_not.2 none)).trans (if_pos due), fun h => absurd none h, fun _ => ⟨rfl, fun h => ?_,
        fun _ => ⟨rfl, rfl⟩⟩⟩
      exact absurd h (Int.not_lt.2 (of_decide_eq_true due))
    · refine ⟨run15 (s.scm.calcite.get c).feedRun, .none, [], ?_, fun h => absurd none h, fun _ => ⟨rfl,
        fun _ => ⟨rfl, rfl⟩, fun h => absurd (decide_eq_true h) due⟩⟩
      refine (if_neg (not_not.2 none)).trans ((if_neg due).trans ?_)
      rw [← none]
      exact (State.hand_nil (s.setCalcite _ _)).symm
  · exact ⟨_, _, _, (if_pos none).trans (calciteTo_same s c).symm, fun _ => ⟨rfl, rfl, rfl⟩, fun h => absurd h none⟩

/-- A feed that is evaluated acts as its evaluation says. -/
theorem feedUpdate_evaluated {u : Update} {s : State} {c : WellNo} (lists : listsWell u c = true)
    (running : (s.scm.calcite.get c).running = true) : ∃ r feed,
    feedUpdate u s c = calciteTo s c r feed s.free ∧ FeedStep u s c (s.scm.calcite.get c) r feed := by
  have on : (listsWell u c && (s.scm.calcite.get c).running) = true := by simp [lists, running]
  have evaluated (h : (s.scm.calcite.get c).running = false ∨ listsWell u c = false) : False := by
    simp [lists, running] at h
  cases hf : feedShort u s c with
  | none =>
    have stands : feedUpdate u s c = s := (if_pos on).trans (by rw [hf])
    refine ⟨_, [], stands.trans (calciteTo_same s c).symm, fun h => (evaluated h).elim, fun _ _ => ⟨fun v h => ?_,
      fun v h => ?_, fun _ => ⟨rfl, rfl, rfl⟩⟩, rfl, rfl, rfl, rfl⟩ <;> simp [hf] at h
  | some x =>
    obtain ⟨short, v⟩ := x
    cases short with
    | false =>
      have good : feedUpdate u s c = feedIsGood s c := (if_pos on).trans (by rw [hf])
      refine ⟨{ s.scm.calcite.get c with feedRun := 0, state := .none }, _, good.trans rfl,
        fun h => (evaluated h).elim, fun _ _ => ⟨fun _ _ => ⟨rfl, rfl, rfl⟩, fun v h => ?_, fun h => ?_⟩,
        rfl, rfl, rfl, rfl⟩ <;> simp [hf] at h
    | true =>
      have isShort : feedUpdate u s c = feedIsShort s c v := (if_pos on).trans (by rw [hf])
      obtain ⟨run, state, feed, he, counts⟩ := feedIsShort_steps s c v
      refine ⟨_, feed, isShort.trans he, fun h => (evaluated h).elim, fun _ _ => ⟨fun v' h => ?_, fun v' h => ?_,
        fun h => ?_⟩, rfl, rfl, rfl, rfl⟩
      · simp [hf] at h
      · obtain rfl : v = v' := by simpa [hf] using h
        exact counts
      · simp [hf] at h

theorem feedUpdate_steps (u : Update) (s : State) (c : WellNo) : ∃ r feed,
    feedUpdate u s c = calciteTo s c r feed s.free ∧ FeedStep u s c (s.scm.calcite.get c) r feed := by
  by_cases on : (listsWell u c && (s.scm.calcite.get c).running) = true
  · obtain ⟨lists, running⟩ := Bool.and_eq_true_iff.1 on
    exact feedUpdate_evaluated lists running
  · refine ⟨_, [], (if_neg on).trans (calciteTo_same s c).symm, fun _ => ⟨rfl, rfl, rfl⟩, fun running lists => ?_,
      rfl, rfl, rfl, rfl⟩
    exact absurd (Bool.and_eq_true_iff.2 ⟨lists, running⟩) on

/-! ### Fouling (R44, R45) -/

theorem inBand_iff {band rated flow : Int} : inBand band rated flow = true ↔ |flow - rated| * 1000 ≤ band * rated :=
  decide_eq_true_iff

/-- The table of R45, its rows in their order, with the alarm change of each (log 43). -/
theorem foulingAfter_rows (watch alarm hyst rise : Int) (old : WatchState) (code : AlarmCode) (src : Source) :
    let st := foulingAfter watch alarm hyst rise old
    let l := foulingAlarm code src rise old st
    (old = .none → alarm ≤ rise → st = .alarm ∧ l = [.alarmChange code src (.raise .alarm rise)])
    ∧ (old = .none → rise < alarm → watch ≤ rise → st = .watch ∧ l = [.alarmChange code src (.raise .watch rise)])
    ∧ (old = .none → rise < alarm → rise < watch → st = .none ∧ l = [])
    ∧ (old = .watch → alarm ≤ rise → st = .alarm ∧ l = [.alarmChange code src (.escalate .alarm rise)])
    ∧ (old = .watch → rise < alarm → rise < watch - hyst → st = .none ∧ l = [.alarmClear code src])
    ∧ (old = .watch → rise < alarm → watch - hyst ≤ rise → st = .watch ∧ l = [])
    ∧ (old = .alarm → rise < alarm - hyst → watch - hyst ≤ rise →
      st = .watch ∧ l = [.alarmChange code src (.deescalate .watch)])
    ∧ (old = .alarm → rise < watch - hyst → st = .none ∧ l = [.alarmClear code src])
    ∧ (old = .alarm → alarm - hyst ≤ rise → watch - hyst ≤ rise → st = .alarm ∧ l = []) := by
  intro st l
  have row {old' new : WatchState} (ho : old = old') (h : foulingAfter watch alarm hyst rise old' = new) :
      st = new ∧ l = foulingAlarm code src rise old' new := by
    subst ho
    exact ⟨h, congrArg (foulingAlarm code src rise old) h⟩
  refine ⟨fun ho h => row ho (if_pos h), fun ho h h' => row ho ((if_neg h.not_ge).trans (if_pos h')),
    fun ho h h' => row ho ((if_neg h.not_ge).trans (if_neg h'.not_ge)), fun ho h => row ho (if_pos h),
    fun ho h h' => row ho ((if_neg h.not_ge).trans (if_pos h')),
    fun ho h h' => row ho ((if_neg h.not_ge).trans (if_neg h'.not_gt)), fun ho h h' => row ho (if_pos ⟨h, h'⟩),
    fun ho h => row ho ((if_neg fun e => h.not_ge e.2).trans (if_pos h)),
    fun ho h h' => row ho ((if_neg fun e => h.not_gt e.1).trans (if_neg h'.not_gt))⟩

/-- A comparison that is due takes the row of R45's table for its rise. -/
theorem compareFouling_steps (s : State) (u : Update) (flowQ dpQ : QtyNo) (rated : Int) (code : AlarmCode) (src : Source)
    (r : Fouling) : FoulingStep s u flowQ dpQ rated code src r
      (s.compareFouling u flowQ dpQ rated code src r).1 (s.compareFouling u flowQ dpQ rated code src r).2 := by
  refine ⟨fun idle => ?_, fun f d b lists hf hd hb band => ⟨riseOf d b, foulingAfter (s.scaleSet .foulWatch)
    (s.scaleSet .foulAlarm) (s.scaleSet .foulHyst) (riseOf d b) r.state, rfl, ?_⟩⟩
  · suffices h : s.compareFouling u flowQ dpQ rated code src r = (r, []) by rw [h]; exact ⟨rfl, rfl⟩
    unfold State.compareFouling
    split
    next lists =>
      split
      next f d b hf hd hb =>
        have out : ¬ inBand (s.scaleSet .foulBand) rated f = true := by
          rw [inBand_iff]
          simpa [Bool.or_eq_true_iff.1 lists, hf, hd, hb] using idle
        exact if_neg out
      next => rfl
    next => rfl
  · have compared : s.compareFouling u flowQ dpQ rated code src r
        = (⟨some b, some (riseOf d b), foulingAfter (s.scaleSet .foulWatch) (s.scaleSet .foulAlarm)
            (s.scaleSet .foulHyst) (riseOf d b) r.state⟩,
          foulingAlarm code src (riseOf d b) r.state (foulingAfter (s.scaleSet .foulWatch) (s.scaleSet .foulAlarm)
            (s.scaleSet .foulHyst) (riseOf d b) r.state)) := by
      simp [State.compareFouling, lists, hf, hd, hb, inBand_iff.2 band]
    rw [compared]
    exact ⟨rfl, foulingAfter_rows ..⟩

/-- The comparison reads quantities and settings alone. -/
theorem compareFouling_of_same {s t : State} (hq : t.qtb = s.qtb) (hl : t.ssl = s.ssl) (u : Update) (flowQ dpQ : QtyNo)
    (rated : Int) (code : AlarmCode) (src : Source) (r : Fouling) :
    t.compareFouling u flowQ dpQ rated code src r = s.compareFouling u flowQ dpQ rated code src r := by
  have set (i : ScaleItem) : t.scaleSet i = s.scaleSet i := by simp only [State.scaleSet, State.item, hl]
  unfold State.compareFouling
  rw [valid_of_qtb hq u flowQ, valid_of_qtb hq u dpQ, set .foulBand, set .foulWatch, set .foulAlarm, set .foulHyst]

/-! ### A well and the exchanger, whole -/

/-- From `s` to `t` the points are kept, and no event that is handed is one of the points'. -/
structure LeavesPoints (s t : State) : Prop where
  points : t.scm.points = s.scm.points
  handed : ∃ l, t.handed = s.handed ++ l ∧ ∀ e ∈ l, OffPoints e

namespace LeavesPoints

theorem refl (s : State) : LeavesPoints s s := ⟨rfl, [], by simp, by simp⟩

theorem trans {r s t : State} (h : LeavesPoints r s) (k : LeavesPoints s t) : LeavesPoints r t := by
  obtain ⟨points_s, l, handed_s, off_l⟩ := h
  obtain ⟨points_t, m, handed_t, off_m⟩ := k
  refine ⟨points_t.trans points_s, l ++ m, by rw [handed_t, handed_s, List.append_assoc], ?_⟩
  exact fun e he => (List.mem_append.1 he).elim (off_l e) (off_m e)

theorem watched {s : State} {c : WellNo} {r : Calcite} {l : List Instr} (off : ∀ e ∈ l, OffPoints e) :
    LeavesPoints s ((s.setCalcite c r).hand l) := ⟨rfl, l, rfl, off⟩

theorem foldl {α : Type} {f : State → α → State} (hf : ∀ r x, LeavesPoints r (f r x)) (xs : List α) :
    ∀ s, LeavesPoints s (xs.foldl f s) := by
  induction xs with
  | nil => exact refl
  | cons x xs ih => exact fun s => (hf s x).trans (ih _)

end LeavesPoints

theorem moveCalcite_leavesPoints (u : Update) (s : State) (c : WellNo) (hold : Bool) :
    LeavesPoints s (moveCalcite u s c hold) := by
  dsimp only [moveCalcite]
  split
  · exact .refl s
  · split
    · exact (LeavesPoints.watched (by simp)).trans ⟨rfl, [], (List.append_nil _).symm, by simp⟩
    · exact .watched (by simp)

theorem marginUpdate_leavesPoints (u : Update) (s : State) (c : WellNo) : LeavesPoints s (marginUpdate u s c) := by
  have held (t : State) (m : Int) : LeavesPoints t (holdUpdateWell u t c m) := by
    dsimp only [holdUpdateWell]
    split
    · exact .refl t
    · refine LeavesPoints.trans (.watched ?_) (moveCalcite_leavesPoints ..)
      split <;> simp
  dsimp only [marginUpdate]
  split
  · split
    · exact .watched (by simp)
    · exact ⟨rfl, [], (List.append_nil _).symm, by simp⟩
  · split
    · split
      · exact LeavesPoints.trans (.watched (by simp)) (held ..)
      · exact .refl s
    · exact .refl s

theorem feedUpdate_leavesPoints (u : Update) (s : State) (c : WellNo) : LeavesPoints s (feedUpdate u s c) := by
  unfold feedUpdate
  split
  · split
    · dsimp only [feedIsShort]
      split
      · exact .refl s
      · split
        · exact .watched (by simp)
        · exact ⟨rfl, [], (List.append_nil _).symm, by simp⟩
    · refine .watched ?_
      split <;> simp
    · exact .refl s
  · exact .refl s

theorem pumpUpdate_leavesPoints (u : Update) (s : State) (c : WellNo) : LeavesPoints s (pumpUpdate u s c) :=
  ⟨rfl, _, rfl, compareFouling_off (by decide)⟩

theorem hxFoulingUpdate_leavesPoints (u : Update) (s : State) : LeavesPoints s (hxFoulingUpdate u s) :=
  ⟨rfl, _, rfl, compareFouling_off (by decide)⟩

theorem wellUpdate_leavesPoints (u : Update) (s : State) (c : WellNo) : LeavesPoints s (wellUpdate u s c) := by
  unfold wellUpdate
  split
  · exact ((marginUpdate_leavesPoints ..).trans (feedUpdate_leavesPoints ..)).trans (pumpUpdate_leavesPoints ..)
  · exact .refl s

/-- Settles O21: the floor first, each point by its own step, and then the wells and the exchanger. -/
theorem pointsAreComputed : Obligations.PointsAreComputed := by
  intro u s
  obtain ⟨f, early, floored, offEarly, -⟩ := floor_steps u (s.took (.scmUpdate u))
  obtain ⟨b, parts, pointed, steps, -⟩ :=
    pointUpdates_step u pointNos (List.nodup_finRange 4) (floorTo (s.took (.scmUpdate u)) f early)
  have rest := (LeavesPoints.foldl (wellUpdate_leavesPoints u) wells (staleSeenUpdate u
    (pointNos.foldl (pointUpdate u) (floorTo (s.took (.scmUpdate u)) f early)))).trans (hxFoulingUpdate_leavesPoints u _)
  obtain ⟨points, late, handed, offLate⟩ := rest
  have exec_eq : exec (.scmUpdate u) s = .next (hxFoulingUpdate u (wells.foldl (wellUpdate u) (staleSeenUpdate u
      (pointNos.foldl (pointUpdate u) (floorTo (s.took (.scmUpdate u)) f early))))) := by
    rw [← floored]
    rfl
  refine ⟨_, early, late, parts, exec_eq, .of_exec exec_eq, ?_, fun e he => ?_, fun p => ?_⟩
  · rw [handed, pointed]
    rfl
  · exact (List.mem_append.1 he).elim (offEarly e) (offLate e)
  · obtain ⟨step, seen⟩ := steps p (List.mem_finRange p)
    rw [points, staleSeenUpdate_get, pointed]
    exact ⟨congrArg (fun b => b || u.intoStale (pointQty p) || u.intoStale qSilica) seen, step.seen _⟩

end Sys2Proof.Proofs

/-! PROOFS. Updates of a well's station and of the exchanger's, and the baselines (R40 to R46). -/

namespace Sys2Proof.Proofs

open Sys2Proof.Machine

/-! ### A station's update passes the quantities of the others by -/

theorem wellQty_channel : ∀ (c : WellNo) (q : QtyNo), q ∈ stationQtys .well c → q.val / 6 = c.val := by decide

theorem exchangerQty_high : ∀ q : QtyNo, q ∈ stationQtys .exchanger 0 → 96 ≤ q.val := by decide

theorem pointQty_high : ∀ p : PointNo, 96 ≤ (pointQty p).val := by decide

theorem qSilica_high : 96 ≤ qSilica.val := by decide

theorem wellQty_low {c : WellNo} {q : QtyNo} (h : q ∈ stationQtys .well c) : q.val < 96 := by
  have := wellQty_channel c q h
  omega

/-- An update that lists nothing of a quantity. -/
def Skips (u : Update) (q : QtyNo) : Prop := u.newValue q = none ∧ u.change q = none

theorem Skips.facts {u : Update} {q : QtyNo} (h : Skips u q) :
    u.listsValue q = false ∧ u.intoStale q = false ∧ u.outOfValid q = false ∧ u.lists q = false := by
  obtain ⟨value, change⟩ := h
  simp [Update.listsValue, Update.intoStale, Update.outOfValid, Update.lists, value, change]

/-- A well of which an update lists nothing stands. -/
theorem wellUpdate_skips {u : Update} {c : WellNo} (h : ∀ q ∈ stationQtys .well c, Skips u q) (s : State) :
    wellUpdate u s c = s := by
  have skips : ∀ q ∈ stationQtys .well c, _ := fun q hq => (h q hq).facts
  obtain ⟨pressure, -, lostP, -⟩ := skips (qIntakeP c) (by simp [stationQtys])
  obtain ⟨temp, -, lostT, -⟩ := skips (qWhTemp c) (by simp [stationQtys])
  obtain ⟨flow, -⟩ := skips (qFlow c) (by simp [stationQtys])
  obtain ⟨dp, -⟩ := skips (qPumpDp c) (by simp [stationQtys])
  have lists : listsWell u c = false := List.any_eq_false.2 fun q hq => by simp [(skips q hq).2.2.2]
  have margin : marginUpdate u s c = s := by simp [marginUpdate, pressure, temp, lostP, lostT]
  have feed : feedUpdate u s c = s := by simp [feedUpdate, lists]
  have pump : pumpUpdate u s c = s := by
    simp [pumpUpdate, State.compareFouling, flow, dp, Bank.set_get_self]
  unfold wellUpdate
  rw [margin, feed, pump]
  exact ite_self _

theorem pointUpdate_skips {u : Update} {p : PointNo} (hp : Skips u (pointQty p)) (hs : Skips u qSilica) (s : State) :
    pointUpdate u s p = s := by
  simp [pointUpdate, hp.facts.1, hs.facts.1]

theorem staleSeenUpdate_skips {u : Update} (hp : ∀ p, Skips u (pointQty p)) (hs : Skips u qSilica) (s : State) :
    staleSeenUpdate u s = s := by
  have points : (staleSeenUpdate u s).scm.points = s.scm.points := by
    refine Bank.ext_get fun p => ?_
    rw [staleSeenUpdate_get]
    simp [(hp p).facts.2.1, hs.facts.2.1]
  have : staleSeenUpdate u s = { s with scm := { s.scm with points := (staleSeenUpdate u s).scm.points } } := rfl
  rw [this, points]

theorem floor_skips {u : Update} (hs : Skips u qSilica) (s : State) : holdUpdate u (floorUpdate u s) = s := by
  rw [floorUpdate_of_noValue hs.1, holdUpdate, hs.facts.2.1]
  rfl

/-- A fold of steps all of which, but at most one, change nothing. -/
theorem foldl_one {α β : Type} [DecidableEq β] {f : α → β → α} {c : β} (l : List β) (hl : l.Nodup)
    (h : ∀ x ∈ l, x ≠ c → ∀ a, f a x = a) : ∀ a, l.foldl f a = if c ∈ l then f a c else a := by
  induction l with
  | nil => exact fun _ => rfl
  | cons x l ih =>
    intro a
    obtain ⟨hx, hl⟩ := List.nodup_cons.1 hl
    rw [List.foldl_cons, ih hl fun y hy => h y (List.mem_cons_of_mem _ hy)]
    by_cases e : x = c
    · subst e
      simp [hx]
    · rw [h x List.mem_cons_self e]
      simp [Ne.symm e]

theorem foldl_none {α β : Type} {f : α → β → α} (l : List β) (h : ∀ x ∈ l, ∀ a, f a x = a) (a : α) :
    l.foldl f a = a := by
  induction l with
  | nil => rfl
  | cons x l ih =>
    rw [List.foldl_cons, h x List.mem_cons_self]
    exact ih fun y hy => h y (List.mem_cons_of_mem _ hy)

/-! ### A production well's update -/

/-- The margin with its hold and risk, then the feed, then the fouling. -/
theorem wellUpdate_steps {u : Update} {s : State} {c : WellNo} (production : s.role c = .production) :
    ∃ r r' margin hold move feed n,
      wellUpdate u s c = pumpUpdate u (calciteTo s c r' (margin ++ hold ++ move ++ feed) n) c
      ∧ MarginStep u s c (s.scm.calcite.get c) r margin hold move ∧ FeedStep u s c r r' feed := by
  obtain ⟨r, margin, hold, move, n, margined, step⟩ := marginUpdate_steps u s c
  obtain ⟨r', feed, fed, feeds⟩ := feedUpdate_steps u (calciteTo s c r (margin ++ hold ++ move) n) c
  rw [calciteTo_calciteTo] at fed
  rw [calciteTo_get] at feeds
  refine ⟨r, r', margin, hold, move, feed, n, ?_, step, feeds⟩
  rw [wellUpdate, if_pos production, margined, fed]
  rfl

/-- An update from the station of a well reaches that well alone. -/
theorem scmUpdate_well {u : Update} {c : WellNo} (hv : ∀ x ∈ u.values, x.1 ∈ stationQtys .well c)
    (hc : ∀ x ∈ u.changes, x.1 ∈ stationQtys .well c) (s : State) : s.scmUpdate u = wellUpdate u s c := by
  have skips {q : QtyNo} (h : q ∉ stationQtys .well c) : Skips u q := notListed_of hv hc h
  have high {q : QtyNo} (h : 96 ≤ q.val) : Skips u q := skips fun hq => absurd (wellQty_low hq) (Nat.not_lt.2 h)
  have silica := high qSilica_high
  have points := fun p => high (pointQty_high p)
  have others : wells.foldl (wellUpdate u) s = wellUpdate u s c := by
    refine (foldl_one (c := c) wells (List.nodup_finRange 16) (fun d _ hd => wellUpdate_skips fun q hq => skips fun h => ?_)
      s).trans (if_pos (List.mem_finRange c))
    exact hd (Fin.ext ((wellQty_channel d q hq).symm.trans (wellQty_channel c q h)))
  have exchanger (t : State) : hxFoulingUpdate u t = t := by
    simp [hxFoulingUpdate, State.compareFouling, (high (q := qHxBrineFlow) (by decide)).facts.1,
      (high (q := qHxDp) (by decide)).facts.1]
  dsimp only [State.scmUpdate]
  rw [floor_skips silica, foldl_none _ fun p _ => pointUpdate_skips (points p) silica, staleSeenUpdate_skips points silica,
    others, exchanger]

theorem lookup_isSome_of {α β : Type} [BEq α] [LawfulBEq α] {l : List (α × β)} {x : α × β} (h : x ∈ l) :
    (l.lookup x.1).isSome = true := by
  rw [Option.isSome_iff_ne_none]
  exact fun none => List.lookup_eq_none_iff.1 none x h |> fun e => by simp at e

/-- An update of a well's station evaluates the well's feed exactly when it lists anything. -/
theorem listsWell_iff {u : Update} {c : WellNo} (hv : ∀ x ∈ u.values, x.1 ∈ stationQtys .well c)
    (hc : ∀ x ∈ u.changes, x.1 ∈ stationQtys .well c) : listsWell u c = false ↔ listsNothing u := by
  unfold listsWell
  rw [List.any_eq_false]
  constructor
  · intro h
    refine ⟨List.eq_nil_iff_forall_not_mem.2 fun x hx => h x.1 (hv x hx) ?_,
      List.eq_nil_iff_forall_not_mem.2 fun x hx => h x.1 (hc x hx) ?_⟩
    · simp [Update.lists, Update.newValue, lookup_isSome_of hx]
    · simp [Update.lists, Update.change, lookup_isSome_of hx]
  · rintro ⟨values, changes⟩ q _
    simp [Update.lists, Update.newValue, Update.change, values, changes]

/-- Settles O24: the margin's step, the feed's and the fouling's, one behind the other. -/
theorem wellWatchTakesAnUpdate : Obligations.WellWatchTakesAnUpdate := by
  intro u s c production hv hc
  obtain ⟨r, r', margin, hold, move, feed, n, updated, step, feeds⟩ :=
    wellUpdate_steps (u := u) (s := s.took (.scmUpdate u)) (c := c) production
  have exec_eq : exec (.scmUpdate u) s
      = .next (pumpUpdate u (calciteTo (s.took (.scmUpdate u)) c r' (margin ++ hold ++ move ++ feed) n) c) := by
    rw [← updated, ← scmUpdate_well hv hc]
    rfl
  have got : (pumpUpdate u (calciteTo (s.took (.scmUpdate u)) c r' (margin ++ hold ++ move ++ feed) n) c).scm.calcite.get c
      = r' := Bank.get_set_self _ _ _
  obtain ⟨lost, stands, computed, ⟨cleared, same, risk⟩, running, feedRun⟩ := step
  obtain ⟨unfed, fed, running', held', margin', clamp'⟩ := feeds
  rw [running, listsWell_iff hv hc] at unfed
  rw [running] at fed
  have compared := compareFouling_steps (calciteTo (s.took (.scmUpdate u)) c r' (margin ++ hold ++ move ++ feed) n) u
    (qFlow c) (qPumpDp c) (s.wellSet c .ratedFlow) .pumpFouling (.well c) (s.scm.fouling.get c)
  refine ⟨_, margin, hold, move, feed, ((calciteTo (s.took (.scmUpdate u)) c r'
    (margin ++ hold ++ move ++ feed) n).compareFouling u (qFlow c) (qPumpDp c) (s.wellSet c .ratedFlow) .pumpFouling
    (.well c) (s.scm.fouling.get c)).2, r.hold, r.state, exec_eq, .of_exec exec_eq, ?_, fun d hd => ?_, rfl, ?_⟩
  · change s.handed.erase _ ++ (margin ++ hold ++ move ++ feed) ++ _ = _
    simp only [List.append_assoc]
    rfl
  · exact ⟨Bank.get_set_ne _ _ hd.symm, Bank.get_set_ne _ _ hd.symm⟩
  have feedRun : r.feedRun = (s.scm.calcite.get c).feedRun := feedRun
  rw [got, margin', clamp']
  refine ⟨running'.trans running, held', lost, stands, computed, cleared, same, fun none => ?_, fun some off on => ?_,
    fun some on off => ?_, fun idle => ?_, fun runs lists => ?_, ?_⟩
  · by_cases kept : r.hold = (s.scm.calcite.get c).hold
    · exact ⟨(same kept).2.1, (same kept).2.2.trans none⟩
    · exact (risk kept).1 none
  · exact (risk fun kept => absurd (kept.symm.trans on) (by simp [off])).2.1 some on
  · exact (risk fun kept => absurd (kept.symm.trans off) (by simp [on])).2.2 some off
  · rw [← feedRun]
    exact unfed idle
  · obtain ⟨good, short, silent⟩ := fed runs (Bool.not_eq_false _ ▸ mt (listsWell_iff hv hc).1 lists)
    rw [← feedRun]
    exact ⟨fun v hv hm => good v (feedGood_iff.2 ⟨hv, hm⟩), fun v hs => short v (feedShort_iff.2 hs),
      fun hv hs => silent (feedSilent_iff.2 ⟨hv, hs⟩)⟩
  · rw [show (pumpUpdate _ _ _).scm.fouling.get c = _ from Bank.get_set_self _ _ _]
    exact compared

/-! ### The exchanger's update (R44, R45) -/

/-- An update from the EXCHANGER station reaches the point at the outlet, and else the exchanger's fouling alone. -/
theorem scmUpdate_exchanger {u : Update} (hv : ∀ x ∈ u.values, x.1 ∈ stationQtys .exchanger 0)
    (hc : ∀ x ∈ u.changes, x.1 ∈ stationQtys .exchanger 0) (s : State) : ∃ (b : Bank Point 4) (early : List Instr),
    s.scmUpdate u
      = hxFoulingUpdate u { s with scm := { s.scm with points := b }, handed := s.handed ++ early }
    ∧ (u.listsValue qHxOutT = false → early = []) := by
  have skips {q : QtyNo} (h : q ∉ stationQtys .exchanger 0) : Skips u q := notListed_of hv hc h
  have silica : Skips u qSilica := skips (by decide)
  have passes (d : WellNo) (t : State) : wellUpdate u t d = t := wellUpdate_skips (fun q hq => skips fun h =>
    Nat.not_lt.2 (exchangerQty_high q h) (wellQty_low hq)) t
  obtain ⟨b, parts, pointed, steps, -⟩ := pointUpdates_step u pointNos (List.nodup_finRange 4) s
  refine ⟨(staleSeenUpdate u (pointNos.foldl (pointUpdate u) s)).scm.points, pointNos.flatMap parts, ?_, fun quiet => ?_⟩
  · dsimp only [State.scmUpdate]
    rw [floor_skips silica, foldl_none _ fun d _ => passes d, pointed]
    rfl
  · refine List.flatMap_eq_nil_iff.2 fun p hp => ((steps p hp).1.1 (.inl fun listed => ?_)).1
    have point : u.listsValue (pointQty p) = true := listed.resolve_right (by simp [silica.facts.1])
    by_cases first : p = 0
    · subst first
      exact absurd (quiet.symm.trans point) nofun
    · have other : ∀ p : PointNo, p ≠ 0 → pointQty p ∉ stationQtys .exchanger 0 := by decide
      exact absurd ((skips (other p first)).facts.1.symm.trans point) nofun

theorem exchangerUpdate_steps (u : Update) (s : State) (hv : ∀ x ∈ u.values, x.1 ∈ stationQtys .exchanger 0)
    (hc : ∀ x ∈ u.changes, x.1 ∈ stationQtys .exchanger 0) :
    ∃ t early foul, exec (.scmUpdate u) s = .next t
      ∧ t.handed = s.handed.erase (.scmUpdate u) ++ early ++ foul
      ∧ (u.listsValue qHxOutT = false → early = [])
      ∧ t.scm.calcite = s.scm.calcite ∧ t.scm.fouling = s.scm.fouling
      ∧ FoulingStep s u qHxBrineFlow qHxDp (s.hxSet .ratedBrineFlow) .hxFouling .exchanger s.scm.hxFouling
        t.scm.hxFouling foul := by
  obtain ⟨b, early, updated, quiet⟩ := scmUpdate_exchanger hv hc (s.took (.scmUpdate u))
  have exec_eq : exec (.scmUpdate u) s = .next ((s.took (.scmUpdate u)).scmUpdate u) := rfl
  rw [updated] at exec_eq
  exact ⟨_, early, _, exec_eq, rfl, quiet, rfl, rfl, compareFouling_steps { s with
    scm := { s.scm with points := b }, handed := s.handed.erase (.scmUpdate u) ++ early } ..⟩

/-! ### Baselines (R46) -/

/-- CAPTURE_BASELINE of a target that has fouling, from the checks of STORE and lock on. -/
def captureAs (s : State) (g : Group) (flowQ dpQ : QtyNo) (rated : Int) (ok : Int → Answer) : Answer :=
  if s.storeBusy then s.says .busy
  else if s.groupLocked g then s.says .refusedLocked
  else match s.baselineNow flowQ dpQ rated with
    | none => s.says .refusedState
    | some dp => ok dp

/-- The exchanger's answer when its baseline is taken. -/
def hxBaseline (s : State) (dp : Int) : Answer :=
  ({ s with scm := { s.scm with hxFouling := ⟨some dp, some 1000, .none⟩ } }.hand
    (if s.scm.hxFouling.state = WatchState.none then [] else [Instr.alarmClear .hxFouling .exchanger]), .ok, .none)

/-- A well's answer when its baseline is taken. -/
def wellBaseline (s : State) (c : WellNo) (dp : Int) : Answer :=
  ({ s with scm := { s.scm with fouling := s.scm.fouling.set c ⟨some dp, some 1000, .none⟩ } }.hand
    (if (s.scm.fouling.get c).state = WatchState.none then [] else [Instr.alarmClear .pumpFouling (.well c)]),
    .ok, .none)

theorem capture_exchanger (s : State) : State.capture .exchanger s
    = captureAs s .exchanger qHxBrineFlow qHxDp (s.hxSet .ratedBrineFlow) (hxBaseline s) := rfl

theorem capture_well {s : State} {c : WellNo} (h : s.role c = .production) : State.capture (.well c) s
    = captureAs s (.well c) (qFlow c) (qPumpDp c) (s.wellSet c .ratedFlow) (wellBaseline s c) := by
  simp only [State.capture, Laws.indexArg_fin]
  exact if_neg (not_not.2 h)

theorem capture_unused {s : State} {c : WellNo} (h : s.role c ≠ .production) :
    State.capture (.well c) s = s.says .badValue := by
  simp only [State.capture, Laws.indexArg_fin]
  exact if_pos h

theorem capture_ge {s : State} {k : Nat} (h : 16 ≤ k) : State.capture (.well k) s = s.says .badValue := by
  simp only [State.capture, Laws.indexArg_ge h]

section Capture

variable {s : State} {flowQ dpQ : QtyNo} {rated : Int}

theorem baselineNow_of (hf : (s.qtb.get flowQ).state = .valid) (hd : (s.qtb.get dpQ).state = .valid)
    (band : |s.reported flowQ - rated| * 1000 ≤ s.scaleSet .foulBand * rated) (dp : s.reported dpQ ≠ 0) :
    s.baselineNow flowQ dpQ rated = some (s.reported dpQ) := by
  simp [State.baselineNow, State.validNow, hf, hd, dp, inBand_iff.2 band]

theorem baselineNow_none (h : (s.qtb.get flowQ).state ≠ .valid ∨ (s.qtb.get dpQ).state ≠ .valid
    ∨ s.scaleSet .foulBand * rated < |s.reported flowQ - rated| * 1000 ∨ s.reported dpQ = 0) :
    s.baselineNow flowQ dpQ rated = none := by
  by_cases hf : (s.qtb.get flowQ).state = .valid
  · by_cases hd : (s.qtb.get dpQ).state = .valid
    · have out : ¬(inBand (s.scaleSet .foulBand) rated (s.reported flowQ) = true ∧ s.reported dpQ ≠ 0) := by
        rw [inBand_iff]
        rintro ⟨band, dp⟩
        rcases h with h | h | h | h
        · exact h hf
        · exact h hd
        · exact absurd h (Int.not_lt.2 band)
        · exact dp h
      simp [State.baselineNow, State.validNow, hf, hd, out]
    · simp [State.baselineNow, State.validNow, hf, hd]
  · simp [State.baselineNow, State.validNow, hf]

variable {g : Group} {ok : Int → Answer}

theorem captureAs_busy (h : s.ssl.storing.isSome = true) : captureAs s g flowQ dpQ rated ok = s.says .busy :=
  if_pos h

theorem captureAs_locked (h : s.ssl.storing = none) (locked : s.groupLocked g = true) :
    captureAs s g flowQ dpQ rated ok = s.says .refusedLocked := by
  simp [captureAs, State.storeBusy, h, locked]

theorem captureAs_refused (h : s.ssl.storing = none) (unlocked : s.groupLocked g = false)
    (hb : s.baselineNow flowQ dpQ rated = none) : captureAs s g flowQ dpQ rated ok = s.says .refusedState := by
  simp [captureAs, State.storeBusy, h, unlocked, hb]

theorem captureAs_taken (h : s.ssl.storing = none) (unlocked : s.groupLocked g = false) {dp : Int}
    (hb : s.baselineNow flowQ dpQ rated = some dp) : captureAs s g flowQ dpQ rated ok = ok dp := by
  simp [captureAs, State.storeBusy, h, unlocked, hb]

end Capture

/-- Settles O25: the exchanger's update by the points and the comparison; each check of CAPTURE_BASELINE in turn. -/
theorem exchangerFoulingAndBaselines : Obligations.ExchangerFoulingAndBaselines := by
  refine ⟨exchangerUpdate_steps, fun s idle => ⟨onlyAnswers_of_serve idle rfl rfl,
    fun k hk => onlyAnswers_of_serve idle rfl (capture_ge hk),
    fun c hc => onlyAnswers_of_serve idle rfl (capture_unused hc), fun tgt g flowQ dpQ rated target => ?_⟩⟩
  obtain ⟨ok, captured, exchanger, well⟩ : ∃ ok,
      State.capture tgt s.deselect = captureAs s.deselect g flowQ dpQ rated ok
      ∧ (tgt = .exchanger → ok = hxBaseline s.deselect) ∧ ∀ c : WellNo, tgt = .well c → ok = wellBaseline s.deselect c := by
    rcases target with ⟨rfl, rfl, rfl, rfl, rfl⟩ | ⟨c, hc, rfl, rfl, rfl, rfl, rfl⟩
    · exact ⟨_, capture_exchanger _, fun _ => rfl, nofun⟩
    · refine ⟨_, capture_well hc, nofun, fun d hd => ?_⟩
      obtain rfl : c = d := Fin.ext (FoulTarget.well.inj hd)
      rfl
  refine ⟨fun busy => onlyAnswers_of_serve idle rfl (captured.trans (captureAs_busy busy)),
    fun free locked => onlyAnswers_of_serve idle rfl (captured.trans (captureAs_locked free locked)),
    fun free unlocked => ⟨fun off => onlyAnswers_of_serve idle rfl (captured.trans
      (captureAs_refused (s := s.deselect) free unlocked (baselineNow_none (s := s.deselect) off))), fun hf hd band dp => ⟨fun ht => ?_, fun c ht => ?_⟩⟩⟩
  · exact exec_of_serve idle rfl (captured.trans ((captureAs_taken (s := s.deselect) free
      unlocked (baselineNow_of (s := s.deselect) hf hd band dp)).trans (congrFun (exchanger ht) _)))
  · exact exec_of_serve idle rfl (captured.trans ((captureAs_taken (s := s.deselect) free
      unlocked (baselineNow_of (s := s.deselect) hf hd band dp)).trans (congrFun (well c ht) _)))

end Sys2Proof.Proofs

/-! PROOFS. The trend log, and the stale clock with what else acts by the second or at once (chapters 3 and 4). -/

namespace Sys2Proof.Proofs

open Sys2Proof.Machine

/-! ### The records an interval's expiry appends (R47, R48) -/

/-- The record of a point that was computed in the interval. -/
def trendRecord (m : Scm) (n : U32) (p : PointNo) : Trend :=
  let r := m.points.get p
  { seq := n, interval := m.interval, point := p, state := r.state
    staleSeen := r.figures.staleSeen, min := r.figures.min, max := r.figures.max
    mean := meanOf r.figures, count := r.figures.count, floorInUse := m.floor.inUse }

/-- The records of the points of a list that were computed, numbered on from `n`. -/
def numbered (record : U32 → PointNo → Trend) (n : U32) : List PointNo → List Trend
  | [] => []
  | p :: l => record n p :: numbered record (n + 1) l

theorem numbered_points {record : U32 → PointNo → Trend} (hp : ∀ n p, (record n p).point = p) (l : List PointNo) :
    ∀ n, (numbered record n l).map Trend.point = l := by
  induction l with
  | nil => exact fun _ => rfl
  | cons p l ih => exact fun n => congrArg₂ List.cons (hp n p) (ih _)

theorem numbered_length (record : U32 → PointNo → Trend) (l : List PointNo) :
    ∀ n, (numbered record n l).length = l.length := by
  induction l with
  | nil => exact fun _ => rfl
  | cons p l ih => exact fun n => congrArg (· + 1) (ih _)

theorem numbered_get {record : U32 → PointNo → Trend} (l : List PointNo) : ∀ (n : U32) (j : Nat) (x : Trend),
    (numbered record n l)[j]? = some x → ∃ p, x = record (n + BitVec.ofNat 32 j) p := by
  induction l with
  | nil => exact fun _ _ _ h => by simp [numbered] at h
  | cons p l ih =>
    intro n j x h
    cases j with
    | zero =>
      obtain rfl : record n p = x := by simpa [numbered] using h
      exact ⟨p, by simp⟩
    | succ j =>
      obtain ⟨q, rfl⟩ := ih (n + 1) j x (by simpa [numbered] using h)
      exact ⟨q, by congr 1; rw [BitVec.ofNat_add]; ac_rfl⟩

/-- The last `k` of a list. -/
def newest {α : Type} (k : Nat) (l : List α) : List α := l.drop (l.length - k)

theorem newest_of_le {α : Type} {k : Nat} {l : List α} (h : l.length ≤ k) : newest k l = l := by
  simp [newest, Nat.sub_eq_zero_of_le h]

/-- What was dropped before is dropped all the same. -/
theorem newest_append {α : Type} (k : Nat) (l m : List α) : newest k (newest k l ++ m) = newest k (l ++ m) := by
  have moved : newest k l ++ m = (l ++ m).drop (l.length - k) := by
    rw [newest, List.drop_append_of_le_length (Nat.sub_le _ _)]
  rw [moved, newest, newest, List.drop_drop, List.length_drop, List.length_append]
  congr 1
  omega

/-- The points appended one after another. -/
theorem append_trendRecords (l : List PointNo) : ∀ m : Scm, ∃ tr,
    l.foldl Scm.append m = { m with
      trend := tr
      nextSeq := m.nextSeq + .ofNat 32 (l.filter fun p => decide ((m.points.get p).figures.count ≠ 0)).length }
    ∧ (m.trend.length ≤ 256 → tr = newest 256 (m.trend ++ numbered (trendRecord m) m.nextSeq
      (l.filter fun p => decide ((m.points.get p).figures.count ≠ 0)))) := by
  induction l with
  | nil =>
    refine fun m => ⟨m.trend, by simp, fun h => ?_⟩
    simpa [numbered] using (newest_of_le h).symm
  | cons p l ih =>
    intro m
    by_cases none : (m.points.get p).figures.count = 0
    · have skipped : m.append p = m := if_pos none
      simpa [skipped, none] using ih m
    · have appended : m.append p = { m with
          trend := newest 256 (m.trend ++ [trendRecord m m.nextSeq p]), nextSeq := m.nextSeq + 1 } := if_neg none
      have record : trendRecord (m.append p) = trendRecord m := by
        funext n q
        simp only [trendRecord, appended]
      obtain ⟨tr, he, log⟩ := ih (m.append p)
      rw [record] at log
      rw [appended] at he log
      have counted : (p :: l).filter (fun p => decide ((m.points.get p).figures.count ≠ 0))
          = p :: l.filter fun p => decide ((m.points.get p).figures.count ≠ 0) :=
        List.filter_cons_of_pos (decide_eq_true none)
      refine ⟨tr, ?_, fun h => ?_⟩
      · rw [List.foldl_cons, appended, he, counted]
        simp [BitVec.ofNat_add]
        ac_rfl
      · rw [log (by simp [newest]; omega), newest_append, counted, numbered, List.append_assoc]
        rfl

/-! ### The log read (R49) -/

theorem trendFrom_eq {l : List Trend} {start : Nat} (h : start < l.length) (n : Nat) :
    trendFrom l start n = (l.rotate start).take n := by
  dsimp only [trendFrom, List.rotateLeft]
  split
  next one =>
    obtain rfl : start = 0 := by omega
    rw [List.rotate_zero]
  next => rw [List.rotate_eq_drop_append_take_mod]

theorem trendFrom_length {l : List Trend} {start : Nat} (h : start < l.length) (n : Nat) :
    (trendFrom l start n).length = min n l.length := by
  rw [trendFrom_eq h, List.length_take, List.length_rotate]

theorem trendFrom_get {l : List Trend} {start n j : Nat} (h : start < l.length)
    (hj : j < (trendFrom l start n).length) : (trendFrom l start n)[j]? = l[(start + j) % l.length]? := by
  rw [trendFrom_length h] at hj
  rw [trendFrom_eq h, List.getElem?_take, if_pos (by omega), List.getElem?_rotate (by omega), Nat.add_comm]

section Read

variable {s : State} {first : U32} {count : Nat}

theorem readTrend_empty (h : 1 ≤ count) (h' : count ≤ 8) (none : s.scm.trend = []) :
    s.readTrend first count = (s.useFree, .ok, .trend (Config.emptyTrendNewest s.free) 0 false []) := by
  have : ¬(count = 0 ∨ 8 < count) := by omega
  simp [State.readTrend, this, none]

theorem readTrend_read (h : 1 ≤ count) (h' : count ≤ 8) (some : s.scm.trend ≠ []) : ∃ start old,
    s.readTrend first count = s.says .ok (.trend (s.scm.nextSeq - 1) s.scm.trend.length old
      (trendFrom s.scm.trend start count))
    ∧ start < s.scm.trend.length
    ∧ ((s.scm.nextSeq - 1 - first).toNat < s.scm.trend.length → old = false
      ∧ start = s.scm.trend.length - 1 - (s.scm.nextSeq - 1 - first).toNat)
    ∧ (s.scm.trend.length ≤ (s.scm.nextSeq - 1 - first).toNat → old = true ∧ start = 0) := by
  have inRange : ¬(count = 0 ∨ 8 < count) := by omega
  have pos : 0 < s.scm.trend.length := List.length_pos_iff.2 some
  have nonempty : ¬ s.scm.trend.length = 0 := by omega
  by_cases kept : (s.scm.nextSeq - 1 - first).toNat < s.scm.trend.length
  · refine ⟨s.scm.trend.length - 1 - (s.scm.nextSeq - 1 - first).toNat, false, ?_, by omega, fun _ => ⟨rfl, rfl⟩,
      fun gone => absurd kept (Nat.not_lt.2 gone)⟩
    exact (if_neg inRange).trans ((if_neg nonempty).trans (if_pos kept))
  · refine ⟨0, true, ?_, pos, fun h => absurd h kept, fun _ => ⟨rfl, rfl⟩⟩
    exact (if_neg inRange).trans ((if_neg nonempty).trans (if_neg kept))

end Read

/-- Settles O27: the records appended point by point, and the reading of the log as a rotation of it. -/
theorem trendLogKeepsAndGives : Obligations.TrendLogKeepsAndGives := by
  refine ⟨fun s => ?_, fun s first count idle => ⟨fun h => ?_, fun h h' none => ?_, fun h h' some => ?_⟩⟩
  · obtain ⟨tr, appended, log⟩ := append_trendRecords pointNos s.scm
    have exec_eq : exec .trendIntervalExpiry s
        = .next ({ s with scm := pointNos.foldl Scm.append s.scm } : State).nextInterval := rfl
    rw [appended] at exec_eq
    refine ⟨_, numbered (trendRecord s.scm) s.scm.nextSeq
      (pointNos.filter fun p => decide ((s.scm.points.get p).figures.count ≠ 0)), exec_eq, .of_exec exec_eq,
      numbered_points (fun _ _ => rfl) _ _, fun j x hx => ?_, log, ?_, rfl, rfl, fun p => Bank.get_mapIdx .., rfl, rfl,
      rfl, rfl⟩
    · obtain ⟨p, rfl⟩ := numbered_get _ _ _ _ hx
      exact ⟨_, rfl, rfl, rfl, rfl, rfl, rfl, rfl, rfl, rfl, rfl⟩
    · rw [numbered_length]
      rfl
  · exact onlyAnswers_of_serve idle rfl (if_pos h)
  · exact ⟨_, exec_of_serve idle rfl (readTrend_empty h h' none)⟩
  · obtain ⟨start, old, answered, hs, inLog, out⟩ := readTrend_read (s := s.deselect) (first := first) h h' some
    exact ⟨start, old, _, onlyAnswers_of_serve idle rfl answered, trendFrom_length hs _, fun j hj => trendFrom_get hs hj,
      inLog, out⟩

/-! ### The stale clock (R38, R39) -/

/-- The clock at `n` with SILICA_STALE raised, the alarm of the state `t`, and the event to HXC. -/
def staleRaised (s t : State) (n : Nat) : State :=
  { t with
    scm := { s.scm with floor := { s.scm.floor with clock := some n, silicaStale := true } }
    handed := t.handed ++ [.alarmChange .silicaStale .floor (.raise .alarm ((n / 60 : Nat) : Int)),
      .hxcSilicaStale true] }

section Clock

variable {s : State} {n : Nat}

theorem setClock_same (h : s.scm.floor.clock = some n) : s.setClock n = s := by
  unfold State.setClock
  rw [← h]

theorem testStale_idle (h : s.scm.floor.clock = none) : s.testStale = s := by
  rw [State.testStale, h]

theorem testStale_standing (h : s.scm.floor.silicaStale = true) : s.testStale = s := by
  unfold State.testStale
  rw [h]
  split <;> rfl

/-- The clock short of L6 minutes raises nothing. -/
theorem setClock_early (h : (n : Int) < s.limit 6 * 60) : (s.setClock n).testStale = s.setClock n := by
  refine if_neg fun due => ?_
  have due : (s.limit 6 * 60).toNat ≤ n := of_decide_eq_true (Bool.and_eq_true_iff.1 due).2
  omega

/-- The clock at L6 minutes raises SILICA_STALE. -/
theorem setClock_due (h : s.limit 6 * 60 ≤ (n : Int)) (quiet : s.scm.floor.silicaStale = false) :
    (s.setClock n).testStale = staleRaised s s n := by
  have reached : (s.setClock n).staleLimit ≤ n := by
    change (s.limit 6 * 60).toNat ≤ n
    omega
  exact if_pos (Bool.and_eq_true_iff.2 ⟨by rw [show (s.setClock n).scm.floor.silicaStale = false from quiet]; rfl,
    decide_eq_true reached⟩)

theorem exec_clockSecond (h : s.scm.floor.clock = some n) (hn : n < 4294967295) :
    exec .staleClockSecond s = .next (s.setClock (n + 1)).testStale := by
  have : min (n + 1) 4294967295 = n + 1 := by omega
  change execStaleClockSecond s = _
  rw [execStaleClockSecond, h]
  simp only [this]

theorem exec_clockExpiry (h : s.scm.floor.clock = some n) (quiet : s.scm.floor.silicaStale = false) :
    exec .staleClockExpiry s = .next (s.setClock (max n s.staleLimit)).testStale := by
  change execStaleClockExpiry s = _
  rw [execStaleClockExpiry, h]
  simp only [quiet, Bool.false_eq_true, ↓reduceIte]

theorem exec_l6 (old : Int) : exec (.settingChangeTaken (.limit 6) old) s
    = .next (s.took (.settingChangeTaken (.limit 6) old)).testStale := rfl

end Clock

/-- A clock that does not run, one at which SILICA_STALE stands, and one that raises it (R38). -/
theorem staleClock_acts (s : State) (n : Nat) (old : Int) :
    (s.scm.floor.clock = none → exec .staleClockSecond s = .next s ∧ exec .staleClockExpiry s = .next s
      ∧ exec (.settingChangeTaken (.limit 6) old) s = .next (s.took (.settingChangeTaken (.limit 6) old)))
    ∧ (s.scm.floor.silicaStale = true → s.scm.floor.clock = some n → n < 4294967295 →
      exec .staleClockSecond s = .next (s.setClock (n + 1))
      ∧ exec .staleClockExpiry s = .next s
      ∧ exec (.settingChangeTaken (.limit 6) old) s = .next (s.took (.settingChangeTaken (.limit 6) old)))
    ∧ (s.scm.floor.clock = some 4294967295 → s.scm.floor.silicaStale = true → exec .staleClockSecond s = .next s) := by
  refine ⟨fun none => ⟨?_, ?_, ?_⟩, fun stands runs hn => ⟨?_, ?_, ?_⟩, fun last stands => ?_⟩
  · change execStaleClockSecond s = _
    rw [execStaleClockSecond, none]
  · change execStaleClockExpiry s = _
    rw [execStaleClockExpiry, none]
  · exact congrArg _ (testStale_idle (s := s.took _) none)
  · rw [exec_clockSecond runs hn, testStale_standing (s := s.setClock (n + 1)) stands]
  · change execStaleClockExpiry s = _
    rw [execStaleClockExpiry, runs]
    simp only [stands, ↓reduceIte]
  · exact congrArg _ (testStale_standing (s := s.took _) stands)
  · change execStaleClockSecond s = _
    rw [execStaleClockSecond, last]
    simp only [Nat.reduceAdd, Nat.reduceLeDiff, inf_of_le_right, setClock_same last, testStale_standing stands]

/-- A running clock without SILICA_STALE: the second, the expiry and a change of L6, before and at L6 minutes. -/
theorem staleClock_raises (s : State) (n : Nat) (old : Int) (quiet : s.scm.floor.silicaStale = false)
    (runs : s.scm.floor.clock = some n) (hn : n < 4294967295) :
    ((n : Int) + 1 < s.limit 6 * 60 → exec .staleClockSecond s = .next (s.setClock (n + 1)))
    ∧ (s.limit 6 * 60 ≤ (n : Int) + 1 → exec .staleClockSecond s = .next (staleRaised s s (n + 1)))
    ∧ (s.limit 6 * 60 ≤ (n : Int) → exec .staleClockExpiry s = .next (staleRaised s s n)
      ∧ exec (.settingChangeTaken (.limit 6) old) s
        = .next (staleRaised s (s.took (.settingChangeTaken (.limit 6) old)) n))
    ∧ ((n : Int) < s.limit 6 * 60 →
      exec .staleClockExpiry s = .next (staleRaised s s (s.limit 6 * 60).toNat)
      ∧ exec (.settingChangeTaken (.limit 6) old) s = .next (s.took (.settingChangeTaken (.limit 6) old))) := by
  have limit : s.staleLimit = (s.limit 6 * 60).toNat := rfl
  have same := setClock_same (s := s.took (.settingChangeTaken (.limit 6) old)) runs
  refine ⟨fun h => ?_, fun h => ?_, fun h => ⟨?_, ?_⟩, fun h => ⟨?_, ?_⟩⟩
  · rw [exec_clockSecond runs hn, setClock_early h]
  · rw [exec_clockSecond runs hn, setClock_due h quiet]
  · rw [exec_clockExpiry runs quiet, limit, max_eq_left (by omega), setClock_due h quiet]
  · rw [exec_l6, ← same, setClock_due (s := s.took _) h quiet, same]
    rfl
  · rw [exec_clockExpiry runs quiet, limit, max_eq_right (by omega), setClock_due (by omega) quiet]
  · rw [exec_l6, ← same, setClock_early (s := s.took _) h]

/-- L5 is the floor in use in NONE alone (R39). -/
theorem l5_acts (s : State) (old : Int) :
    (s.scm.floor.state = .none → exec (.settingChangeTaken (.limit 5) old) s
      = .next { s.took (.settingChangeTaken (.limit 5) old) with
        scm := { s.scm with floor := { s.scm.floor with inUse := s.limit 5 } } })
    ∧ (s.scm.floor.state ≠ .none → exec (.settingChangeTaken (.limit 5) old) s
      = .next (s.took (.settingChangeTaken (.limit 5) old))) := by
  have taken : exec (.settingChangeTaken (.limit 5) old) s
      = .next (s.took (.settingChangeTaken (.limit 5) old)).l5Taken := rfl
  exact ⟨fun h => taken.trans (congrArg _ (if_pos h)), fun h => taken.trans (congrArg _ (if_neg h))⟩

/-! ### The supply target at its settings (R55), and the minutes in HEAT_LIMITED (R70) -/

theorem targetBase_iff (s : State) : (s.hxc.source = .fallback → s.targetBase = s.hxSet .fallbackSupply)
    ∧ (s.hxc.source ≠ .fallback → s.targetBase = s.hxc.curveBase.getD 0) := by
  unfold State.targetBase
  cases s.hxc.source <;> simp

theorem hxSetting_taken (s : State) (old : Int) (i : HxItem) :
    (i = .supplyMin ∨ i = .supplyMax ∨ i = .fallbackSupply →
      exec (.settingChangeTaken (.item (.exchanger i)) old) s
        = .next (s.took (.settingChangeTaken (.item (.exchanger i)) old)).retarget)
    ∧ (i ≠ .supplyMin → i ≠ .supplyMax → i ≠ .fallbackSupply →
      exec (.settingChangeTaken (.item (.exchanger i)) old) s
        = .next (s.took (.settingChangeTaken (.item (.exchanger i)) old))) := by
  refine ⟨?_, fun h h' h'' => ?_⟩
  · rintro (rfl | rfl | rfl) <;> rfl
  · cases i with
    | supplyMin => exact absurd rfl h
    | supplyMax => exact absurd rfl h'
    | fallbackSupply => exact absurd rfl h''
    | _ => rfl

theorem limitedMinutes (s : State) :
    (s.hxc.mode ≠ .heatLimited → exec .hxcSecondTimer s = .next s ∧ exec .heatLimitedMin s = .next s)
    ∧ (s.hxc.mode = .heatLimited → s.hxc.limitedSeconds < 59 → exec .hxcSecondTimer s
        = .next { s with hxc := { s.hxc with limitedSeconds := s.hxc.limitedSeconds + 1 } }
      ∧ exec .heatLimitedMin s = .next s)
    ∧ (s.hxc.mode = .heatLimited → s.hxc.limitedSeconds = 59 →
      exec .hxcSecondTimer s = .next s.limitedMinute ∧ exec .heatLimitedMin s = exec .hxcSecondTimer s) := by
  refine ⟨fun h => ⟨congrArg _ (if_neg h), congrArg _ (if_neg fun e => h e.1)⟩, fun h few =>
    ⟨congrArg Host.Outcome.next ?_, congrArg _ (if_neg fun e => by omega)⟩, fun h last => ?_⟩
  · exact (if_pos h).trans (if_neg (by omega))
  · have second : exec .hxcSecondTimer s = .next s.limitedMinute :=
      congrArg _ ((if_pos h).trans (if_pos (by omega)))
    exact ⟨second, (congrArg _ (if_pos ⟨h, last⟩)).trans second.symm⟩

/-- Settles O23: each row by where its clock stands. -/
theorem staleClockTargetAndMinutes : Obligations.StaleClockTargetAndMinutes := by
  refine ⟨fun s n old f hf => ?_, fun s old => ⟨fun i => ⟨s.targetBase, (targetBase_iff s).1, (targetBase_iff s).2,
    (hxSetting_taken s old i).1, (hxSetting_taken s old i).2⟩, limitedMinutes s⟩⟩
  subst hf
  obtain ⟨idle, standing, last⟩ := staleClock_acts s n old
  exact ⟨idle, standing, last, staleClock_raises s n old, l5_acts s old⟩

end Sys2Proof.Proofs

/-! PROOFS. The exchanger's updates, its isolation and its commands (chapter 4). -/

namespace Sys2Proof.Proofs

open Sys2Proof.Machine

/-! ### Claims -/

theorem unclaimed_of_none {s : State} {t : Target} (h : s.claimant t = none) (caller : Caller)
    (owner : State → Answer) : s.unclaimed caller t owner = owner s := by
  simp [State.unclaimed, State.claimedAgainst, h]

theorem unclaimed_of_some {s : State} {t : Target} (h : (s.claimant t).isSome = true) (owner : State → Answer) :
    s.unclaimed .host t owner = s.says .refusedClaimed := by
  obtain ⟨k, hk⟩ := Option.isSome_iff_exists.1 h
  simp [State.unclaimed, State.claimedAgainst, hk]

/-! ### Notices change the port's record alone -/

theorem notify_eq (s : State) (l : List Notice) : s.notify l = { s with svp := (s.notify l).svp } := rfl

/-- The port's record after the notice of a change of a target's state, if it changes. -/
def noticedSvp (p : Svp) (t : Target) (old new : TargetState) (k : Option Nat) : Svp :=
  if old = new then p else p.queue (.state t old new k)

theorem noticed_svp (s : State) (t : Target) (old new : TargetState) (k : Option Nat) :
    (s.noticed t old new k).svp = noticedSvp s.svp t old new k := by
  unfold State.noticed noticedSvp
  split <;> rfl

theorem noticed_eq (s : State) (t : Target) (old new : TargetState) (k : Option Nat) :
    s.noticed t old new k = { s with svp := noticedSvp s.svp t old new k } := by
  unfold State.noticed noticedSvp
  split <;> rfl

/-! ### The target at an update (R55, R56) -/

/-- The target's record at an update: base, flag, source and target. -/
def TargetStep (u : Update) (s : State) (base : Option Int) (flag : ClampFlag) (src : TargetSource) (target : Int) : Prop :=
  (∀ v, u.newValue qOutdoorT = some v → ∃ f, forward .curve (s.tbl .curve) v = f
    ∧ base = some f.1 ∧ flag = f.2 ∧ src = .curve
    ∧ target = max (s.hxSet .supplyMin) (min (s.hxSet .supplyMax) (f.1 + s.hxc.offset)))
  ∧ (u.newValue qOutdoorT = none → base = s.hxc.curveBase ∧ flag = s.hxc.curveFlag ∧ target = s.hxc.target
    ∧ src = (if u.outOfValid qOutdoorT = true ∧ s.hxc.source = .curve then .held else s.hxc.source))

theorem targetUpdate_steps (u : Update) (s : State) : ∃ base flag src target, targetUpdate u s
    = { s with hxc := { s.hxc with curveBase := base, curveFlag := flag, source := src, target := target } }
    ∧ TargetStep u s base flag src target := by
  cases h : u.newValue qOutdoorT with
  | some v =>
    refine ⟨some (forward .curve (s.tbl .curve) v).1, _, .curve, _, by rw [targetUpdate, h]; rfl, fun w hw => ?_, ?_⟩
    · obtain rfl : v = w := Option.some.inj (h.symm.trans hw)
      exact ⟨_, rfl, rfl, rfl, rfl, rfl⟩
    · rw [h]
      nofun
  | none =>
    refine ⟨s.hxc.curveBase, s.hxc.curveFlag, _, s.hxc.target, ?_, by rw [h]; nofun, fun _ => ⟨rfl, rfl, rfl, rfl⟩⟩
    rw [targetUpdate, h]
    dsimp only
    split <;> rfl

/-! ### The control step (R58 to R61) -/

/-- The control step at an update: the mode, the bypass, the port record and the events after it. -/
def ControlStep (u : Update) (s : State) (mode : HxMode) (bypass : Int) (svp : Svp) (step : List Instr) : Prop :=
  (u.newValue qNetSupplyT = none ∨ s.hxc.mode = .off ∨ s.hxc.mode = .isolated →
    mode = s.hxc.mode ∧ bypass = s.hxc.bypass ∧ step = [] ∧ svp = s.svp)
  ∧ ∀ v, u.newValue qNetSupplyT = some v → s.hxc.mode = .heating ∨ s.hxc.mode = .heatLimited →
    ∃ asked used : Int,
      asked = max (-(s.hxSet .maxStep))
        (min (s.hxSet .maxStep) (-(((s.hxc.target - v) * s.hxSet .kp).tdiv 100)))
      ∧ (u.valid s qHxOutT = none → used = max asked 0 ∧ mode = s.hxc.mode)
      ∧ (∀ x level, u.valid s qHxOutT = some x → level = s.scm.floor.inUse + s.hxSet .deadband →
        (x < level → used = max asked (s.hxSet .floorStep) ∧ mode = .heatLimited)
        ∧ (level ≤ x → x < level + s.hxSet .hyst → s.hxc.mode = .heatLimited →
          used = max asked 0 ∧ mode = .heatLimited)
        ∧ (level ≤ x → level + s.hxSet .hyst ≤ x ∨ s.hxc.mode = .heating → used = asked ∧ mode = .heating))
      ∧ bypass = max (s.hxSet .bypassMin) (min 1000 (s.hxc.bypass + used))
      ∧ step = (if bypass ≠ s.hxc.bypass ∧ (s.entryOfKind .exchanger).isSome then
          [.setPlaced (.exchanger bypass)] else [])
        ++ changed .exchanger (.exchanger s.hxc.mode) (.exchanger mode)
      ∧ svp = noticedSvp s.svp .exchanger (.exchanger s.hxc.mode) (.exchanger mode) none

/-- A control step whole: the order of the bypass, then the change of mode with its notice and event. -/
theorem controlStep_eq {s : State} (v : Int) (outlet : Option Int) {mode : HxMode} {bypass : Int}
    (hm : (s.floorCheck outlet (s.delta v)).1 = mode) (hb : s.stepped (s.floorCheck outlet (s.delta v)).2 = bypass)
    (on : mode ≠ .isolated) : s.controlStep v outlet = { s with
      hxc := { s.hxc with mode := mode, bypass := bypass }
      svp := noticedSvp s.svp .exchanger (.exchanger s.hxc.mode) (.exchanger mode) none
      handed := s.handed ++ ((if bypass ≠ s.hxc.bypass ∧ (s.entryOfKind .exchanger).isSome then
          [.setPlaced (.exchanger bypass)] else [])
        ++ changed .exchanger (.exchanger s.hxc.mode) (.exchanger mode)) } := by
  subst hb
  rw [State.controlStep, hm, Laws.setMode_eq _ _ on, noticed_eq, Laws.issueBypass_eq]
  simp only [List.append_assoc, ne_comm]

theorem controlUpdate_steps (u : Update) (s : State) : ∃ mode bypass svp step, controlUpdate u s
    = { s with hxc := { s.hxc with mode := mode, bypass := bypass }, svp := svp, handed := s.handed ++ step }
    ∧ ControlStep u s mode bypass svp step := by
  have stands (h : controlUpdate u s = s) (hn : ∀ v, u.newValue qNetSupplyT = some v → ¬ heats s.hxc.mode = true) :
      ∃ mode bypass svp step, controlUpdate u s
        = { s with hxc := { s.hxc with mode := mode, bypass := bypass }, svp := svp, handed := s.handed ++ step }
        ∧ ControlStep u s mode bypass svp step :=
    ⟨s.hxc.mode, s.hxc.bypass, s.svp, [], by rw [h, List.append_nil], fun _ => ⟨rfl, rfl, rfl, rfl⟩,
      fun v hv hm => absurd (decide_eq_true hm) (hn v hv)⟩
  cases h : u.newValue qNetSupplyT with
  | none => exact stands (by rw [controlUpdate, h]) (by rw [h]; nofun)
  | some v =>
    by_cases on : heats s.hxc.mode = true
    · have stepped : controlUpdate u s = s.controlStep v (u.valid s qHxOutT) := by
        rw [controlUpdate, h]
        exact if_pos on
      have mode := of_decide_eq_true on
      have after : (s.floorCheck (u.valid s qHxOutT) (s.delta v)).1 ≠ .isolated := fun e => by
        have := floorCheck_heats on (u.valid s qHxOutT) (s.delta v)
        simp [heats, e] at this
      refine ⟨_, _, _, _, stepped.trans (controlStep_eq v _ rfl rfl after), fun off => ?_, fun w hw _ => ?_⟩
      · rw [h] at off
        rcases mode with m | m <;> simp [m] at off
      · obtain rfl : v = w := Option.some.inj (h.symm.trans hw)
        refine ⟨_, _, rfl, fun hn => ?_, fun x level hx hl => ?_, rfl, rfl, rfl⟩
        · rw [hn, Laws.floorCheck_none]
          exact ⟨rfl, rfl⟩
        · obtain ⟨below, held, above⟩ := Laws.floorCheck_some s x (s.delta v) level hl mode
          simp only [hx]
          exact ⟨fun b => by rw [below b]; exact ⟨rfl, rfl⟩, fun b b' m => by rw [held b b' m]; exact ⟨rfl, rfl⟩,
            fun b m => by rw [above b m]; exact ⟨rfl, rfl⟩⟩
    · exact stands (by rw [controlUpdate, h]; exact if_neg on) fun _ _ => on

/-! ### The floor breach (R67) -/

/-- The breach at an update: the run, the flag and the events after it. -/
def BreachStep (u : Update) (s : State) (run : Nat) (flag : Bool) (l : List Instr) : Prop :=
  (u.newValue qHxOutT = none ∨ s.hxc.mode = .off ∨ s.hxc.mode = .isolated →
    run = s.hxc.breachRun ∧ flag = s.hxc.breach ∧ l = [])
  ∧ ∀ v, u.newValue qHxOutT = some v → s.hxc.mode = .heating ∨ s.hxc.mode = .heatLimited →
    (v < s.scm.floor.inUse → run = min (s.hxc.breachRun + 1) 15
      ∧ (s.hxc.breach = true ∨ (run : Int) < s.hxSet .breachPersist → flag = s.hxc.breach ∧ l = [])
      ∧ (s.hxc.breach = false → s.hxSet .breachPersist ≤ (run : Int) →
        flag = true ∧ l = [.alarmChange .floorBreach .exchanger (.raise .alarm v), .counterIncrement [.floorBreaches]]))
    ∧ (v = s.scm.floor.inUse → run = 0 ∧ flag = s.hxc.breach ∧ l = [])
    ∧ (s.scm.floor.inUse < v → run = 0 ∧ flag = false
      ∧ l = if s.hxc.breach then [.alarmClear .floorBreach .exchanger] else [])

/-- The events a breach can hand. -/
def IsBreachEvent (e : Instr) : Prop := (∃ v, e = .alarmChange .floorBreach .exchanger (.raise .alarm v))
  ∨ e = .alarmClear .floorBreach .exchanger ∨ e = .counterIncrement [.floorBreaches]

theorem evalBreach_steps (s : State) (v : Int) : ∃ run flag l, s.evalBreach v
    = { s with hxc := { s.hxc with breachRun := run, breach := flag }, handed := s.handed ++ l }
    ∧ (∀ e ∈ l, IsBreachEvent e)
    ∧ (v < s.scm.floor.inUse → run = min (s.hxc.breachRun + 1) 15
      ∧ (s.hxc.breach = true ∨ (run : Int) < s.hxSet .breachPersist → flag = s.hxc.breach ∧ l = [])
      ∧ (s.hxc.breach = false → s.hxSet .breachPersist ≤ (run : Int) →
        flag = true ∧ l = [.alarmChange .floorBreach .exchanger (.raise .alarm v), .counterIncrement [.floorBreaches]]))
    ∧ (v = s.scm.floor.inUse → run = 0 ∧ flag = s.hxc.breach ∧ l = [])
    ∧ (s.scm.floor.inUse < v → run = 0 ∧ flag = false
      ∧ l = if s.hxc.breach then [.alarmClear .floorBreach .exchanger] else []) := by
  rcases lt_trichotomy v s.scm.floor.inUse with below | at_ | above
  · by_cases due : reaches (run15 s.hxc.breachRun) (s.hxSet .breachPersist) = true ∧ s.hxc.breach = false
    · refine ⟨_, true, _, (if_pos below).trans (if_pos due), by simp [IsBreachEvent], fun _ => ⟨rfl, fun h => ?_,
        fun _ _ => ⟨rfl, rfl⟩⟩, fun h => absurd h below.ne, fun h => absurd h below.not_gt⟩
      have reached := of_decide_eq_true due.1
      rcases h with h | h
      · exact absurd (due.2.symm.trans h) nofun
      · exact absurd reached h.not_ge
    · refine ⟨run15 s.hxc.breachRun, s.hxc.breach, [], (if_pos below).trans ((if_neg due).trans (by rw [List.append_nil])),
        by simp, fun _ => ⟨rfl, fun _ => ⟨rfl, rfl⟩, fun h h' => ?_⟩, fun h => absurd h below.ne,
        fun h => absurd h below.not_gt⟩
      exact absurd ⟨decide_eq_true h', h⟩ due
  · refine ⟨0, s.hxc.breach, [], ?_, by simp, fun h => absurd at_ h.ne, fun _ => ⟨rfl, rfl, rfl⟩,
      fun h => absurd at_ h.ne'⟩
    exact (if_neg at_.not_lt).trans ((if_pos at_).trans (by rw [List.append_nil]))
  · refine ⟨0, false, if s.hxc.breach then [.alarmClear .floorBreach .exchanger] else [], ?_, ?_,
      fun h => absurd h above.not_gt, fun h => absurd h above.ne', fun _ => ⟨rfl, rfl, rfl⟩⟩
    · exact (if_neg above.not_gt).trans ((if_neg above.ne').trans (Laws.endBreach_eq s))
    · split <;> simp [IsBreachEvent]

theorem breachUpdate_steps (u : Update) (s : State) : ∃ run flag l, breachUpdate u s
    = { s with hxc := { s.hxc with breachRun := run, breach := flag }, handed := s.handed ++ l }
    ∧ (∀ e ∈ l, IsBreachEvent e) ∧ BreachStep u s run flag l := by
  have stands (h : breachUpdate u s = s) (hn : ∀ v, u.newValue qHxOutT = some v → ¬ heats s.hxc.mode = true) :
      ∃ run flag l, breachUpdate u s
        = { s with hxc := { s.hxc with breachRun := run, breach := flag }, handed := s.handed ++ l }
        ∧ (∀ e ∈ l, IsBreachEvent e) ∧ BreachStep u s run flag l :=
    ⟨s.hxc.breachRun, s.hxc.breach, [], by rw [h, List.append_nil], by simp, fun _ => ⟨rfl, rfl, rfl⟩,
      fun v hv hm => absurd (decide_eq_true hm) (hn v hv)⟩
  cases h : u.newValue qHxOutT with
  | none => exact stands (by rw [breachUpdate, h]) (by rw [h]; nofun)
  | some v =>
    by_cases on : heats s.hxc.mode = true
    · have evaluated : breachUpdate u s = s.evalBreach v := by
        rw [breachUpdate, h]
        exact if_pos on
      obtain ⟨run, flag, l, he, events, lines⟩ := evalBreach_steps s v
      refine ⟨run, flag, l, evaluated.trans he, events, fun off => ?_, fun w hw _ => ?_⟩
      · rw [h] at off
        rcases of_decide_eq_true on with m | m <;> simp [m] at off
      · obtain rfl : v = w := Option.some.inj (h.symm.trans hw)
        exact lines
    · exact stands (by rw [breachUpdate, h]; exact if_neg on) fun _ _ => on

/-! ### The heat figures (R68, R69) -/

/-- Qmax at an update. -/
def QmaxStep (u : Update) (s : State) (qmax : Option Int) : Prop :=
  (u.outOfValid qHxBrineFlow = true ∨ u.outOfValid qHxInT = true → qmax = none)
  ∧ (u.outOfValid qHxBrineFlow = false → u.outOfValid qHxInT = false →
    (¬(u.listsValue qHxBrineFlow = true ∨ u.listsValue qHxInT = true)
        ∨ u.valid s qHxBrineFlow = none ∨ u.valid s qHxInT = none → qmax = s.hxc.qmax)
    ∧ ∀ f x, u.listsValue qHxBrineFlow = true ∨ u.listsValue qHxInT = true →
      u.valid s qHxBrineFlow = some f → u.valid s qHxInT = some x →
      qmax = some (f * s.hxSet .cpBrine * max (x - (s.scm.floor.inUse + s.hxSet .deadband)) 0 / 36000))

theorem qmaxUpdate_steps (u : Update) (s : State) : ∃ qmax,
    qmaxUpdate u s = { s with hxc := { s.hxc with qmax := qmax } } ∧ QmaxStep u s qmax := by
  by_cases lost : (u.outOfValid qHxBrineFlow || u.outOfValid qHxInT) = true
  · refine ⟨none, if_pos lost, fun _ => rfl, fun h h' => ?_⟩
    simp [h, h'] at lost
  have kept : ¬(u.outOfValid qHxBrineFlow = true ∨ u.outOfValid qHxInT = true) := by simpa using lost
  by_cases due : (u.listsValue qHxBrineFlow = true ∨ u.listsValue qHxInT = true)
      ∧ u.valid s qHxBrineFlow ≠ none ∧ u.valid s qHxInT ≠ none
  · obtain ⟨lists, hf, hx⟩ := due
    obtain ⟨f, hf⟩ := Option.ne_none_iff_exists'.1 hf
    obtain ⟨x, hx⟩ := Option.ne_none_iff_exists'.1 hx
    refine ⟨_, (if_neg lost).trans ((if_pos (Bool.or_eq_true_iff.2 lists)).trans (by rw [hf, hx])),
      fun h => absurd h kept, fun _ _ => ⟨fun h => ?_, fun f' x' _ hf' hx' => ?_⟩⟩
    · simp [lists, hf, hx] at h
    · obtain rfl := Option.some.inj (hf.symm.trans hf')
      obtain rfl := Option.some.inj (hx.symm.trans hx')
      rfl
  · refine ⟨s.hxc.qmax, (if_neg lost).trans ?_, fun h => absurd h kept, fun _ _ => ⟨fun _ => rfl,
      fun f x hl hf hx => absurd ⟨hl, by simp [hf], by simp [hx]⟩ due⟩⟩
    split
    next lists =>
      split
      next f x hf hx => exact absurd ⟨Bool.or_eq_true_iff.1 lists, by simp [hf], by simp [hx]⟩ due
      next => rfl
    next => rfl

/-- The heat delivered at an update. -/
def HeatStep (u : Update) (s : State) (heat : Option Int) : Prop :=
  (u.outOfValid qNetFlow = true ∨ u.outOfValid qNetSupplyT = true ∨ u.outOfValid qNetReturnT = true → heat = none)
  ∧ (u.outOfValid qNetFlow = false → u.outOfValid qNetSupplyT = false → u.outOfValid qNetReturnT = false →
    (¬(u.listsValue qNetFlow = true ∨ u.listsValue qNetSupplyT = true ∨ u.listsValue qNetReturnT = true)
        ∨ u.valid s qNetFlow = none ∨ u.valid s qNetSupplyT = none ∨ u.valid s qNetReturnT = none →
      heat = s.hxc.heat)
    ∧ ∀ f x y, u.listsValue qNetFlow = true ∨ u.listsValue qNetSupplyT = true ∨ u.listsValue qNetReturnT = true →
      u.valid s qNetFlow = some f → u.valid s qNetSupplyT = some x → u.valid s qNetReturnT = some y →
      heat = some (f * s.hxSet .cpWater * max (x - y) 0 / 36000))

theorem heatUpdate_steps (u : Update) (s : State) : ∃ heat,
    heatUpdate u s = { s with hxc := { s.hxc with heat := heat } } ∧ HeatStep u s heat := by
  have or3 (a b c : Bool) : (a || b || c) = true ↔ a = true ∨ b = true ∨ c = true := by simp [or_assoc]
  by_cases lost : (u.outOfValid qNetFlow || u.outOfValid qNetSupplyT || u.outOfValid qNetReturnT) = true
  · refine ⟨none, if_pos lost, fun _ => rfl, fun h h' h'' => ?_⟩
    simp [h, h', h''] at lost
  have kept := mt (or3 ..).2 lost
  by_cases due : (u.listsValue qNetFlow = true ∨ u.listsValue qNetSupplyT = true ∨ u.listsValue qNetReturnT = true)
      ∧ u.valid s qNetFlow ≠ none ∧ u.valid s qNetSupplyT ≠ none ∧ u.valid s qNetReturnT ≠ none
  · obtain ⟨lists, hf, hx, hy⟩ := due
    obtain ⟨f, hf⟩ := Option.ne_none_iff_exists'.1 hf
    obtain ⟨x, hx⟩ := Option.ne_none_iff_exists'.1 hx
    obtain ⟨y, hy⟩ := Option.ne_none_iff_exists'.1 hy
    refine ⟨_, (if_neg lost).trans ((if_pos ((or3 ..).2 lists)).trans (by rw [hf, hx, hy])),
      fun h => absurd h kept, fun _ _ _ => ⟨fun h => ?_, fun f' x' y' _ hf' hx' hy' => ?_⟩⟩
    · simp [lists, hf, hx, hy] at h
    · obtain rfl := Option.some.inj (hf.symm.trans hf')
      obtain rfl := Option.some.inj (hx.symm.trans hx')
      obtain rfl := Option.some.inj (hy.symm.trans hy')
      rfl
  · refine ⟨s.hxc.heat, (if_neg lost).trans ?_, fun h => absurd h kept, fun _ _ _ => ⟨fun _ => rfl,
      fun f x y hl hf hx hy => absurd ⟨hl, by simp [hf], by simp [hx], by simp [hy]⟩ due⟩⟩
    split
    next lists =>
      split
      next f x y hf hx hy => exact absurd ⟨(or3 ..).1 lists, by simp [hf], by simp [hx], by simp [hy]⟩ due
      next => rfl
    next => rfl

/-! ### An update, whole -/

/-- What an update makes of the record that stands once the isolation causes have moved. -/
theorem hxcUpdate_steps (u : Update) (s m : State) (hm : outletUpdate u s = m) :
    ∃ base flag src target mode bypass svp step run breach l qmax heat, s.hxcUpdate u = { m with
        hxc := { m.hxc with
          curveBase := base, curveFlag := flag, source := src, target := target, mode := mode, bypass := bypass
          breachRun := run, breach := breach, qmax := qmax, heat := heat }
        svp := svp, handed := m.handed ++ step ++ l }
      ∧ TargetStep u m base flag src target
      ∧ ControlStep u { m with hxc := { m.hxc with target := target } } mode bypass svp step
      ∧ (∀ e ∈ l, IsBreachEvent e)
      ∧ BreachStep u { m with hxc := { m.hxc with mode := mode } } run breach l
      ∧ QmaxStep u m qmax ∧ HeatStep u m heat := by
  obtain ⟨base, flag, src, target, targeted, ht⟩ := targetUpdate_steps u m
  obtain ⟨mode, bypass, svp, step, stepped, hc⟩ := controlUpdate_steps u { m with hxc := { m.hxc with
    curveBase := base, curveFlag := flag, source := src, target := target } }
  obtain ⟨run, breach, l, breached, events, hb⟩ := breachUpdate_steps u { m with
    hxc := { m.hxc with
      curveBase := base, curveFlag := flag, source := src, target := target, mode := mode, bypass := bypass }
    svp := svp, handed := m.handed ++ step }
  obtain ⟨qmax, maxed, hq⟩ := qmaxUpdate_steps u { m with
    hxc := { m.hxc with
      curveBase := base, curveFlag := flag, source := src, target := target, mode := mode, bypass := bypass
      breachRun := run, breach := breach }
    svp := svp, handed := m.handed ++ step ++ l }
  obtain ⟨heat, heated, hh⟩ := heatUpdate_steps u { m with
    hxc := { m.hxc with
      curveBase := base, curveFlag := flag, source := src, target := target, mode := mode, bypass := bypass
      breachRun := run, breach := breach, qmax := qmax }
    svp := svp, handed := m.handed ++ step ++ l }
  refine ⟨base, flag, src, target, mode, bypass, svp, step, run, breach, l, qmax, heat, ?_, ht, hc, events, hb, hq, hh⟩
  rw [State.hxcUpdate, hm, targeted, stepped, breached, maxed, heated]

/-- An update that adds no cause moves OUTLET_STALE alone, and only out of the set (R62). -/
theorem outletUpdate_quiet {u : Update} {s : State} (h : u.intoStale qHxOutT = false ∨ s.hxc.causes.outletStale = true) :
    outletUpdate u s = { s with hxc := { s.hxc with
      causes := if u.intoValid qHxOutT then { s.hxc.causes with outletStale := false } else s.hxc.causes } } := by
  cases stale : u.intoStale qHxOutT with
  | false =>
    rw [outletUpdate, stale]
    cases u.intoValid qHxOutT <;> rfl
  | true =>
    have stands : s.hxc.causes.has .outletStale = true := h.resolve_left (by simp [stale])
    have other : u.intoValid qHxOutT = false := by
      unfold Update.intoStale at stale
      unfold Update.intoValid
      split at stale
      next he =>
        have := of_decide_eq_true stale
        simp [this]
      next => exact absurd stale nofun
    rw [outletUpdate, stale, other]
    exact (if_pos rfl).trans (if_pos stands)

/-- Settles O28: the target's step and the control step, on the record the causes left. -/
theorem controlStepsObeyTheFloor : Obligations.ControlStepsObeyTheFloor := by
  intro u s quiet
  obtain ⟨base, flag, src, target, mode, bypass, svp, step, run, breach, l, qmax, heat, updated, ⟨value, kept⟩,
    ⟨rest, steps⟩, events, -⟩ := hxcUpdate_steps u (s.took (.hxcUpdate u)) _ (outletUpdate_quiet quiet)
  have exec_eq : exec (.hxcUpdate u) s = .next ((s.took (.hxcUpdate u)).hxcUpdate u) := rfl
  rw [updated] at exec_eq
  refine ⟨_, step, l, exec_eq, .of_exec exec_eq, rfl, events, rfl, rfl, rfl, value, kept, rest, fun v hv on => ?_⟩
  obtain ⟨asked, used, hasked, blind, lines, hb, hstep, hsvp⟩ := steps v hv on
  exact ⟨asked, used, hasked, blind, lines, hb, hstep, by rw [noticed_svp]; exact hsvp⟩

theorem ControlStep.events {u : Update} {s : State} {mode : HxMode} {bypass : Int} {svp : Svp} {step : List Instr}
    (h : ControlStep u s mode bypass svp step) :
    ∀ e ∈ step, (∃ b, e = .setPlaced (.exchanger b)) ∨ ∃ a b, e = .sqrStateChange .exchanger a b := by
  obtain ⟨rest, steps⟩ := h
  cases hv : u.newValue qNetSupplyT with
  | none => simp [(rest (.inl hv)).2.2.1]
  | some v =>
    by_cases on : s.hxc.mode = .heating ∨ s.hxc.mode = .heatLimited
    · obtain ⟨-, -, -, -, -, -, hstep, -⟩ := steps v hv on
      intro e he
      rw [hstep] at he
      rcases List.mem_append.1 he with he | he
      · split at he <;> simp at he
        exact .inl ⟨_, he⟩
      · unfold changed at he
        split at he <;> simp at he
        exact .inr ⟨_, _, he⟩
    · have off : s.hxc.mode = .off ∨ s.hxc.mode = .isolated := by cases hm : s.hxc.mode <;> simp [hm] at on ⊢
      simp [(rest (.inr off)).2.2.1]

theorem frame_hxc {s t : State} (h : Frame [.hxc, .svp, .handed] s t) :
    t = { s with hxc := t.hxc, svp := t.svp, handed := t.handed } := by
  obtain ⟨pending, -, -, flc, qtb, tip, scm, -, wcc, tbc, bbu, sqr, alt, ssl, free⟩ := h
  rw [← pending (by decide), ← flc (by decide), ← qtb (by decide), ← tip (by decide), ← scm (by decide),
    ← wcc (by decide), ← tbc (by decide), ← bbu (by decide), ← sqr (by decide), ← alt (by decide), ← ssl (by decide),
    ← free (by decide)]

/-- What the moves of the causes can change: an isolation writes mode, bypass and breach besides. -/
theorem outletUpdate_form (u : Update) (s : State) : ∃ causes mode bypass run breach svp l, outletUpdate u s = { s with
    hxc := { s.hxc with causes := causes, mode := mode, bypass := bypass, breachRun := run, breach := breach }
    svp := svp, handed := s.handed ++ l } := by
  by_cases quiet : u.intoStale qHxOutT = false ∨ s.hxc.causes.outletStale = true
  · exact ⟨_, s.hxc.mode, s.hxc.bypass, s.hxc.breachRun, s.hxc.breach, s.svp, [],
      (outletUpdate_quiet quiet).trans (by rw [List.append_nil])⟩
  · obtain ⟨stale, fresh⟩ := not_or.1 quiet
    have added : outletUpdate u s = s.addCause .outletStale := if_pos (Bool.eq_true_of_not_eq_false stale)
    obtain ⟨l, ⟨joins, isolates⟩, handed⟩ := Laws.addCause_isolates s .outletStale
    have whole := frame_hxc (.addCause (k := .outletStale) (.refl _ s) (List.Subset.refl _))
    rw [added, whole, handed]
    by_cases isolated : s.hxc.mode = .isolated
    · rw [(joins (.inr isolated)).1]
      exact ⟨_, _, _, _, _, _, _, rfl⟩
    · rw [(isolates (Bool.eq_false_iff.2 fresh) isolated).1]
      exact ⟨_, _, _, _, _, _, _, rfl⟩

/-- Settles O29: the figures at every update, and the breach in the mode after the step. -/
theorem breachAndHeatFigures : Obligations.BreachAndHeatFigures := by
  intro u s
  refine ⟨_, rfl, fun quiet => ?_, ?_⟩
  · obtain ⟨base, flag, src, target, mode, bypass, svp, step, run, breach, l, qmax, heat, updated, -,
      control, -, ⟨rest, lines⟩, -⟩ := hxcUpdate_steps u (s.took (.hxcUpdate u)) _ (outletUpdate_quiet quiet)
    rw [updated]
    exact ⟨step, l, rfl, control.events, rest, lines⟩
  · obtain ⟨causes, mode, bypass, run, breach, svp, l, formed⟩ := outletUpdate_form u (s.took (.hxcUpdate u))
    obtain ⟨_, _, _, _, _, _, _, _, _, _, _, qmax, heat, updated, -, -, -, -, maxed, heated⟩ :=
      hxcUpdate_steps u (s.took (.hxcUpdate u)) _ formed
    rw [updated]
    exact ⟨maxed.1, maxed.2, heated⟩

/-! ### Isolation (R62, R63) -/

/-- Settles O30: each event by the cause it adds or removes; an update meets the mode ISOLATED. -/
theorem isolationIsLatched : Obligations.IsolationIsLatched := by
  intro s
  have adds (z : State) (k : IsoCause) : ∃ l, Isolates k z (z.addCause k) l ∧ (z.addCause k).handed = z.handed ++ l :=
    Laws.addCause_isolates z k
  refine ⟨fun old => ?_, ?_, fun idle => ?_, fun u stale fresh => ?_, fun new hn => ?_, fun old new ho hn => ?_, rfl, rfl⟩
  · obtain ⟨l, isolates, handed⟩ := adds (s.took (.hxcSp0Change old .alarm)) .sp0Alarm
    exact ⟨_, l, rfl, .of_exec (i := .hxcSp0Change old .alarm) rfl, isolates, handed⟩
  · obtain ⟨l, isolates, handed⟩ := adds (s.took (.hxcSilicaStale true)) .silicaStale
    exact ⟨_, l, rfl, .of_exec (i := .hxcSilicaStale true) rfl, isolates, handed⟩
  · obtain ⟨l, isolates, handed⟩ := adds s.deselect .host
    exact ⟨_, l, exec_of_serve idle rfl rfl, .addCause (.refl _ _) (List.Subset.refl _), isolates, handed⟩
  · obtain ⟨l, isolates, handed⟩ := adds (s.took (.hxcUpdate u)) .outletStale
    have added : outletUpdate u (s.took (.hxcUpdate u)) = (s.took (.hxcUpdate u)).addCause .outletStale := if_pos stale
    obtain ⟨base, flag, src, target, mode, bypass, svp, step, run, breach, l', qmax, heat, updated, -, ⟨rest, -⟩,
      -, ⟨rest', -⟩, -⟩ := hxcUpdate_steps u _ _ added
    have isolated : ((s.took (.hxcUpdate u)).addCause .outletStale).hxc.mode = .isolated := by
      by_cases before : s.hxc.mode = .isolated
      · rw [(isolates.1 (.inr before)).1]
        exact before
      · rw [(isolates.2 fresh before).1]
    obtain ⟨rfl, rfl, rfl, rfl⟩ := rest (.inr (.inr isolated))
    obtain ⟨rfl, rfl, rfl⟩ := rest' (.inr (.inr isolated))
    have exec_eq : exec (.hxcUpdate u) s = .next ((s.took (.hxcUpdate u)).hxcUpdate u) := rfl
    rw [updated] at exec_eq
    refine ⟨_, _, l, exec_eq, .of_exec exec_eq, isolates, rfl, ?_, rfl⟩
    rw [List.append_nil, List.append_nil, handed]
    rfl
  · exact congrArg _ ((if_neg hn).trans (if_pos rfl))
  · exact congrArg _ ((if_neg hn).trans (if_neg ho))

/-! ### The commands (R57, R60, R64, R65) -/

theorem causes_none_iff (x : Causes) : x = ⟨false, false, false, false⟩ ↔ x.automatic = false ∧ x.host = false := by
  cases x
  simp [Causes.automatic, and_assoc]

theorem hxOn_refused {s : State} (h : s.claimant .exchanger = none)
    (hs : s.hxc.mode ≠ .off ∨ s.hxc.causes ≠ ⟨false, false, false, false⟩) :
    State.hxOn .host s = s.says .refusedState := by
  rw [State.hxOn, unclaimed_of_none h]
  refine if_neg fun on => ?_
  rcases hs with hs | hs
  · exact hs on.1
  · exact hs ((causes_none_iff _).2 on.2)

theorem hxResume_refused {s : State} (h : s.claimant .exchanger = none)
    (hs : s.hxc.mode ≠ .isolated ∨ s.hxc.causes.sp0Alarm = true ∨ s.hxc.causes.silicaStale = true
      ∨ s.hxc.causes.outletStale = true) : State.hxResume .host s = s.says .refusedState := by
  rw [State.hxResume, unclaimed_of_none h]
  refine if_neg fun on => ?_
  rcases hs with hs | hs
  · exact hs on.1
  · have := on.2
    simp [Causes.automatic] at this
    simp [this] at hs

theorem setMode_from {s : State} {old new : HxMode} (h : s.hxc.mode = old) (ne : old ≠ new) (hn : new ≠ .isolated) :
    s.setMode new = ({ s with hxc := { s.hxc with mode := new } }.notify
      [.state .exchanger (.exchanger old) (.exchanger new) none]).hand
      [.sqrStateChange .exchanger (.exchanger old, .exchanger new) none] := by
  subst h
  rw [State.setMode, if_neg ne, if_neg hn]
  rfl

theorem hxOn_taken {s : State} (h : s.claimant .exchanger = none) (off : s.hxc.mode = .off)
    (empty : s.hxc.causes = ⟨false, false, false, false⟩) : State.hxOn .host s
      = (({ s with hxc := { s.hxc with mode := .heating, breachRun := 0 } }.notify
          [.state .exchanger (.exchanger .off) (.exchanger .heating) none]).hand
          [.sqrStateChange .exchanger (.exchanger .off, .exchanger .heating) none], .ok, .none) := by
  rw [State.hxOn, unclaimed_of_none h]
  refine (if_pos ⟨off, (causes_none_iff _).1 empty⟩).trans ?_
  exact congrArg (·, Status.ok, Content.none) (setMode_from (old := .off) (new := .heating) off (by decide) (by decide))

theorem hxResume_taken {s : State} (h : s.claimant .exchanger = none) (isolated : s.hxc.mode = .isolated)
    (sp0 : s.hxc.causes.sp0Alarm = false) (stale : s.hxc.causes.silicaStale = false)
    (outlet : s.hxc.causes.outletStale = false) : State.hxResume .host s
      = (({ s with hxc := { s.hxc with mode := .heating, causes := ⟨false, false, false, false⟩ } }.notify
          [.state .exchanger (.exchanger .isolated) (.exchanger .heating) none]).hand
          [.alarmClear .hxIsolated .exchanger,
            .sqrStateChange .exchanger (.exchanger .isolated, .exchanger .heating) none], .ok, .none) := by
  have causes : s.hxc.causes.put false .host = ⟨false, false, false, false⟩ := by simp [Causes.put, sp0, stale, outlet]
  rw [State.hxResume, unclaimed_of_none h]
  refine (if_pos ⟨isolated, by simp [Causes.automatic, sp0, stale, outlet]⟩).trans ?_
  rw [setMode_from (s := (s.dropCause .host).hand [.alarmClear .hxIsolated .exchanger]) (old := .isolated)
    (new := .heating) isolated (by decide) (by decide)]
  simp only [State.dropCause, causes, State.hand, State.notify, List.append_assoc, List.cons_append, List.nil_append]

theorem hxOffset_taken {s : State} (h : s.claimant .exchanger = none) (v : Int) : State.hxOffset .host v s
      = ({ s with hxc := { s.hxc with
          offset := max (-200) (min 200 v)
          target := max (s.hxSet .supplyMin) (min (s.hxSet .supplyMax) (s.targetBase + max (-200) (min 200 v))) } },
        if -200 ≤ v ∧ v ≤ 200 then .ok else .clamped, .none) := by
  have status : clampStatus v (clampTo (-200) 200 v) = if -200 ≤ v ∧ v ≤ 200 then .ok else .clamped := by
    unfold clampStatus clampTo
    congr 1
    exact propext (by omega)
  rw [State.hxOffset, unclaimed_of_none h]
  dsimp only
  rw [status]
  rfl

/-- OFF opens the bypass, ends the breach and the HOST cause, and clears a standing HX_ISOLATED. -/
theorem hxOff_taken (s : State) (caller : Caller) : State.hxOff caller s = ({ s with
    hxc := { s.hxc with
      mode := .off, causes := { s.hxc.causes with host := false }, bypass := 1000, breachRun := 0, breach := false }
    svp := noticedSvp s.svp .exchanger (.exchanger s.hxc.mode) (.exchanger .off) none
    handed := s.handed
      ++ (if s.hxc.bypass ≠ 1000 ∧ (s.entryOfKind .exchanger).isSome then [.setPlaced (.exchanger 1000)] else [])
      ++ (if s.hxc.breach then [.alarmClear .floorBreach .exchanger] else [])
      ++ (if s.hxc.mode = .isolated then [.alarmClear .hxIsolated .exchanger] else [])
      ++ changed .exchanger (.exchanger s.hxc.mode) (.exchanger .off)
      ++ [.sqrTargetTripStop .exchanger .stop (.command caller)] }, .ok, .none) := by
  dsimp only [State.hxOff]
  rw [Laws.issueBypass_eq, Laws.endBreach_eq, Laws.setMode_eq _ _ (by nofun), noticed_eq]
  rfl

/-- Settles O31: each command by its claim, its check and its effect. -/
theorem exchangerCommands : Obligations.ExchangerCommands := by
  intro s v idle
  refine ⟨fun claimed => ⟨onlyAnswers_of_serve idle rfl (unclaimed_of_some (s := s.deselect) claimed _),
    onlyAnswers_of_serve idle rfl (unclaimed_of_some (s := s.deselect) claimed _),
    onlyAnswers_of_serve idle rfl (unclaimed_of_some (s := s.deselect) claimed _)⟩,
    fun free => ⟨fun off empty => ?_, fun hs => ?_, fun isolated sp0 stale outlet => ?_, fun hs => ?_, ?_⟩, ?_⟩
  · exact exec_of_serve idle rfl (hxOn_taken (s := s.deselect) free off empty)
  · exact onlyAnswers_of_serve idle rfl (hxOn_refused (s := s.deselect) free hs)
  · exact exec_of_serve idle rfl (hxResume_taken (s := s.deselect) free isolated sp0 stale outlet)
  · exact onlyAnswers_of_serve idle rfl (hxResume_refused (s := s.deselect) free hs)
  · exact ⟨_, s.targetBase, rfl, (targetBase_iff s).1, (targetBase_iff s).2,
      exec_of_serve idle rfl (hxOffset_taken (s := s.deselect) free v)⟩
  · refine ⟨_, exec_of_serve idle rfl (hxOff_taken s.deselect .host), ?_, rfl, (noticed_svp ..).symm, rfl⟩
    have frame : Frame [.hxc, .svp, .handed] s.deselect (State.hxOff .host s.deselect).1 :=
      .hxOff (.refl _ _) (List.Subset.refl _)
    rw [hxOff_taken] at frame
    exact frame

end Sys2Proof.Proofs

/-! PROOFS. The channels: commands, trips, ramps, status events and updates (chapter 5). -/

namespace Sys2Proof.Proofs

open Sys2Proof.Machine

/-! ### A change of a channel's state that is no trip (R95) -/

theorem wellChanged_moves (s : State) (c : WellNo) {old new : WellState} (ne : old ≠ new)
    (calm : isWellTrip new = false) : s.wellChanged c old new none
      = (s.notify [.state (.well c) (.well old) (.well new) none]).hand (wellMoves c old new) := by
  rw [State.wellChanged, if_neg ne, Laws.wellEvents_moves c old new calm]
  rfl

/-- The events handed before a notice stand before those handed after it. -/
theorem hand_notify_hand (s : State) (l m : List Instr) (n : List Notice) :
    ((s.hand l).notify n).hand m = (s.notify n).hand (l ++ m) := by
  simp [State.hand, State.notify]

/-! ### Commands (R79 to R84, R91) -/

section Commands

variable {s : State} {c : WellNo}

theorem wellStationReady_iff : s.wellStationReady c = true ↔
    ∃ e, s.entryOfWell c = some e ∧ (s.flc.stations.get e).status ≠ .lost := by
  unfold State.wellStationReady
  cases s.entryOfWell c with
  | none => simp
  | some e => exact decide_eq_true_iff.trans ⟨fun h => ⟨e, rfl, h⟩, fun ⟨_, he, h⟩ => Option.some.inj he ▸ h⟩

theorem wellStart_stored (h : s.claimant (.well c) = none) (fault : s.ssl.storeFault = true) :
    State.wellStart .host c s = s.says .refusedStore := by
  rw [State.wellStart, unclaimed_of_none h]
  exact if_pos fault

theorem wellStart_refused (h : s.claimant (.well c) = none) (fault : s.ssl.storeFault = false)
    (hs : (s.wcc.get c).state ≠ .off ∨ s.role c = .unused ∨ s.entryOfWell c = none
      ∨ ∃ e, s.entryOfWell c = some e ∧ (s.flc.stations.get e).status = .lost) :
    State.wellStart .host c s = s.says .refusedState := by
  rw [State.wellStart, unclaimed_of_none h]
  refine (if_neg (by simp [fault])).trans (if_neg fun ⟨off, used, ready⟩ => ?_)
  obtain ⟨e, he, online⟩ := wellStationReady_iff.1 ready
  rcases hs with h | h | h | ⟨e', h, lost⟩
  · exact h off
  · exact used h
  · exact absurd (he.symm.trans h) nofun
  · obtain rfl : e = e' := Option.some.inj (he.symm.trans h)
    exact online lost

theorem wellStart_taken (h : s.claimant (.well c) = none) (fault : s.ssl.storeFault = false)
    (off : (s.wcc.get c).state = .off) (used : s.role c ≠ .unused) {e : EntryNo} (he : s.entryOfWell c = some e)
    (online : (s.flc.stations.get e).status ≠ .lost) : State.wellStart .host c s
      = (({ s with wcc := s.wcc.set c { s.wcc.get c with
            state := .starting, ramp := true, startLeft := some (s.wellSet c .startTimeout).toNat
            ocRun := 0, flashRun := 0, dryRun := 0 } }.notify
          [.state (.well c) (.well .off) (.well .starting) none]).hand
          (.counterIncrement [.wellStarts c] :: wellMoves c .off .starting), .ok, .none) := by
  rw [State.wellStart, unclaimed_of_none h]
  refine (if_neg (by simp [fault])).trans ((if_pos ⟨off, used, wellStationReady_iff.2 ⟨e, he, online⟩⟩).trans ?_)
  rw [wellChanged_moves _ _ (by decide) rfl, hand_notify_hand]
  rfl

theorem wellStop_refused (h : (s.wcc.get c).state ≠ .starting) (h' : (s.wcc.get c).state ≠ .running) :
    State.wellStop .host c s = s.says .refusedState :=
  if_neg fun on => on.elim h h'

theorem wellStop_taken (h : (s.wcc.get c).state = .starting ∨ (s.wcc.get c).state = .running) :
    State.wellStop .host c s
      = (({ s with wcc := s.wcc.set c { s.wcc.get c with
            state := .stopping, startLeft := none, ocRun := 0, flashRun := 0, dryRun := 0 } }.notify
          [.state (.well c) (.well (s.wcc.get c).state) (.well .stopping) none]).hand
          (wellMoves c (s.wcc.get c).state .stopping
            ++ [Instr.sqrTargetTripStop (.well c) .stop (.command .host)]), .ok, .none) := by
  refine (if_pos h).trans ?_
  rw [wellChanged_moves _ _ (by rcases h with h | h <;> simp [h]) rfl, ← State.hand_append]
  rfl

theorem wellResetTrip_refused (h : s.claimant (.well c) = none) (hs : (s.wcc.get c).state ≠ .tripped) :
    State.wellResetTrip .host c s = s.says .refusedState (.seconds 0) := by
  rw [State.wellResetTrip, unclaimed_of_none h]
  exact if_neg hs

theorem wellResetTrip_cooling (h : s.claimant (.well c) = none) (hs : (s.wcc.get c).state = .tripped)
    (hot : (s.wcc.get c).cooldown ≠ 0) :
    State.wellResetTrip .host c s = s.says .refusedState (.seconds (s.wcc.get c).cooldown) := by
  rw [State.wellResetTrip, unclaimed_of_none h]
  exact (if_pos hs).trans (if_neg hot)

theorem wellResetTrip_taken (h : s.claimant (.well c) = none) (hs : (s.wcc.get c).state = .tripped)
    (cool : (s.wcc.get c).cooldown = 0) : State.wellResetTrip .host c s
      = (({ s with wcc := s.wcc.set c { s.wcc.get c with state := .off, ocRun := 0, flashRun := 0, dryRun := 0 } }.notify
          [.state (.well c) (.well .tripped) (.well .off) none]).hand
          (.alarmClear .wellTrip (.well c) :: wellMoves c .tripped .off), .ok, .none) := by
  rw [State.wellResetTrip, unclaimed_of_none h]
  refine (if_pos hs).trans ((if_pos cool).trans ?_)
  rw [wellChanged_moves _ _ (by decide) rfl, hand_notify_hand]
  rfl

theorem wellWeight_taken (h : s.claimant (.well c) = none) (v : Int) : State.wellWeight .host c v s
    = ({ s with wcc := s.wcc.set c { s.wcc.get c with weight := max 1 (min 100 v) } }.hand
        (if max 1 (min 100 v) = (s.wcc.get c).weight then [] else [.bbuWellWeight c]),
      if max 1 (min 100 v) = v then .ok else .clamped, .none) := by
  rw [State.wellWeight, unclaimed_of_none h]
  simp only [clampStatus, clampTo, eq_comm (a := v)]
  rfl

end Commands

/-- Settles O32: each command by the number, the claim, its checks and its effect. -/
theorem wellCommands : Obligations.WellCommands := by
  intro s v idle
  refine ⟨fun k hk => ⟨onlyAnswers_of_serve idle rfl (onWell_ge hk _ _), onlyAnswers_of_serve idle rfl (onWell_ge hk _ _),
    onlyAnswers_of_serve idle rfl (onWell_ge hk _ _), onlyAnswers_of_serve idle rfl (onWell_ge hk _ _)⟩, fun c w hw => ?_⟩
  subst hw
  have one (f : WellNo → State → Answer) : onWell c f s.deselect = f c s.deselect := onWell_fin c f _
  refine ⟨fun claimed => ⟨onlyAnswers_of_serve idle rfl ((one _).trans (unclaimed_of_some (s := s.deselect) claimed _)),
      onlyAnswers_of_serve idle rfl ((one _).trans (unclaimed_of_some (s := s.deselect) claimed _)),
      onlyAnswers_of_serve idle rfl ((one _).trans (unclaimed_of_some (s := s.deselect) claimed _))⟩,
    fun free => ⟨fun fault => ?_, fun fault hs => ?_, fun e fault off used he online => ?_, fun hs => ?_,
      fun hs hot => ?_, fun hs cool => ?_, _, rfl, ?_⟩, fun h h' => ?_, fun h => ?_⟩
  · exact onlyAnswers_of_serve idle rfl ((one _).trans (wellStart_stored (s := s.deselect) free fault))
  · exact onlyAnswers_of_serve idle rfl ((one _).trans (wellStart_refused (s := s.deselect) free fault hs))
  · exact exec_of_serve idle rfl ((one _).trans (wellStart_taken (s := s.deselect) free fault off used he online))
  · exact onlyAnswers_of_serve idle rfl ((one _).trans (wellResetTrip_refused (s := s.deselect) free hs))
  · exact onlyAnswers_of_serve idle rfl ((one _).trans (wellResetTrip_cooling (s := s.deselect) free hs hot))
  · exact exec_of_serve idle rfl ((one _).trans (wellResetTrip_taken (s := s.deselect) free hs cool))
  · exact exec_of_serve idle rfl ((one _).trans (wellWeight_taken (s := s.deselect) free v))
  · exact onlyAnswers_of_serve idle rfl ((one _).trans (wellStop_refused (s := s.deselect) h h'))
  · exact exec_of_serve idle rfl ((one _).trans (wellStop_taken (s := s.deselect) h))

/-! ### Trips, lockout and unlocking (R81, R89, R90, R92, R93) -/

section Trips

variable {s : State} {c : WellNo}

theorem tripsNow_iff {st : WellState} : tripsNow st = true ↔ st = .starting ∨ st = .running ∨ st = .stopping :=
  decide_eq_true_iff

theorem tripsNow_not {st : WellState} (h : st = .off ∨ st = .tripped ∨ st = .lockedOut) : ¬ tripsNow st = true := by
  rcases h with rfl | rfl | rfl <;> nofun

theorem operateWell_fin (c : WellNo) (f : WellNo → State → State × Status) (s : State) :
    operateWell c f s = f c s := by
  rw [operateWell, Laws.indexArg_fin]

theorem operateUnlock_taken (h : s.claimant (.well c) = none) (hs : (s.wcc.get c).state = .lockedOut) :
    s.operateUnlock c = (({ s with wcc := s.wcc.set c { s.wcc.get c with
            state := .off, history := [], cooldown := 0, ocRun := 0, flashRun := 0, dryRun := 0 } }.notify
          [.state (.well c) (.well .lockedOut) (.well .off) none]).hand
          ([Instr.alarmClear .wellLockout (.well c), .alarmClear .wellTrip (.well c)]
            ++ wellMoves c .lockedOut .off), .ok) := by
  refine (if_neg (by simp [h])).trans ((if_pos hs).trans ?_)
  rw [wellChanged_moves _ _ (by decide) rfl, hand_notify_hand]
  rfl

end Trips

/-- Settles O33: what a trip does, at each of its events; unlocking by its checks. -/
theorem wellTripsAndLockout : Obligations.WellTripsAndLockout := by
  intro s c w hw
  subst hw
  refine ⟨fun on => ⟨?_, fun idle sel => ?_⟩, fun off => ⟨?_, fun idle sel => ?_⟩, fun starting runs => ?_, fun hs => ?_,
    fun idle sel => ⟨fun claimed => ?_, fun free hs => ?_, fun free hs => ?_⟩⟩
  · obtain ⟨l, trips, handed⟩ := Laws.tripWell_trips (s.took (.wccLinkLost c)) c .linkLost (tripsNow_iff.2 on)
    have exec_eq : exec (.wccLinkLost c) s = .next ((s.took (.wccLinkLost c)).tripWell c .linkLost) :=
      congrArg _ (if_pos (tripsNow_iff.2 on))
    exact ⟨_, l, exec_eq, .of_exec exec_eq, trips, handed⟩
  · obtain ⟨l, trips, handed⟩ := Laws.tripWell_trips s.deselect c .operator (tripsNow_iff.2 on)
    exact ⟨_, l, exec_of_operate idle sel rfl (decide_eq_true c.isLt)
      ((operateWell_fin c _ _).trans (if_pos (tripsNow_iff.2 on))), .tripWell (.refl _ _) (List.Subset.refl _), trips,
      handed⟩
  · exact congrArg _ (if_neg (tripsNow_not off))
  · exact exec_of_operate idle sel rfl (decide_eq_true c.isLt)
      ((operateWell_fin c _ _).trans (if_neg (tripsNow_not off)))
  · obtain ⟨l, trips, handed⟩ := Laws.tripWell_trips s c .startFail (tripsNow_iff.2 (.inl starting))
    have exec_eq : exec (.startTimerExpiry c) s = .next (s.tripWell c .startFail) :=
      congrArg _ (if_pos ⟨starting, runs⟩)
    exact ⟨_, l, exec_eq, .of_exec exec_eq, trips, handed⟩
  · refine congrArg _ (if_neg fun on => hs.elim (fun h => h on.1) fun h => ?_)
    simp [h] at on
  · exact exec_of_operate idle sel rfl (decide_eq_true c.isLt) ((operateWell_fin c _ _).trans (if_pos claimed))
  · exact exec_of_operate idle sel rfl (decide_eq_true c.isLt)
      ((operateWell_fin c _ _).trans ((if_neg (by simp [show s.deselect.claimant (.well c) = none from free])).trans
        (if_neg hs)))
  · exact exec_of_operate idle sel rfl (decide_eq_true c.isLt)
      ((operateWell_fin c _ _).trans (operateUnlock_taken (s := s.deselect) free hs))

/-! ### Ramps (R82, R83, R85) -/

theorem toward_of_lt {step target d : Int} (h : d < target) : toward step target d = min (d + step) target := if_pos h

theorem toward_of_ge {step target d : Int} (h : target ≤ d) : toward step target d = max (d - step) target :=
  if_neg (Int.not_lt.2 h)

section Ramps

variable {s : State} {c : WellNo}

theorem ramped_starting (h : (s.wcc.get c).state = .starting) :
    s.ramped c = toward (s.wellSet c .rampStep) (s.wellSet c .minFlow) (s.wcc.get c).demand := by
  simp only [State.ramped, h]

theorem ramped_stopping (h : (s.wcc.get c).state = .stopping) :
    s.ramped c = toward (s.wellSet c .rampStep) 0 (s.wcc.get c).demand := by
  simp only [State.ramped, h]

theorem ramped_idle (h : (s.wcc.get c).state = .running) (ht : (s.wcc.get c).target = none) :
    s.ramped c = (s.wcc.get c).demand := by
  simp only [State.ramped, h, ht]

/-- A RUNNING channel's demand under its target: it rises without FLASH_HOLD alone. -/
theorem ramped_up {goal : Int} (h : (s.wcc.get c).state = .running) (ht : (s.wcc.get c).target = some goal)
    (up : (s.wcc.get c).demand < goal) : s.ramped c
      = if (s.wcc.get c).flashHold then (s.wcc.get c).demand
        else min ((s.wcc.get c).demand + s.wellSet c .rampStep) goal := by
  simp only [State.ramped, h, ht]
  cases hold : (s.wcc.get c).flashHold with
  | true => exact if_pos ⟨rfl, up⟩
  | false =>
    refine (if_neg (by simp)).trans ((if_neg fun e => ?_).trans (toward_of_lt up))
    exact absurd e.2.2 up.not_gt

/-- And it falls by the trip step when FAST_DOWN calls for it. -/
theorem ramped_down {goal : Int} (h : (s.wcc.get c).state = .running) (ht : (s.wcc.get c).target = some goal)
    (down : goal < (s.wcc.get c).demand) : s.ramped c = max ((s.wcc.get c).demand
      - (if s.role c = .production ∧ s.bbu.fastDown = true then s.wellSet c .tripRampStep
        else s.wellSet c .rampStep)) goal := by
  simp only [State.ramped, h, ht]
  refine (if_neg fun e => absurd e.2 down.not_gt).trans ?_
  by_cases fast : s.role c = .production ∧ s.bbu.fastDown = true
  · rw [if_pos ⟨fast.1, fast.2, down⟩, if_pos fast, toward_of_ge down.le]
  · rw [if_neg fun e => fast ⟨e.1, e.2.1⟩, if_neg fast, toward_of_ge down.le]

theorem ramped_there (h : (s.wcc.get c).state = .running) (ht : (s.wcc.get c).target = some (s.wcc.get c).demand)
    (step : 0 ≤ s.wellSet c .rampStep) : s.ramped c = (s.wcc.get c).demand := by
  simp only [State.ramped, h, ht]
  refine (if_neg fun e => lt_irrefl _ e.2).trans ((if_neg fun e => lt_irrefl _ e.2.2).trans ?_)
  rw [toward_of_ge le_rfl, max_eq_right (by omega)]

/-- A demand that moves is issued, and one that stands is not. -/
theorem issued_eq (d : Int) : (if d = (s.wcc.get c).demand then s else s.issueDemand c d) = { s with
    wcc := s.wcc.set c { s.wcc.get c with demand := d }
    handed := s.handed ++ (if d = (s.wcc.get c).demand then [] else
      (if (s.entryOfWell c).isSome then [Instr.setPlaced (.well c d)] else []) ++ [.bbuWellDemand c, .tbcWellDemand c]) } := by
  split
  next same =>
    subst same
    rw [show ({ s.wcc.get c with demand := (s.wcc.get c).demand } : Well) = s.wcc.get c from rfl, Bank.set_get_self,
      List.append_nil]
  next => rfl

theorem endStop_ends (h : (s.wcc.get c).state = .stopping) (hd : (s.wcc.get c).demand = 0) : s.endStop c
    = ({ s with wcc := s.wcc.set c { s.wcc.get c with
        state := .off, ramp := false, ocRun := 0, flashRun := 0, dryRun := 0 } }.notify
      [.state (.well c) (.well .stopping) (.well .off) none]).hand (wellMoves c .stopping .off) := by
  refine (if_pos ⟨h, hd⟩).trans ?_
  rw [wellChanged_moves _ _ (by decide) rfl]
  rfl

theorem endStop_stands (h : ¬((s.wcc.get c).state = .stopping ∧ (s.wcc.get c).demand = 0)) : s.endStop c = s := if_neg h

end Ramps

/-- Settles O34: the demand by the state, its issue, and the end of a stop. -/
theorem rampsMoveTheDemand : Obligations.RampsMoveTheDemand := by
  intro s c w hw
  subst hw
  refine ⟨fun idle => congrArg _ (if_neg (by simp [idle])), fun runs => ⟨s.ramped c, s.rampExpiry c,
    congrArg _ (if_pos runs), .rampExpiry (.refl _ _) (List.Subset.refl _), fun step goal hstep => ?_, fun h ht => ?_,
    fun x hx => ?_⟩⟩
  · subst hstep
    refine ⟨fun hg h up => ?_, fun hg h down => ?_, fun h hd => ?_, ramped_up, ramped_down⟩
    · rw [hg] at up ⊢
      rw [ramped_starting h, toward_of_lt up]
    · rw [hg] at down ⊢
      rw [ramped_starting h, toward_of_ge down]
    · rw [ramped_stopping h, toward_of_ge hd]
  · exact ht.elim (ramped_idle h) fun ht => ramped_there h ht.1 ht.2
  · have expired := congrArg (State.endStop · c) (issued_eq (s := s) (c := c) (s.ramped c))
    rw [show s.rampExpiry c = _ from expired]
    cases x with
    | true =>
      obtain ⟨stopping, zero⟩ := hx.2 rfl
      rw [endStop_ends (by rw [Bank.get_set_self]; exact stopping) (by rw [Bank.get_set_self]; exact zero),
        Bank.get_set_self, Laws.set_set]
      exact ⟨rfl, rfl, rfl⟩
    | false =>
      have stands : ¬((s.wcc.get c).state = .stopping ∧ s.ramped c = 0) := fun h => absurd (hx.1 h) nofun
      rw [endStop_stands (by rw [Bank.get_set_self]; exact stands)]
      exact ⟨by simp [runs], rfl, by simp⟩

/-! ### Status events (R86, R88, R98) -/

section Adoption

variable {s : State} {e : WellStatus}

theorem adoptedDemand_eq (s : State) (e : WellStatus) : s.adoptedDemand e = if e.flowQuality = .good then
    max (s.wellSet e.channel .minFlow) (min (s.wellSet e.channel .maxFlow) e.flow)
    else s.wellSet e.channel .minFlow := rfl

theorem adoptWell_adopted (h : (s.wcc.get e.channel).adopting = false) : s.adoptWell e = s :=
  if_neg (by simp [h])

/-- A channel that is not adopted as RUNNING: a locked-out drive that runs gets its TRIP. -/
theorem adoptWell_stands (h : (s.wcc.get e.channel).adopting = true)
    (hs : (s.wcc.get e.channel).state ≠ .off ∨ s.role e.channel = .unused ∨ e.run = false) : s.adoptWell e = { s with
      wcc := s.wcc.set e.channel { s.wcc.get e.channel with adopting := false }
      handed := s.handed ++ (if (s.wcc.get e.channel).state = .lockedOut ∧ e.run = true
          ∧ (s.entryOfWell e.channel).isSome then [.tripPlaced (.well e.channel)] else []) } := by
  have refused : ¬((s.wcc.get e.channel).state = .off ∧ s.role e.channel ≠ .unused ∧ e.run = true) := by
    rintro ⟨off, used, run⟩
    simp [off, used, run] at hs
  refine (if_pos h).trans ((if_neg refused).trans ?_)
  by_cases locked : (s.wcc.get e.channel).state = .lockedOut ∧ e.run = true
  · refine (if_pos locked).trans ?_
    simp only [locked, true_and]
    rfl
  · have skipped : ¬((s.wcc.get e.channel).state = .lockedOut ∧ e.run = true ∧ (s.entryOfWell e.channel).isSome) :=
      fun h => locked ⟨h.1, h.2.1⟩
    rw [if_neg locked, if_neg skipped, List.append_nil]
    rfl

/-- A running drive is adopted as RUNNING, at the demand of its reply. -/
theorem adoptWell_running (h : (s.wcc.get e.channel).adopting = true) (off : (s.wcc.get e.channel).state = .off)
    (used : s.role e.channel ≠ .unused) (run : e.run = true) : s.adoptWell e = ({ s with
      wcc := s.wcc.set e.channel { s.wcc.get e.channel with
        adopting := false, state := .running, ramp := true, demand := s.adoptedDemand e
        ocRun := 0, flashRun := 0, dryRun := 0 } }.notify
      [.state (.well e.channel) (.well .off) (.well .running) none]).hand
      ((if (s.entryOfWell e.channel).isSome then [Instr.setPlaced (.well e.channel (s.adoptedDemand e))] else [])
        ++ [Instr.bbuWellDemand e.channel, .tbcWellDemand e.channel] ++ wellMoves e.channel .off .running) := by
  refine (if_pos h).trans ((if_pos ⟨off, used, run⟩).trans ?_)
  dsimp only [State.adoptRunning]
  have got : ((s.setWell e.channel { s.wcc.get e.channel with adopting := false }).wcc.get e.channel)
      = { s.wcc.get e.channel with adopting := false } := Bank.get_set_self _ _ _
  rw [got, off, wellChanged_moves _ _ (by decide) rfl, Laws.issueDemand_eq]
  simp only [State.setWell, Bank.get_set_self, Laws.set_set]
  simp only [State.hand, State.notify, List.append_assoc]
  rfl

end Adoption

/-- Settles O35: the bits stored, the adoption on them, and the decision of R88 on what the adoption left. -/
theorem statusEventAdoptsAndDecides : Obligations.StatusEventAdoptsAndDecides := by
  intro s e c w hc hw
  subst hc hw
  obtain ⟨z, hz⟩ : ∃ z, z = (s.took (.wccStatusEvent e)).setWell e.channel
    { s.wcc.get e.channel with run := some e.run, fault := some e.fault } := ⟨_, rfl⟩
  have got : z.wcc.get e.channel = { s.wcc.get e.channel with run := some e.run, fault := some e.fault } := by
    rw [hz]
    exact Bank.get_set_self _ _ _
  obtain ⟨ld, decides, handed⟩ := Laws.decideReply_decides (z.adoptWell e) e.channel
  have exec_eq : exec (.wccStatusEvent e) s = .next ((z.adoptWell e).decideReply e.channel) := by
    rw [hz]
    rfl
  have frame : Frame [.wcc, .svp, .handed] s (z.adoptWell e) := by
    rw [hz]
    exact .adoptWell (.setWell (.took (.refl _ _) (by decide)) (by decide)) (by decide)
  suffices ∃ la, (z.adoptWell e).handed = s.handed.erase (.wccStatusEvent e) ++ la ∧ _ from
    this.elim fun la h => ⟨_, _, la, ld, exec_eq, .of_exec exec_eq, frame, h.1, handed, decides, h.2⟩
  by_cases adopting : (s.wcc.get e.channel).adopting = true
  · have adopting' : (z.wcc.get e.channel).adopting = true := by rw [got]; exact adopting
    by_cases runs : (s.wcc.get e.channel).state = .off ∧ s.role e.channel ≠ .unused ∧ e.run = true
    · obtain ⟨off, used, run⟩ := runs
      have adopted := adoptWell_running adopting' (by rw [got]; exact off) (by rw [hz]; exact used) run
      rw [adopted, got]
      subst hz
      refine ⟨_, rfl, fun h => absurd (h.symm.trans adopting) nofun, fun _ => ⟨fun h => ?_, fun _ _ _ => ⟨_,
        adoptedDemand_eq s e, ?_, rfl, rfl⟩⟩⟩
      · simp [off, used, run] at h
      · simp only [State.setWell, State.hand, State.notify, Laws.set_set, run]
        rfl
    · have stands : (s.wcc.get e.channel).state ≠ .off ∨ s.role e.channel = .unused ∨ e.run = false := by
        by_contra h
        simp only [not_or, Bool.not_eq_false, not_not] at h
        exact runs h
      have left := adoptWell_stands adopting' (by rw [got, hz]; exact stands)
      rw [left, got]
      subst hz
      refine ⟨_, rfl, fun h => absurd (h.symm.trans adopting) nofun, fun _ => ⟨fun _ => ⟨rfl, Laws.set_set .., rfl⟩,
        fun off used run => absurd ⟨off, used, run⟩ runs⟩⟩
  · have adopted := adoptWell_adopted (s := z) (e := e) (by rw [got]; exact Bool.eq_false_iff.2 adopting)
    rw [adopted, hz]
    exact ⟨[], (List.append_nil _).symm, fun _ => ⟨rfl, rfl, rfl⟩, fun h => absurd h adopting⟩

end Sys2Proof.Proofs

/-! PROOFS. The channels at an update, and what SCM and BBU hand them (R76, R81, R87, R91, R133). -/

namespace Sys2Proof.Proofs

open Sys2Proof.Machine

/-! ### One channel at an update (R81, R87) -/

/-- The overcurrent run of a channel at an update. -/
def OcStep (u : Update) (s : State) (c : WellNo) (w : Well) (oc : Nat) : Prop :=
  (u.newValue (qCurrent c) = none ∨ w.state ≠ .starting ∧ w.state ≠ .running → oc = w.ocRun)
  ∧ (∀ v, u.newValue (qCurrent c) = some v → w.state = .starting ∨ w.state = .running →
    oc = if s.wellLim c 0 < v then min (w.ocRun + 1) 15 else 0)

/-- The dry run of a channel at an update. -/
def DryStep (u : Update) (s : State) (c : WellNo) (w : Well) (dry : Nat) : Prop :=
  (w.state ≠ .running ∨ s.role c ≠ .production
      ∨ u.listsValue (qFlow c) = false ∧ u.listsValue (qCurrent c) = false
      ∨ u.valid s (qFlow c) = none ∨ u.valid s (qCurrent c) = none → dry = w.dryRun)
  ∧ (∀ f i, w.state = .running → s.role c = .production →
    u.listsValue (qFlow c) = true ∨ u.listsValue (qCurrent c) = true →
    u.valid s (qFlow c) = some f → u.valid s (qCurrent c) = some i →
    dry = if f < s.wellLim c 2 ∧ i < s.wellSet c .dryCurrent then min (w.dryRun + 1) 15 else 0)

theorem setWell_same (s : State) (c : WellNo) : s.setWell c (s.wcc.get c) = s := by
  simp [State.setWell, Bank.set_get_self]

theorem countRun_eq (p : Prop) [Decidable p] (n : Nat) :
    countRun (decide p) n = if p then min (n + 1) 15 else 0 := by
  by_cases h : p <;> simp [countRun, run15, h]

theorem overcurrentUpdate_steps (u : Update) (s : State) (c : WellNo) : ∃ oc,
    overcurrentUpdate u s c = s.setWell c { s.wcc.get c with ocRun := oc } ∧ OcStep u s c (s.wcc.get c) oc := by
  have same : s.setWell c { s.wcc.get c with ocRun := (s.wcc.get c).ocRun } = s := setWell_same s c
  cases hv : u.newValue (qCurrent c) with
  | none => exact ⟨(s.wcc.get c).ocRun, by rw [overcurrentUpdate, hv, same], fun _ => rfl, by rw [hv]; nofun⟩
  | some v =>
    by_cases counts : (s.wcc.get c).state = .starting ∨ (s.wcc.get c).state = .running
    · refine ⟨countRun (decide (s.wellLim c 0 < v)) (s.wcc.get c).ocRun, ?_, fun h => ?_, fun v' hv' _ => ?_⟩
      · rw [overcurrentUpdate, hv]
        exact if_pos (decide_eq_true counts)
      · have h := h.resolve_left (by simp [hv])
        exact (counts.elim h.1 h.2).elim
      · obtain rfl : v = v' := Option.some.inj (hv.symm.trans hv')
        exact countRun_eq _ _
    · refine ⟨(s.wcc.get c).ocRun, ?_, fun _ => rfl, fun _ _ h => absurd h counts⟩
      rw [overcurrentUpdate, hv, same]
      exact if_neg fun h => counts (of_decide_eq_true h)

theorem dryUpdate_steps (u : Update) (s : State) (c : WellNo) : ∃ dry,
    dryUpdate u s c = s.setWell c { s.wcc.get c with dryRun := dry } ∧ DryStep u s c (s.wcc.get c) dry := by
  have same : s.setWell c { s.wcc.get c with dryRun := (s.wcc.get c).dryRun } = s := setWell_same s c
  by_cases due : ((u.listsValue (qFlow c) = true ∨ u.listsValue (qCurrent c) = true) ∧ (s.wcc.get c).state = .running
      ∧ s.role c = .production) ∧ u.valid s (qFlow c) ≠ none ∧ u.valid s (qCurrent c) ≠ none
  · obtain ⟨⟨lists, running, production⟩, hf, hi⟩ := due
    obtain ⟨f, hf⟩ := Option.ne_none_iff_exists'.1 hf
    obtain ⟨i, hi⟩ := Option.ne_none_iff_exists'.1 hi
    refine ⟨countRun (decide (f < s.wellLim c 2 ∧ i < s.wellSet c .dryCurrent)) (s.wcc.get c).dryRun,
      by simp [dryUpdate, lists, running, production, hf, hi], fun h => ?_, fun f' i' _ _ _ hf' hi' => ?_⟩
    · rcases lists with l | l <;> simp [l, running, production, hf, hi] at h
    · obtain rfl : f = f' := Option.some.inj (hf.symm.trans hf')
      obtain rfl : i = i' := Option.some.inj (hi.symm.trans hi')
      exact countRun_eq _ _
  · refine ⟨(s.wcc.get c).dryRun, ?_, fun _ => rfl, fun f i running production lists hf hi =>
      absurd ⟨⟨lists, running, production⟩, by simp [hf], by simp [hi]⟩ due⟩
    rw [same]
    dsimp only [dryUpdate]
    split
    next on =>
      split
      next f i hf hi =>
        simp only [Bool.and_eq_true, Bool.or_eq_true, decide_eq_true_eq] at on
        exact absurd ⟨⟨on.1.1, on.1.2, on.2⟩, by simp [hf], by simp [hi]⟩ due
      next => rfl
    next => rfl

/-- The start threshold met at an update. -/
def startsNow (u : Update) (s : State) (c : WellNo) : Bool := decide ((s.wcc.get c).state = .starting)
  && (match u.newValue (qFlow c) with | some v => decide (s.wellSet c .startThreshold ≤ v) | none => false)

/-- A channel at an update: its record `w`, the record `w'` after it, and whether it completes its start. -/
def ChannelStep (u : Update) (s : State) (c : WellNo) (started : Bool) (w w' : Well) : Prop :=
  w' = { w with state := w'.state, startLeft := w'.startLeft, ocRun := w'.ocRun, dryRun := w'.dryRun }
  ∧ (started = true → w'.state = .running ∧ w'.startLeft = none ∧ w'.dryRun = 0)
  ∧ (started = false → w'.state = w.state ∧ w'.startLeft = w.startLeft)
  ∧ OcStep u s c w w'.ocRun
  ∧ (started = false → DryStep u s c w w'.dryRun)

/-- The notice and the events of a start completed. -/
def startedTo (s : State) (c : WellNo) (started : Bool) (w : Well) : State :=
  if started then (({ s with wcc := s.wcc.set c w }.notify [.state (.well c) (.well .starting) (.well .running) none]).hand
    (wellMoves c .starting .running))
  else { s with wcc := s.wcc.set c w }

theorem startUpdate_starts {u : Update} {s : State} {c : WellNo} (h : startsNow u s c = true) : startUpdate u s c
    = startedTo s c true { s.wcc.get c with state := .running, startLeft := none, dryRun := 0 } := by
  obtain ⟨starting, met⟩ := Bool.and_eq_true_iff.1 h
  cases hv : u.newValue (qFlow c) with
  | none =>
    rw [hv] at met
    exact absurd met nofun
  | some v =>
    rw [hv] at met
    rw [startUpdate, hv]
    refine (if_pos ⟨of_decide_eq_true starting, of_decide_eq_true met⟩).trans ?_
    rw [wellChanged_moves _ _ (by decide) rfl]
    rfl

theorem startUpdate_stands {u : Update} {s : State} {c : WellNo} (h : startsNow u s c = false) :
    startUpdate u s c = s := by
  dsimp only [startUpdate]
  split
  next v hv =>
    refine if_neg fun on => ?_
    simp [startsNow, hv, on.1, on.2] at h
  next => rfl

theorem wccWellUpdate_steps (u : Update) (s : State) (c : WellNo) : ∃ w,
    wccWellUpdate u s c = startedTo s c (startsNow u s c) w
    ∧ ChannelStep u s c (startsNow u s c) (s.wcc.get c) w := by
  obtain ⟨oc, overcurrent, hoc⟩ := overcurrentUpdate_steps u s c
  obtain ⟨dry, dried, hdry⟩ := dryUpdate_steps u (s.setWell c { s.wcc.get c with ocRun := oc }) c
  have got : (s.setWell c { s.wcc.get c with ocRun := oc }).wcc.get c = { s.wcc.get c with ocRun := oc } :=
    Bank.get_set_self _ _ _
  rw [got] at dried hdry
  have counted : dryUpdate u (overcurrentUpdate u s c) c = s.setWell c { s.wcc.get c with ocRun := oc, dryRun := dry } := by
    rw [overcurrent, dried]
    simp only [State.setWell, Laws.set_set]
  have got' : (s.setWell c { s.wcc.get c with ocRun := oc, dryRun := dry }).wcc.get c
      = { s.wcc.get c with ocRun := oc, dryRun := dry } := Bank.get_set_self _ _ _
  have same : startsNow u (s.setWell c { s.wcc.get c with ocRun := oc, dryRun := dry }) c = startsNow u s c := by
    unfold startsNow
    rw [got']
    rfl
  cases started : startsNow u s c with
  | true =>
    rw [wccWellUpdate, counted, startUpdate_starts (same.trans started), got']
    refine ⟨{ s.wcc.get c with ocRun := oc, dryRun := 0, state := .running, startLeft := none }, ?_, rfl,
      fun _ => ⟨rfl, rfl, rfl⟩, nofun, hoc, nofun⟩
    simp only [startedTo, State.setWell, Laws.set_set]
  | false =>
    rw [wccWellUpdate, counted, startUpdate_stands (same.trans started)]
    exact ⟨{ s.wcc.get c with ocRun := oc, dryRun := dry }, rfl, rfl, nofun, fun _ => ⟨rfl, rfl⟩, hoc, fun _ => hdry⟩

/-! ### The channels one after another -/

theorem startedTo_wcc (s : State) (c : WellNo) (started : Bool) (w : Well) :
    (startedTo s c started w).wcc = s.wcc.set c w := by
  cases started <;> rfl

theorem startedTo_eq (s : State) (c : WellNo) (started : Bool) (w : Well) : startedTo s c started w = { s with
    wcc := s.wcc.set c w
    svp := (s.notify (if started then [.state (.well c) (.well .starting) (.well .running) none] else [])).svp
    handed := s.handed ++ (if started then wellMoves c .starting .running else []) } := by
  cases started with
  | true => rfl
  | false => rw [startedTo]; simp

theorem startsNow_of {u : Update} {s t : State} {c : WellNo} (hw : t.wcc.get c = s.wcc.get c) (hl : t.ssl = s.ssl) :
    startsNow u t c = startsNow u s c := by
  have set : t.wellSet c .startThreshold = s.wellSet c .startThreshold := by simp only [State.wellSet, State.item, hl]
  unfold startsNow
  rw [hw, set]

/-- Each channel by its own step: the starts among them notify and hand in the channels' order. -/
theorem wccUpdates_step (u : Update) (l : List WellNo) (hl : l.Nodup) : ∀ s : State, ∃ b : Bank Well 16,
    l.foldl (wccWellUpdate u) s = { s with
      wcc := b
      svp := (s.notify ((l.filter (startsNow u s)).map fun c =>
        .state (.well c) (.well .starting) (.well .running) none)).svp
      handed := s.handed ++ (l.filter (startsNow u s)).flatMap fun c => wellMoves c .starting .running }
    ∧ (∀ c ∈ l, ChannelStep u s c (startsNow u s c) (s.wcc.get c) (b.get c))
    ∧ ∀ c, c ∉ l → b.get c = s.wcc.get c := by
  induction l with
  | nil => exact fun s => ⟨s.wcc, by simp, by simp, fun _ _ => rfl⟩
  | cons c l ih =>
    intro s
    obtain ⟨hc, hl⟩ := List.nodup_cons.1 hl
    obtain ⟨w, one, step⟩ := wccWellUpdate_steps u s c
    obtain ⟨b, rest, steps, others⟩ := ih hl (startedTo s c (startsNow u s c) w)
    rw [startedTo_eq] at rest steps others
    have stands : ∀ d, d ≠ c → (s.wcc.set c w).get d = s.wcc.get d := fun d hd => Bank.get_set_ne _ _ hd.symm
    have same : ∀ d, d ≠ c → startsNow u (startedTo s c (startsNow u s c) w) d = startsNow u s d := fun d hd =>
      startsNow_of (by rw [startedTo_wcc]; exact stands d hd) (by rw [startedTo_eq])
    have starts : l.filter (startsNow u (startedTo s c (startsNow u s c) w)) = l.filter (startsNow u s) :=
      List.filter_congr fun d hd => same d fun h => hc (h ▸ hd)
    rw [startedTo_eq] at starts same
    rw [starts] at rest
    refine ⟨b, ?_, fun d hd => ?_, fun d hd => ?_⟩
    · rw [List.foldl_cons, one, startedTo_eq, rest]
      cases now : startsNow u s c with
      | true =>
        rw [List.filter_cons_of_pos now, List.map_cons, List.flatMap_cons, ← List.append_assoc]
        rfl
      | false =>
        rw [List.filter_cons_of_neg (by simp [now])]
        simp only [Bool.false_eq_true, ↓reduceIte, List.append_nil]
        rfl
    · by_cases here : d = c
      · subst here
        rw [others d hc, Bank.get_set_self]
        exact step
      · have later := steps d ((List.mem_cons.1 hd).resolve_left here)
        rw [same d here, show Bank.get _ d = _ from stands d here] at later
        exact later
    · obtain ⟨here, hdl⟩ := not_or.1 (mt List.mem_cons.2 hd)
      exact (others d hdl).trans (stands d here)

theorem wccUpdate_steps (u : Update) (s : State) : ∃ (t : State) (starts : List WellNo),
    exec (.wccUpdate u) s = .next t ∧ Frame [.wcc, .svp, .handed] s t ∧ starts = wells.filter (startsNow u s)
    ∧ t.svp = (s.notify (starts.map fun c => .state (.well c) (.well .starting) (.well .running) none)).svp
    ∧ t.handed = s.handed.erase (.wccUpdate u) ++ starts.flatMap (fun c => wellMoves c .starting .running)
    ∧ ∀ c, ChannelStep u s c (startsNow u s c) (s.wcc.get c) (t.wcc.get c) := by
  obtain ⟨b, updated, steps, -⟩ := wccUpdates_step u wells (List.nodup_finRange 16) (s.took (.wccUpdate u))
  have exec_eq : exec (.wccUpdate u) s = .next (wells.foldl (wccWellUpdate u) (s.took (.wccUpdate u))) := rfl
  rw [updated] at exec_eq
  exact ⟨_, _, exec_eq, .of_exec exec_eq, rfl, rfl, rfl, fun c => steps c (List.mem_finRange c)⟩

/-- A start completed sets the dry run to 0, so the channel's dry run is counted only where none is. -/
theorem ChannelStep.dry {u : Update} {s : State} {c : WellNo} {w w' : Well} (hw : w = s.wcc.get c)
    (h : ChannelStep u s c (startsNow u s c) w w') (running : w.state = .running) : DryStep u s c w w'.dryRun := by
  obtain ⟨-, -, -, -, dry⟩ := h
  refine dry (Bool.eq_false_iff.2 fun now => ?_)
  have starting := of_decide_eq_true (Bool.and_eq_true_iff.1 now).1
  rw [← hw, running] at starting
  exact nomatch starting

/-- What is handed to a channel is stored; a margin counts the flash run in STARTING and RUNNING (R87, R133). -/
theorem takeMargin_counts {s : State} {c : WellNo} (m : Int)
    (h : ((s.wcc.get c).state = .starting ∨ (s.wcc.get c).state = .running) ∧ s.role c = .production) :
    s.takeMargin c (some m) = s.setWell c { s.wcc.get c with
      margin := some m
      flashRun := if m < s.wellLim c 1 then min ((s.wcc.get c).flashRun + 1) 15 else 0 } := by
  have counts : countsRuns (s.wcc.get c).state = true ∧ s.role c = .production := ⟨decide_eq_true h.1, h.2⟩
  simp only [State.takeMargin, if_pos counts, countRun_eq]

theorem takeMargin_stands {s : State} {c : WellNo} (m : Int)
    (h : (s.wcc.get c).state ≠ .starting ∧ (s.wcc.get c).state ≠ .running ∨ s.role c ≠ .production) :
    s.takeMargin c (some m) = s.setWell c { s.wcc.get c with margin := some m } := by
  have idle : ¬(countsRuns (s.wcc.get c).state = true ∧ s.role c = .production) := fun e =>
    h.elim (fun h => (of_decide_eq_true e.1).elim h.1 h.2) fun h => h e.2
  simp only [State.takeMargin, if_neg idle]

/-- Settles O36: the channels one after another, and each value handed into its channel's record. -/
theorem wellTakesUpdatesAndHandedValues : Obligations.WellTakesUpdatesAndHandedValues := by
  refine ⟨fun u s => ?_, fun s c w hw => ?_⟩
  · obtain ⟨t, starts, exec_eq, frame, hstarts, svp, handed, steps⟩ := wccUpdate_steps u s
    refine ⟨t, starts, exec_eq, frame, hstarts, svp, handed, fun c w w' hw hw' => ?_⟩
    have mem : c ∈ starts ↔ startsNow u s c = true := by
      rw [hstarts, List.mem_filter]
      exact ⟨fun h => h.2, fun h => ⟨List.mem_finRange c, h⟩⟩
    have step := steps c
    rw [← hw, ← hw'] at step
    have whole := step
    obtain ⟨rest, started, stood, ⟨ocKept, ocCounts⟩, dry⟩ := step
    refine ⟨rest, fun h => started (mem.1 h), fun h => stood (Bool.eq_false_iff.2 (mt mem.2 h)), ocKept, ocCounts,
      fun h => (dry (Bool.eq_false_iff.2 (mt mem.2 h))).1, fun f i running => (whole.dry hw running).2 f i running⟩
  · subst hw
    refine ⟨fun _ => rfl, fun _ => rfl, rfl, fun m h => congrArg _ (takeMargin_counts (s := s.took _) m h),
      fun m h => congrArg _ (takeMargin_stands (s := s.took _) m h), _, rfl, .with_wcc (.refl _ _) (by decide), Bank.get_mapIdx ..⟩

end Sys2Proof.Proofs

/-! PROOFS. The turbine's commands, its trips, its stages and its breaker (R102 to R108, R112 to R117). -/

namespace Sys2Proof.Proofs

open Sys2Proof.Machine

/-! ### A row that acts on a condition -/

theorem exec_then {i : Instr} {s a b : State} {p : Prop} [Decidable p]
    (he : exec i s = .next (if p then a else b)) (h : p) : exec i s = .next a := by
  rw [he, if_pos h]

theorem exec_else {i : Instr} {s a b : State} {p : Prop} [Decidable p]
    (he : exec i s = .next (if p then a else b)) (h : ¬p) : exec i s = .next b := by
  rw [he, if_neg h]

theorem exec_as {i : Instr} {s a b : State} (he : exec i s = .next a) (h : a = b) : exec i s = .next b := h ▸ he

/-! ### The turbine's records and their orders -/

theorem order_eq (r : Tbc) : r.order = ⟨if r.state = .runup then .speed else if r.state = .syncWait then .sync
    else .valve, r.speed, r.load, if r.state = .runup ∨ r.state = .syncWait then 0 else r.admission,
    r.breakerOpen⟩ := by
  unfold Tbc.order controlOf
  cases r.state <;> rfl

theorem turbRuns_iff {st : TurbState} : turbRuns st = true ↔ st = .warming ∨ st = .runup ∨ st = .syncWait
    ∨ st = .loaded ∨ st = .unloading := by cases st <;> decide

theorem warmingRecord_eq (s : State) : s.warmingRecord = { s.turbineInto .warming with
    stageLeft := some (s.turbSet .warmTime * 60).toNat, settle := 0, admission := s.turbSet .warmPos } := by
  rw [State.warmingRecord, Laws.enter_eq _ _ rfl]
  rfl

theorem offlineRecord_eq (s : State) : s.offlineRecord = { s.turbineInto .offline with
    stageLeft := none, settle := 0, load := 0, speed := 0, admission := 0, breakerOpen := false } := by
  rw [State.offlineRecord, Laws.enter_eq _ _ rfl]

theorem resetRecord_eq (s : State) : s.resetRecord = { s.turbineInto .offline with
    tripOut := false, breakerOpen := false, load := 0, speed := 0, admission := 0 } := by
  rw [State.resetRecord, Laws.enter_eq _ _ rfl]

/-- The admission demand reported: ADM_POS while it is VALID. -/
def ReportsAdmission (s : State) (admission : Int) : Prop :=
  ((s.qtb.get qAdmPos).state = .valid → admission = s.reported qAdmPos)
  ∧ ((s.qtb.get qAdmPos).state ≠ .valid → admission = s.tbc.admission)

theorem validNow_eq (s : State) (q : QtyNo) :
    s.validNow q = if (s.qtb.get q).state = .valid then some (s.reported q) else none := rfl

theorem reportedAdmission_reports (s : State) : ReportsAdmission s s.reportedAdmission := by
  unfold State.reportedAdmission
  rw [validNow_eq]
  exact ⟨fun h => by rw [if_pos h]; rfl, fun h => by rw [if_neg h]; rfl⟩

theorem ReportsAdmission.unique {s : State} {a : Int} (h : ReportsAdmission s a) : s.reportedAdmission = a := by
  by_cases hv : (s.qtb.get qAdmPos).state = .valid
  · exact ((reportedAdmission_reports s).1 hv).trans (h.1 hv).symm
  · exact ((reportedAdmission_reports s).2 hv).trans (h.2 hv).symm

theorem runupRecord_eq (s : State) : s.runupRecord = { s.turbineInto .runup with
    stageLeft := some (s.turbSet .runupTimeout).toNat, settle := 0, admission := s.reportedAdmission
    speed := if (s.qtb.get qTurbSpeed).state = .valid then s.reported qTurbSpeed else 0 } := by
  have speed : (s.validNow qTurbSpeed).getD 0
      = if (s.qtb.get qTurbSpeed).state = .valid then s.reported qTurbSpeed else 0 := by
    rw [validNow_eq]
    split <;> rfl
  rw [State.runupRecord, Laws.enter_eq _ _ rfl, speed]
  rfl

theorem syncRecord_eq (s : State) : s.syncRecord = { s.turbineInto .syncWait with
    stageLeft := some (s.turbSet .syncTimeout).toNat, speed := s.turbSet .ratedSpeed, load := 0
    admission := s.reportedAdmission } := by
  rw [State.syncRecord, Laws.enter_eq _ _ rfl]
  rfl

theorem enterSync_takes (s : State) : TurbineTakes true s.shortfallClear s { s.turbineInto .syncWait with
    stageLeft := some (s.turbSet .syncTimeout).toNat, speed := s.turbSet .ratedSpeed, load := 0
    admission := s.reportedAdmission } s.enterSync := by
  have takes := Laws.commit_takes s true s.shortfallEnd s.syncRecord (.inl (by rw [syncRecord_eq]; nofun))
  rw [syncRecord_eq] at takes
  rw [State.enterSync, syncRecord_eq]
  exact takes

theorem toOffline_takes (s : State) : TurbineTakes true s.shortfallClear s { s.turbineInto .offline with
    stageLeft := none, settle := 0, load := 0, speed := 0, admission := 0, breakerOpen := false }
    (s.commit true [] s.shortfallEnd none s.offlineRecord) := by
  rw [offlineRecord_eq]
  exact Laws.commit_takes s true s.shortfallEnd _ (.inl (by nofun))

/-! ### The commands (R104, R107, R108) -/

section Commands

variable {s : State}

theorem turbStationReady_iff : s.turbStationReady = true ↔
    ∃ e, s.entryOfKind .turbine = some e ∧ (s.flc.stations.get e).status ≠ .lost := by
  unfold State.turbStationReady
  cases s.entryOfKind .turbine with
  | none => simp
  | some e => exact decide_eq_true_iff.trans ⟨fun h => ⟨e, rfl, h⟩, fun ⟨_, he, h⟩ => Option.some.inj he ▸ h⟩

theorem turbStart_stored (h : s.claimant .turbine = none) (fault : s.ssl.storeFault = true) :
    State.turbStart .host s = s.says .refusedStore := by
  rw [State.turbStart, unclaimed_of_none h]
  exact if_pos fault

theorem turbStart_refused (h : s.claimant .turbine = none) (fault : s.ssl.storeFault = false)
    (hs : s.tbc.state ≠ .offline ∨ s.tbc.tripIn = true ∨ s.entryOfKind .turbine = none
      ∨ (∃ e, s.entryOfKind .turbine = some e ∧ (s.flc.stations.get e).status = .lost)) :
    State.turbStart .host s = s.says .refusedState := by
  rw [State.turbStart, unclaimed_of_none h]
  refine (if_neg (by simp [fault])).trans (if_neg ?_)
  rintro ⟨offline, clear, ready⟩
  obtain ⟨e, he, hl⟩ := turbStationReady_iff.1 ready
  rcases hs with h | h | h | ⟨e', he', hl'⟩
  · exact h offline
  · simp [h] at clear
  · simp [h] at he
  · obtain rfl : e = e' := Option.some.inj (he.symm.trans he')
    exact hl hl'

theorem turbStart_taken (h : s.claimant .turbine = none) (fault : s.ssl.storeFault = false)
    (offline : s.tbc.state = .offline) (clear : s.tbc.tripIn = false) {e : EntryNo}
    (he : s.entryOfKind .turbine = some e) (hl : (s.flc.stations.get e).status ≠ .lost) :
    State.turbStart .host s
      = (s.commit true [] [.counterIncrement [.turbStarts]] none s.warmingRecord, .ok, .none) := by
  rw [State.turbStart, unclaimed_of_none h]
  exact (if_neg (by simp [fault])).trans (if_pos ⟨offline, clear, turbStationReady_iff.2 ⟨e, he, hl⟩⟩)

theorem turbLoad_taken (h : s.claimant .turbine = none) (v : Int) : State.turbLoad .host v s
    = (s.commit false [] [] none { s.tbc with loadDemand := max 0 (min (s.turbSet .ratedLoad) v) },
      if max 0 (min (s.turbSet .ratedLoad) v) = v then .ok else .clamped, .none) := by
  have status (d : Int) : clampStatus v d = if d = v then .ok else .clamped := by
    unfold clampStatus
    congr 1
    exact propext eq_comm
  rw [State.turbLoad, unclaimed_of_none h]
  dsimp only
  rw [status]
  rfl

theorem turbStop_refused (h : s.tbc.state = .offline ∨ s.tbc.state = .tripped) :
    State.turbStop .host s = s.says .refusedState := by
  unfold State.turbStop
  rcases h with h | h <;> rw [h]

theorem turbStop_offline (caller : Caller) (h : s.tbc.state = .warming ∨ s.tbc.state = .runup ∨ s.tbc.state = .syncWait) :
    State.turbStop caller s = (s.commit true [] s.shortfallEnd none s.offlineRecord).turbStopped caller := by
  unfold State.turbStop
  rcases h with h | h | h <;> rw [h]

theorem turbStop_loaded (caller : Caller) (h : s.tbc.state = .loaded) : State.turbStop caller s
    = (s.commit (decide (0 < s.tbc.hold)) [] [] none
      { s.tbc with state := .unloading, inletRun := 0, mismatch := none, hold := 0 }).turbStopped caller := by
  unfold State.turbStop
  rw [h]
  rfl

theorem turbStop_unloading (caller : Caller) (h : s.tbc.state = .unloading) :
    State.turbStop caller s = s.turbStopped caller := by
  unfold State.turbStop
  rw [h]

/-- A STOP of a turbine that runs: what becomes of the record, and the STOP handed with its origin. -/
theorem turbStop_taken (caller : Caller) (on : s.tbc.state ≠ .offline) (on' : s.tbc.state ≠ .tripped) :
    ∃ m, State.turbStop caller s = m.turbStopped caller
      ∧ (s.tbc.state = .warming ∨ s.tbc.state = .runup ∨ s.tbc.state = .syncWait →
        TurbineTakes true s.shortfallClear s { s.turbineInto .offline with
          stageLeft := none, settle := 0, load := 0, speed := 0, admission := 0, breakerOpen := false } m)
      ∧ (s.tbc.state = .loaded → TurbineTakes (decide (0 < s.tbc.hold)) [] s
        { s.tbc with state := .unloading, inletRun := 0, mismatch := none, hold := 0 } m)
      ∧ (s.tbc.state = .unloading → m = s) := by
  have runs : s.tbc.state = .warming ∨ s.tbc.state = .runup ∨ s.tbc.state = .syncWait ∨ s.tbc.state = .loaded
      ∨ s.tbc.state = .unloading := turbRuns_iff.1 (decide_eq_true ⟨on, on'⟩)
  by_cases loaded : s.tbc.state = .loaded
  · exact ⟨_, turbStop_loaded caller loaded, by simp [loaded], fun _ => Laws.commit_takes _ _ _ _ (.inl (by nofun)),
      by simp [loaded]⟩
  by_cases unloading : s.tbc.state = .unloading
  · exact ⟨s, turbStop_unloading caller unloading, by simp [unloading], fun h => absurd h loaded, fun _ => rfl⟩
  have starting : s.tbc.state = .warming ∨ s.tbc.state = .runup ∨ s.tbc.state = .syncWait := by
    simpa [loaded, unloading] using runs
  exact ⟨_, turbStop_offline caller starting, fun _ => toOffline_takes s, fun h => absurd h loaded,
    fun h => absurd h unloading⟩

end Commands

/-- Settles O37: each command by its claim, its checks and its record. -/
theorem turbineCommands : Obligations.TurbineCommands := by
  intro s idle
  refine ⟨order_eq, exec_of_serve idle rfl rfl, fun claimed => ⟨?_, fun v => ?_⟩, fun free => ⟨fun fault => ?_,
    fun fault hs => ?_, fun e fault offline clear he hl => ?_, fun v => ?_⟩, fun h => ?_, fun on on' => ?_⟩
  · exact onlyAnswers_of_serve idle rfl (unclaimed_of_some (s := s.deselect) claimed _)
  · exact onlyAnswers_of_serve idle rfl (unclaimed_of_some (s := s.deselect) claimed _)
  · exact onlyAnswers_of_serve idle rfl (turbStart_stored (s := s.deselect) free fault)
  · exact onlyAnswers_of_serve idle rfl (turbStart_refused (s := s.deselect) free fault hs)
  · refine ⟨_, exec_of_serve idle rfl (turbStart_taken (s := s.deselect) free fault offline clear he hl), ?_⟩
    rw [warmingRecord_eq]
    exact Laws.commit_takes _ _ _ _ (.inl (by nofun))
  · exact ⟨_, _, rfl, exec_of_serve idle rfl (turbLoad_taken (s := s.deselect) free v),
      Laws.commit_takes _ _ _ _ (.inr rfl)⟩
  · exact onlyAnswers_of_serve idle rfl (turbStop_refused (s := s.deselect) h)
  · obtain ⟨m, stops, starting, loaded, unloading⟩ := turbStop_taken (s := s.deselect) .host on on'
    exact ⟨m, exec_of_serve idle rfl stops, starting, loaded, unloading⟩

/-! ### Trips and the reset (R112 to R115) -/

section Reset

variable {s : State}

theorem slowEnough_iff {speed : QState × Int} (h : TakerMeets tbcUpdateOf s qTurbSpeed speed) :
    s.slowEnough = true ↔ speed.1 = .valid ∧ speed.2 < s.turbSet .resetSpeed := by
  unfold State.slowEnough State.validFor
  rw [Laws.meets_metBy h]
  by_cases hv : speed.1 = .valid <;> simp [hv]

theorem turbOnline_iff : s.turbOnline = true ↔
    ∃ e, s.entryOfKind .turbine = some e ∧ (s.flc.stations.get e).status = .online := by
  unfold State.turbOnline
  cases s.entryOfKind .turbine with
  | none => simp
  | some e => exact decide_eq_true_iff.trans ⟨fun h => ⟨e, rfl, h⟩, fun ⟨_, he, h⟩ => Option.some.inj he ▸ h⟩

theorem turbReset_claimed (h : (s.claimant .turbine).isSome = true) :
    s.operateTurbReset = (s, .refusedClaimed) := if_pos h

theorem turbReset_refused {speed : QState × Int} (met : TakerMeets tbcUpdateOf s qTurbSpeed speed)
    (h : s.claimant .turbine = none) (hs : s.tbc.state ≠ .tripped ∨ s.tbc.tripIn = true
      ∨ speed.1 ≠ .valid ∨ s.turbSet .resetSpeed ≤ speed.2 ∨ s.entryOfKind .turbine = none
      ∨ (∃ e, s.entryOfKind .turbine = some e ∧ (s.flc.stations.get e).status ≠ .online)) :
    s.operateTurbReset = (s, .refusedState) := by
  refine (if_neg (by simp [h])).trans (if_neg ?_)
  rintro ⟨tripped, clear, slow, online⟩
  obtain ⟨valid, below⟩ := (slowEnough_iff met).1 slow
  obtain ⟨e, he, hl⟩ := turbOnline_iff.1 online
  rcases hs with h | h | h | h | h | ⟨e', he', hl'⟩
  · exact h tripped
  · simp [h] at clear
  · exact h valid
  · omega
  · simp [h] at he
  · obtain rfl : e = e' := Option.some.inj (he.symm.trans he')
    exact hl' hl

theorem turbReset_taken {speed : QState × Int} (met : TakerMeets tbcUpdateOf s qTurbSpeed speed)
    (h : s.claimant .turbine = none) (tripped : s.tbc.state = .tripped) (clear : s.tbc.tripIn = false)
    (valid : speed.1 = .valid) (below : speed.2 < s.turbSet .resetSpeed) {e : EntryNo}
    (he : s.entryOfKind .turbine = some e) (hl : (s.flc.stations.get e).status = .online) : s.operateTurbReset
      = (s.commit true [] [.alarmClear .turbTrip .turbine] none s.resetRecord, .ok) :=
  (if_neg (by simp [h])).trans
    (if_pos ⟨tripped, clear, (slowEnough_iff met).2 ⟨valid, below⟩, turbOnline_iff.2 ⟨e, he, hl⟩⟩)

end Reset

/-- A state in which the turbine runs is not TRIPPED. -/
theorem notTripped_of_runs {s : State} (h : turbRuns s.tbc.state = true) : s.tbc.state ≠ .tripped :=
  (of_decide_eq_true h).2

/-- Settles O38: each event's trip where R112 lists the state, and the reset by its conditions. -/
theorem turbineTripsAndReset : Obligations.TurbineTripsAndReset := by
  intro s runs speed met runs_iff
  have on (h : runs) : turbRuns s.tbc.state = true := turbRuns_iff.2 (runs_iff.1 h)
  have off (h : ¬runs) : ¬turbRuns s.tbc.state = true := fun hr => h (runs_iff.2 (turbRuns_iff.1 hr))
  refine ⟨fun h => exec_then rfl h, fun clear h => ?_, fun clear h => ?_, rfl, fun h => ?_,
    fun h => exec_else rfl (off h), fun hs runs' => ⟨_, exec_then rfl ⟨hs, runs'⟩, ?_⟩,
    fun h => exec_else rfl fun on => h on.1, fun hs runs' => ⟨_, exec_then rfl ⟨hs, runs'⟩, ?_⟩,
    fun h => exec_else rfl fun on => h on.1, fun clock hs => ⟨_, exec_then rfl ⟨clock, ?_⟩, ?_⟩,
    fun h => exec_else rfl (by simp [h]), fun idle sel => ⟨fun h => ?_, fun h => ?_⟩,
    fun idle sel => ⟨fun claimed => ?_, fun free hs => ?_, fun e free tripped clear valid below he hl => ?_⟩⟩
  · exact ⟨_, exec_then (exec_else rfl (Bool.eq_false_iff.1 clear)) (on h),
      Laws.tripTurbine_trips { s with tbc := { s.tbc with tripIn := true } } _ (notTripped_of_runs (on h))⟩
  · exact exec_else (exec_else rfl (Bool.eq_false_iff.1 clear)) (off h)
  · exact ⟨_, exec_then rfl (on h), Laws.tripTurbine_trips (s.took .tbcLinkLost) _ (notTripped_of_runs (on h))⟩
  · exact Laws.tripTurbine_trips _ _ (by simp [hs])
  · exact Laws.tripTurbine_trips _ _ (by simp [hs])
  · simpa [carries] using hs
  · exact Laws.tripTurbine_trips _ _ (by rcases hs with h | h | h <;> simp [h])
  · exact ⟨_, exec_of_operate idle sel rfl rfl (if_pos (on h)),
      Laws.tripTurbine_trips s.deselect _ (notTripped_of_runs (on h))⟩
  · exact exec_of_operate idle sel rfl rfl (if_neg (off h))
  · exact exec_of_operate idle sel rfl rfl (turbReset_claimed (s := s.deselect) claimed)
  · exact exec_of_operate idle sel rfl rfl (turbReset_refused (s := s.deselect) met free hs)
  · refine ⟨_, exec_of_operate idle sel rfl rfl
      (turbReset_taken (s := s.deselect) met free tripped clear valid below he hl), ?_⟩
    rw [resetRecord_eq]
    exact Laws.commit_takes _ _ _ _ (.inl (by nofun))

end Sys2Proof.Proofs

/-! PROOFS. The turbine's stages, its breaker and its adoption (R103 to R106, R108, R116, R117). -/

namespace Sys2Proof.Proofs

open Sys2Proof.Machine

/-! ### The breaker (R106, R108) -/

section Breaker

variable {s : State}

theorem loadedRecord_takes (s : State) : TurbineTakes true [] s { s.tbc with
    state := .loaded, inletRun := 0, mismatch := none, hold := 0, stageLeft := none
    speed := s.turbSet .ratedSpeed, load := 0, admission := min (s.turbSet .admNoload) 1000 }
    (s.commit true [] [] none s.loadedRecord) := by
  have noload : s.admissionFor 0 = min (s.turbSet .admNoload) 1000 := by simp [State.admissionFor]
  have record : s.loadedRecord = { s.tbc with
      state := .loaded, inletRun := 0, mismatch := none, hold := 0, stageLeft := none
      speed := s.turbSet .ratedSpeed, load := 0, admission := min (s.turbSet .admNoload) 1000 } := by
    rw [← noload]
    rfl
  rw [record]
  exact Laws.commit_takes _ _ _ _ (.inl (by nofun))

theorem breakerActs_closes (h : s.tbc.state = .syncWait) :
    s.breakerActs true = s.commit true [] [] none s.loadedRecord := by
  unfold State.breakerActs
  rw [h]

theorem breakerActs_opensLoaded (h : s.tbc.state = .loaded) : s.breakerActs false = s.enterSync := by
  unfold State.breakerActs
  rw [h]

theorem breakerActs_opensUnloading (h : s.tbc.state = .unloading) :
    s.breakerActs false = s.commit true [] s.shortfallEnd none s.offlineRecord := by
  unfold State.breakerActs
  rw [h]

theorem breakerActs_stands {b : Bool} (h : ¬(s.tbc.state = .syncWait ∧ b = true))
    (h' : ¬((s.tbc.state = .loaded ∨ s.tbc.state = .unloading) ∧ b = false)) : s.breakerActs b = s := by
  unfold State.breakerActs
  split <;> simp_all

end Breaker

/-! ### Adoption (R116, R117) -/

section Adopting

variable {s : State} {e : TurbStatus}

theorem adoptLoaded_takes (s : State) (e : TurbStatus) : ∃ d load a, d = (if e.loadQuality = .good then
      max 0 (min (s.turbSet .ratedLoad) e.load) else 0)
    ∧ load = max 0 (min s.tbc.ceiling d)
    ∧ TurbineTakes true [] s { s.tbc with
      state := .loaded, inletRun := 0, mismatch := none, loadDemand := d, load := load
      speed := s.turbSet .ratedSpeed, breakerOpen := false
      hold := (s.turbSet .adoptHold).toNat
      admission := min (s.turbSet .admNoload
        + (1000 - s.turbSet .admNoload) * load / s.turbSet .ratedLoad) 1000 } a
    ∧ (s.tbc.tripIn = true → TurbineTrips .external a (s.adoptLoaded e))
    ∧ (s.tbc.tripIn = false → s.adoptLoaded e = a) := by
  refine ⟨_, _, s.commit true [] [] none (s.adoptedRecord e), rfl, rfl,
    Laws.commit_takes _ _ _ _ (.inl (by nofun)), fun h => ?_, fun h => if_neg (Bool.eq_false_iff.1 h)⟩
  rw [State.adoptLoaded]
  refine (if_pos h) ▸ Laws.tripTurbine_trips (s.commit true [] [] none (s.adoptedRecord e)) _ (by nofun)

theorem adoptTurbine_loaded (h : e.breaker = true) : s.adoptTurbine e = s.adoptLoaded e := if_pos h

theorem adoptTurbine_trips (h : e.breaker = false) (good : e.speedQuality = .good)
    (turns : s.turbSet .resetSpeed < e.speed) : s.adoptTurbine e = s.tripTurbine .adopt :=
  (if_neg (Bool.eq_false_iff.1 h)).trans (if_pos ⟨good, turns⟩)

theorem adoptTurbine_rests (h : e.breaker = false) (rests : e.speedQuality ≠ .good ∨ e.speed ≤ s.turbSet .resetSpeed) :
    s.adoptTurbine e = s :=
  (if_neg (Bool.eq_false_iff.1 h)).trans (if_neg fun on => rests.elim (fun r => r on.1) fun r => by omega)

end Adopting

/-- Settles O39: the stages by the state and their condition; the status event by the adoption, or else by the
breaker. -/
theorem turbineStagesAndBreaker : Obligations.TurbineStagesAndBreaker := by
  intro s admission valid held
  have reported : s.reportedAdmission = admission := ReportsAdmission.unique ⟨valid, held⟩
  subst reported
  refine ⟨fun hs runs => ⟨_, exec_then rfl ⟨hs, runs⟩, ?_⟩, fun h => exec_else rfl fun on => h on.1,
    fun hs band speed => ⟨_, exec_then rfl ⟨hs, band, speed⟩, enterSync_takes s⟩,
    fun h => exec_else rfl fun on => h on.1,
    fun hs runs => ⟨_, exec_then rfl ⟨hs, runs⟩, Laws.commit_takes _ _ _ _ (.inr rfl)⟩,
    fun h => exec_else rfl fun on => h.elim (fun h => h on.1) fun h => ?_, fun e m hm => ?_⟩
  · rw [runupRecord_eq]
    exact Laws.commit_takes _ _ _ _ (.inl (by nofun))
  · exact absurd on.2 (by simp [h])
  · have same : m.reportedAdmission = s.reportedAdmission := by rw [hm]; rfl
    have state : m.tbc.state = s.tbc.state := by rw [hm]
    have exec_eq : exec (.tbcStatusEvent e) s = .next (if s.tbc.adopting = true ∧ s.tbc.state = .offline
        then m.adoptTurbine e else m.breakerActs e.breaker) := by rw [hm]; rfl
    have sets : s.turbSet = m.turbSet := by rw [hm]; rfl
    have clear : s.shortfallClear = m.shortfallClear := by rw [hm]; rfl
    rw [sets, clear, ← same]
    by_cases adopts : s.tbc.adopting = true ∧ s.tbc.state = .offline
    · refine ⟨_, exec_then exec_eq adopts, fun _ _ => ⟨fun closed => ?_, fun opened good turns => ?_, fun opened rests => ?_⟩,
        fun h => ?_⟩
      · obtain ⟨d, load, a, hd, hload, takes, trips, stands⟩ := adoptLoaded_takes m e
        rw [adoptTurbine_loaded closed]
        exact ⟨d, load, a, hd, by rw [hload, hm], takes, by rw [hm] at trips ⊢; exact trips, by rw [hm] at stands ⊢; exact stands⟩
      · rw [adoptTurbine_trips opened good turns]
        exact Laws.tripTurbine_trips _ _ (by simp [state, adopts.2])
      · exact adoptTurbine_rests opened rests
      · exact absurd adopts.2 (h.elim (fun h => absurd adopts.1 (by simp [h])) id)
    · refine ⟨_, exec_else exec_eq adopts, fun on off => absurd ⟨on, off⟩ adopts, fun _ => ⟨fun hs closed => ?_,
        fun hs opened => ?_, fun hs opened => ?_, fun h h' => ?_⟩⟩
      · rw [closed, breakerActs_closes (state.trans hs)]
        exact loadedRecord_takes m
      · rw [opened, breakerActs_opensLoaded (state.trans hs)]
        exact enterSync_takes m
      · rw [opened, breakerActs_opensUnloading (state.trans hs)]
        exact toOffline_takes m
      · exact breakerActs_stands (state ▸ h) (state ▸ h')

end Sys2Proof.Proofs

/-! PROOFS. TBC's second (R105 to R108, R113, R117). -/

namespace Sys2Proof.Proofs

open Sys2Proof.Machine

section Second

variable {s : State}

/-! ### What a second runs in each state -/

theorem exec_second_rests (h : s.tbc.state = .offline ∨ s.tbc.state = .tripped) :
    exec .tbcSecondTimer s = .next s := by
  show execTbcSecondTimer s = _
  rw [execTbcSecondTimer]
  rcases h with h | h <;> rw [h]

theorem exec_second_runup (h : s.tbc.state = .runup) : exec .tbcSecondTimer s = .next s.runupSecond := by
  show execTbcSecondTimer s = _
  rw [execTbcSecondTimer, h]

theorem exec_second_sync (h : s.tbc.state = .syncWait) : exec .tbcSecondTimer s = .next (s.stageStep .syncFail) := by
  show execTbcSecondTimer s = _
  rw [execTbcSecondTimer, h]

theorem exec_second_warming (h : s.tbc.state = .warming) : exec .tbcSecondTimer s = .next s.warmSecond := by
  show execTbcSecondTimer s = _
  rw [execTbcSecondTimer, h]

theorem exec_second_carries (h : s.tbc.state = .loaded ∨ s.tbc.state = .unloading) :
    exec .tbcSecondTimer s = .next s.loadSecond := by
  show execTbcSecondTimer s = _
  rw [execTbcSecondTimer]
  rcases h with h | h <;> rw [h]

/-! ### The stage timer (R105, R106) -/

theorem stageStep_stopped (k : TurbCause) (h : s.tbc.stageLeft = none) : s.stageStep k = s := by
  rw [State.stageStep, h]

theorem stageStep_runs (k : TurbCause) {n : Nat} (h : s.tbc.stageLeft = some n) (hn : 1 < n) :
    s.stageStep k = { s with tbc := { s.tbc with stageLeft := some (n - 1) } } := by
  rw [State.stageStep, h]
  exact if_neg (by omega)

/-- A trip makes its own stage timer, so the one that ran out does not show. -/
theorem stageStep_ends (k : TurbCause) {n : Nat} (h : s.tbc.stageLeft = some n) (hn : n ≤ 1) :
    s.stageStep k = s.tripTurbine k := by
  rw [State.stageStep, h]
  exact (if_pos hn).trans rfl

/-! ### RUNUP (R105) -/

theorem rampedSpeed_below (h : s.tbc.speed < s.turbSet .ratedSpeed) :
    s.rampedSpeed = min (s.tbc.speed + s.turbSet .runupRate) (s.turbSet .ratedSpeed) := if_pos h

theorem rampedSpeed_rated (h : s.turbSet .ratedSpeed ≤ s.tbc.speed) : s.rampedSpeed = s.turbSet .ratedSpeed :=
  if_neg (by omega)

/-- The state once the settle clock has counted the second. -/
def settled (s : State) : State := { s with tbc := { s.tbc with
  settle := if s.tbc.speed = s.turbSet .ratedSpeed ∧ s.tbc.inBand = true then s.tbc.settle + 1 else 0 } }

theorem settleStep_syncs (h : s.turbSet .settleTime ≤ (settled s).tbc.settle) :
    s.settleStep = (settled s).enterSync := if_pos (decide_eq_true h)

theorem settleStep_counts (h : ((settled s).tbc.settle : Int) < s.turbSet .settleTime) :
    s.settleStep = settled s := if_neg fun on => not_le.2 h (of_decide_eq_true on)

theorem enterSync_state : s.enterSync.tbc.state = .syncWait :=
  enter_state (s := s) .syncWait s.tbc

/-! ### The mismatch clock (R113) -/

theorem mismatchStep_trips {n : Nat} (h : s.tbc.mismatch = some n) (due : s.turbSet .mismatchTime ≤ (n : Int) + 1) :
    s.mismatchStep = (s.tripTurbine .valveMismatch, true) := by
  rw [State.mismatchStep, h]
  exact (if_pos (decide_eq_true (by exact_mod_cast due))).trans rfl

theorem mismatchStep_stopped (h : s.tbc.mismatch = none) : s.mismatchStep = (s, false) := by
  rw [State.mismatchStep, h]

theorem mismatchStep_counts {n : Nat} (h : s.tbc.mismatch = some n) (early : (n : Int) + 1 < s.turbSet .mismatchTime) :
    s.mismatchStep = ({ s with tbc := { s.tbc with mismatch := some (n + 1) } }, false) := by
  rw [State.mismatchStep, h]
  exact if_neg fun on => absurd (of_decide_eq_true on) (by push_cast; omega)

/-! ### Load (R107, R108) -/

theorem withLoad_state (l : Int) (r : Tbc) : (s.withLoad l r).state = r.state := by
  unfold State.withLoad
  split <;> rfl

theorem withLoad_breakerOpen (l : Int) (r : Tbc) : (s.withLoad l r).breakerOpen = r.breakerOpen := by
  unfold State.withLoad
  split <;> rfl

theorem withLoad_takes (l : Int) : TurbineTakes false [] s (s.turbineAt l s.tbc)
    (s.commit false [] [] none (s.withLoad l s.tbc)) :=
  Laws.commit_takes s false [] _ (.inr (withLoad_state l s.tbc))

theorem loadStep_rises (h : s.tbc.load < min s.tbc.loadDemand s.tbc.ceiling) : TurbineTakes false [] s
    (s.turbineAt (min (s.tbc.load + s.turbSet .loadRate) (min s.tbc.loadDemand s.tbc.ceiling)) s.tbc) s.loadStep := by
  rw [State.loadStep, toward_of_lt h]
  exact withLoad_takes _

theorem loadStep_falls (h : min s.tbc.loadDemand s.tbc.ceiling ≤ s.tbc.load) : TurbineTakes false [] s
    (s.turbineAt (max (s.tbc.load - s.turbSet .loadRate) (min s.tbc.loadDemand s.tbc.ceiling)) s.tbc) s.loadStep := by
  rw [State.loadStep, toward_of_ge h]
  exact withLoad_takes _

theorem lowLoad_iff (q : QtyNo) : s.lowLoad (s.validNow q) = true ↔
    (s.qtb.get q).state = .valid ∧ s.reported q ≤ s.turbSet .minLoad := by
  rw [validNow_eq]
  by_cases h : (s.qtb.get q).state = .valid <;> simp [h, State.lowLoad]

theorem breakerTest_opens {g : Option Int} (h : s.tbc.state = .unloading ∧ s.tbc.breakerOpen = false
    ∧ (s.tbc.load = 0 ∨ s.lowLoad g = true)) :
    TurbineTakes true [] s { s.tbc with breakerOpen := true } (s.breakerTest g) := by
  rw [State.breakerTest, if_pos h]
  exact Laws.commit_takes _ _ _ _ (.inr rfl)

theorem breakerTest_stands {g : Option Int} (h : ¬(s.tbc.state = .unloading ∧ s.tbc.breakerOpen = false
    ∧ (s.tbc.load = 0 ∨ s.lowLoad g = true))) : s.breakerTest g = s := if_neg h

/-! ### The second of a turbine that warms or carries load, its mismatch clock counted -/

/-- What the second does from `m`, the state with the mismatch clock counted. -/
def SecondActs (m t : State) : Prop :=
  (m.tbc.state = .warming → t = { m with tbc := { m.tbc with stageLeft := m.tbc.stageLeft.map (· - 1) } })
  ∧ (m.tbc.state = .loaded → 1 < m.tbc.hold → t = { m with tbc := { m.tbc with hold := m.tbc.hold - 1 } })
  ∧ (m.tbc.state = .loaded → m.tbc.hold = 1 → TurbineTakes true [] m { m.tbc with hold := 0 } t)
  ∧ (m.tbc.state = .loaded → m.tbc.hold = 0 → ∃ goal, goal = min m.tbc.loadDemand m.tbc.ceiling
    ∧ (m.tbc.load < goal → TurbineTakes false [] m
      (m.turbineAt (min (m.tbc.load + m.turbSet .loadRate) goal) m.tbc) t)
    ∧ (goal ≤ m.tbc.load → TurbineTakes false [] m
      (m.turbineAt (max (m.tbc.load - m.turbSet .loadRate) goal) m.tbc) t))
  ∧ (m.tbc.state = .unloading → ∃ a opens,
    TurbineTakes false [] m (m.turbineAt (max (m.tbc.load - m.turbSet .unloadRate) 0) m.tbc) a
    ∧ (opens ↔ m.tbc.breakerOpen = false ∧ (a.tbc.load = 0
      ∨ (m.qtb.get qGenLoad).state = .valid ∧ m.reported qGenLoad ≤ m.turbSet .minLoad))
    ∧ (opens → TurbineTakes true [] a { a.tbc with breakerOpen := true } t) ∧ (¬opens → t = a))

/-- The second of WARMING, LOADED or UNLOADING. -/
def countedSecond (s : State) : State := if s.tbc.state = .warming then s.warmSecond else s.loadSecond

theorem loadSecond_from {m : State} (h : s.mismatchStep = (m, false)) : s.loadSecond
    = if m.tbc.state = .unloading then m.unloadStep else if 0 < m.tbc.hold then m.holdStep else m.loadStep := by
  rw [State.loadSecond, h]
  rfl

theorem warmSecond_from {m : State} (h : s.mismatchStep = (m, false)) :
    s.warmSecond = { m with tbc := { m.tbc with stageLeft := m.tbc.stageLeft.map (· - 1) } } := by
  rw [State.warmSecond, h]
  rfl

theorem countedSecond_trips (h : s.mismatchStep = (s.tripTurbine .valveMismatch, true)) :
    countedSecond s = s.tripTurbine .valveMismatch := by
  rw [countedSecond, State.warmSecond, State.loadSecond, h]
  exact ite_self _

/-- UNLOADING: the load falls, and the breaker is tested at what it fell to. -/
theorem unloadStep_acts {m : State} (h : m.tbc.state = .unloading) : ∃ a opens,
    TurbineTakes false [] m (m.turbineAt (max (m.tbc.load - m.turbSet .unloadRate) 0) m.tbc) a
    ∧ (opens ↔ m.tbc.breakerOpen = false ∧ (a.tbc.load = 0
      ∨ (m.qtb.get qGenLoad).state = .valid ∧ m.reported qGenLoad ≤ m.turbSet .minLoad))
    ∧ (opens → TurbineTakes true [] a { a.tbc with breakerOpen := true } m.unloadStep)
    ∧ (¬opens → m.unloadStep = a) := by
  obtain ⟨a, ha⟩ : ∃ a, m.commit false [] [] none (m.withLoad (max (m.tbc.load - m.turbSet .unloadRate) 0) m.tbc) = a :=
    ⟨_, rfl⟩
  have state : a.tbc.state = .unloading := by
    rw [← ha]
    exact (withLoad_state _ _).trans h
  have breaker : a.tbc.breakerOpen = m.tbc.breakerOpen := by
    rw [← ha]
    exact withLoad_breakerOpen _ _
  have low : a.lowLoad (m.validNow qGenLoad) = true ↔
      (m.qtb.get qGenLoad).state = .valid ∧ m.reported qGenLoad ≤ m.turbSet .minLoad := by
    rw [← ha]
    exact lowLoad_iff qGenLoad
  have step : m.unloadStep = a.breakerTest (m.validNow qGenLoad) := by rw [← ha]; rfl
  refine ⟨a, _, ha ▸ withLoad_takes _, Iff.rfl, fun opens => ?_, fun stays => ?_⟩
  · rw [step]
    exact breakerTest_opens ⟨state, breaker.trans opens.1, opens.2.imp id low.2⟩
  · rw [step]
    exact breakerTest_stands fun on => stays ⟨breaker.symm.trans on.2.1, on.2.2.imp id low.1⟩

theorem countedSecond_acts {m : State} (h : s.mismatchStep = (m, false)) (same : m.tbc.state = s.tbc.state) :
    SecondActs m (countedSecond s) := by
  have loads (hs : m.tbc.state ≠ .warming) : countedSecond s = if m.tbc.state = .unloading then m.unloadStep
      else if 0 < m.tbc.hold then m.holdStep else m.loadStep :=
    (if_neg (same ▸ hs)).trans (loadSecond_from h)
  refine ⟨fun hs => (if_pos (same ▸ hs)).trans (warmSecond_from h), fun hs hold => ?_, fun hs hold => ?_,
    fun hs hold => ?_, fun hs => ?_⟩
  · rw [loads (by simp [hs]), if_neg (by simp [hs]), if_pos (by omega)]
    exact if_neg (by omega)
  · rw [loads (by simp [hs]), if_neg (by simp [hs]), if_pos (by omega), State.holdStep, if_pos (by omega)]
    exact Laws.commit_takes _ _ _ _ (.inr rfl)
  · rw [loads (by simp [hs]), if_neg (by simp [hs]), if_neg (by omega)]
    exact ⟨_, rfl, loadStep_rises, loadStep_falls⟩
  · rw [loads (by simp [hs]), if_pos hs]
    exact unloadStep_acts hs

theorem exec_countedSecond (h : s.tbc.state = .warming ∨ s.tbc.state = .loaded ∨ s.tbc.state = .unloading) :
    exec .tbcSecondTimer s = .next (countedSecond s) := by
  rcases h with h | h
  · rw [exec_second_warming h, countedSecond, if_pos h]
  · rw [exec_second_carries h, countedSecond, if_neg (by rcases h with h | h <;> simp [h])]

/-- RUNUP's second: the speed setpoint, the settle clock, and SYNC_WAIT or else the stage timer. -/
theorem runupSecond_acts (h : s.tbc.state = .runup) : ∃ speed a n b,
    (s.tbc.speed < s.turbSet .ratedSpeed →
      speed = min (s.tbc.speed + s.turbSet .runupRate) (s.turbSet .ratedSpeed))
    ∧ (s.turbSet .ratedSpeed ≤ s.tbc.speed → speed = s.turbSet .ratedSpeed)
    ∧ TurbineTakes false [] s { s.tbc with speed := speed } a
    ∧ n = (if speed = s.turbSet .ratedSpeed ∧ s.tbc.inBand = true then s.tbc.settle + 1 else 0)
    ∧ b = { a with tbc := { a.tbc with settle := n } }
    ∧ (s.turbSet .settleTime ≤ n → ∃ admission, ReportsAdmission s admission
      ∧ TurbineTakes true s.shortfallClear b { b.turbineInto .syncWait with
        stageLeft := some (s.turbSet .syncTimeout).toNat, speed := s.turbSet .ratedSpeed, load := 0
        admission := admission } s.runupSecond)
    ∧ (n < s.turbSet .settleTime → s.runupSecond = b.stageStep .runupFail) := by
  refine ⟨s.rampedSpeed, s.speedStep, _, settled s.speedStep, rampedSpeed_below, rampedSpeed_rated,
    Laws.commit_takes _ _ _ _ (.inr rfl), rfl, rfl, fun due => ⟨s.reportedAdmission, reportedAdmission_reports s, ?_⟩,
    fun early => ?_⟩
  · have syncs : s.speedStep.settleStep = (settled s.speedStep).enterSync := settleStep_syncs due
    have second : s.runupSecond = (settled s.speedStep).enterSync := by
      rw [State.runupSecond, syncs]
      exact if_neg (by rw [enterSync_state]; decide)
    rw [second]
    exact enterSync_takes (settled s.speedStep)
  · have counts : s.speedStep.settleStep = settled s.speedStep := settleStep_counts early
    rw [State.runupSecond, counts]
    exact if_pos h

end Second

/-- Settles O40: the second by the turbine's state. -/
theorem turbineSecond : Obligations.TurbineSecond := by
  intro s
  obtain ⟨t, ht⟩ : ∃ t, exec .tbcSecondTimer s = .next t := ⟨_, rfl⟩
  refine ⟨t, ht, fun h => next_inj (ht.symm.trans (exec_second_rests h)), fun h => ?_, fun h => ?_, fun h => ⟨?_, ?_⟩⟩
  · obtain rfl : t = s.runupSecond := next_inj (ht.symm.trans (exec_second_runup h))
    obtain ⟨speed, a, n, b, below, rated, takes, hn, hb, syncs, counts⟩ := runupSecond_acts h
    refine ⟨speed, a, n, b, below, rated, takes, hn, hb, fun due => ?_, fun early => ⟨fun hk => ?_, fun k hk hk1 => ?_,
      fun k hk hk1 => ?_⟩⟩
    · obtain ⟨admission, reports, takes⟩ := syncs due
      exact ⟨admission, reports.1, reports.2, takes⟩
    all_goals
      have left : b.tbc.stageLeft = s.tbc.stageLeft := by
        obtain ⟨d, _, _, _, _, rfl⟩ := takes
        rw [hb]
      rw [counts early]
    · exact stageStep_stopped _ (left.trans hk)
    · exact stageStep_runs _ (left.trans hk) hk1
    · rw [stageStep_ends _ (left.trans hk) hk1]
      refine Laws.tripTurbine_trips _ _ ?_
      obtain ⟨d, _, _, _, _, rfl⟩ := takes
      rw [hb]
      simp [h]
  · obtain rfl : t = s.stageStep .syncFail := next_inj (ht.symm.trans (exec_second_sync h))
    refine ⟨stageStep_stopped _, fun k => stageStep_runs _, fun k hk hk1 => ?_⟩
    rw [stageStep_ends _ hk hk1]
    exact Laws.tripTurbine_trips _ _ (by simp [h])
  · obtain rfl : t = countedSecond s := next_inj (ht.symm.trans (exec_countedSecond h))
    intro n hn due
    rw [countedSecond_trips (mismatchStep_trips hn due)]
    exact Laws.tripTurbine_trips _ _ (by rcases h with h | h | h <;> simp [h])
  · obtain rfl : t = countedSecond s := next_inj (ht.symm.trans (exec_countedSecond h))
    intro m stopped counts early
    cases clock : s.tbc.mismatch with
    | none =>
      obtain rfl := stopped clock
      exact countedSecond_acts (mismatchStep_stopped clock) rfl
    | some n =>
      obtain rfl := counts n clock
      exact countedSecond_acts (mismatchStep_counts clock (early n clock)) rfl

end Sys2Proof.Proofs

/-! PROOFS. TBC's update, steam available and the load ceiling (R105, R108, R109, R111 to R113). -/

namespace Sys2Proof.Proofs

open Sys2Proof.Machine

/-! ### The ceiling found anew (R109, R111, R117) -/

section Ceiling

variable {s : State}

theorem underCeiling_eq (r : Tbc) : s.underCeiling r = s.turbineUnder r := by
  unfold State.underCeiling State.turbineUnder carries
  by_cases h : r.state = .loaded ∨ r.state = .unloading
  · rw [decide_eq_true h, if_pos h]
    rfl
  · have rests : ¬(r.state = .loaded ∧ 0 < r.hold) := fun on => h (.inl on.1)
    simp [h, rests]

theorem turbineAt_state (l : Int) (r : Tbc) : (s.turbineAt l r).state = r.state := by
  unfold State.turbineAt
  split <;> rfl

theorem turbineUnder_state (r : Tbc) : (s.turbineUnder r).state = r.state := by
  unfold State.turbineUnder
  split
  · exact turbineAt_state ..
  · split
    · exact turbineAt_state ..
    · rfl

/-- With STEAM_SHORTFALL raised the ceiling follows the flow measured. -/
theorem recompute_measured {r : Tbc} (short : r.shortfall = true) (v : Int) : s.recompute (some v) r
    = s.turbineUnder { r with
      shortfall := true, steamAvail := s.steamAvailable, ceiling := v * s.turbSet .steamRate } := by
  rw [← short, ← underCeiling_eq, State.recompute, State.ceilingOf]
  exact congrArg (fun x => s.underCeiling { r with steamAvail := s.steamAvailable, ceiling := x }) (if_pos short)

/-- Without it the ceiling follows steam available. -/
theorem recompute_available {r : Tbc} (plain : r.shortfall = false) (flow : Option Int) : s.recompute flow r
    = s.turbineUnder { r with
      shortfall := false, steamAvail := s.steamAvailable, ceiling := s.steamAvailable * s.turbSet .steamRate } := by
  rw [← plain, ← underCeiling_eq, State.recompute]
  unfold State.ceilingOf
  exact congrArg (fun x => s.underCeiling { r with steamAvail := s.steamAvailable, ceiling := x })
    (if_neg (Bool.eq_false_iff.1 plain))

theorem recompute_found : s.recompute (s.validNow qSteamFlow) s.tbc = s.ceilingFound := by
  have ceiling : s.ceilingOf (s.validNow qSteamFlow) { s.tbc with steamAvail := s.steamAvailable }
      = if s.tbc.shortfall = false then s.steamAvailable * s.turbSet .steamRate
        else if (s.qtb.get qSteamFlow).state = .valid then s.reported qSteamFlow * s.turbSet .steamRate
        else s.tbc.ceiling := by
    unfold State.ceilingOf
    rw [validNow_eq]
    cases s.tbc.shortfall <;> by_cases valid : (s.qtb.get qSteamFlow).state = .valid <;> simp [valid]
  rw [State.recompute, underCeiling_eq, State.ceilingFound, ← ceiling]

theorem recomputeCeiling_takes (s : State) : TurbineTakes false [] s s.ceilingFound s.recomputeCeiling := by
  rw [State.recomputeCeiling, recompute_found]
  exact Laws.commit_takes _ _ _ _ (.inr (turbineUnder_state _))

theorem movesRunning_iff (old new : WellState) :
    movesRunning (old, new) = true ↔ ¬(old = .running ↔ new = .running) := by
  by_cases ho : old = .running <;> by_cases hn : new = .running <;> simp [movesRunning, ho, hn]

end Ceiling

/-- Settles O42: the ceiling found anew at the events that concern it, and nothing at the others. -/
theorem ceilingFollowsTheWells : Obligations.CeilingFollowsTheWells := by
  intro s r
  refine ⟨rfl, fun hr => ?_, fun old => ⟨_, rfl, Laws.commit_takes _ _ _ _ (.inr rfl)⟩,
    fun old => ⟨_, rfl, Laws.commit_takes _ _ _ _ (.inr rfl)⟩⟩
  subst hr
  refine ⟨fun c old new k moves moves_iff => ⟨fun h => ?_, fun h => ?_⟩, fun c h => ?_, fun c h => exec_else rfl h,
    fun old => ⟨_, rfl, recomputeCeiling_takes _⟩⟩
  · obtain ⟨role, changes⟩ := moves_iff.1 h
    exact ⟨_, exec_then rfl ⟨role, (movesRunning_iff old new).2 changes⟩, recomputeCeiling_takes (s.took _)⟩
  · exact exec_else rfl fun on => h (moves_iff.2 ⟨on.1, (movesRunning_iff old new).1 on.2⟩)
  · exact ⟨_, exec_then rfl h, recomputeCeiling_takes (s.took _)⟩

/-! ### The trip tests of an update (R112) -/

section Trips

variable {u : Update} {s : State}

theorem countsInlet_iff {st : TurbState} : countsInlet st = true ↔ st = .runup ∨ st = .syncWait ∨ st = .loaded
    ∨ st = .unloading := decide_eq_true_iff

/-- The inlet run after an update. -/
def InletStep (u : Update) (s : State) (run : Nat) : Prop :=
  (¬countsInlet s.tbc.state = true ∨ u.newValue qInletP = none → run = s.tbc.inletRun)
  ∧ (∀ v, countsInlet s.tbc.state = true → u.newValue qInletP = some v →
    run = if v < s.limit 1 then min (s.tbc.inletRun + 1) 15 else 0)

theorem inletUpdate_steps (u : Update) (s : State) : ∃ run,
    inletUpdate u s = { s with tbc := { s.tbc with inletRun := run } } ∧ InletStep u s run := by
  cases hv : u.newValue qInletP with
  | none => exact ⟨s.tbc.inletRun, by rw [inletUpdate, hv], fun _ => rfl, fun v _ h => by simp [hv] at h⟩
  | some v =>
    by_cases counts : countsInlet s.tbc.state = true
    · refine ⟨_, by rw [inletUpdate, hv]; exact if_pos counts, fun h => ?_, fun w _ hw => ?_⟩
      · exact absurd h (by simp [counts, hv])
      · obtain rfl : v = w := Option.some.inj (hv.symm.trans hw)
        exact countRun_eq ..
    · exact ⟨s.tbc.inletRun, by rw [inletUpdate, hv]; exact if_neg counts, fun _ => rfl,
        fun _ h => absurd h counts⟩

theorem overspeeds_iff : overspeeds u s = true ↔
    s.tbc.state ≠ .tripped ∧ ∃ v, u.newValue qTurbSpeed = some v ∧ s.limit 0 < v := by
  unfold overspeeds
  cases u.newValue qTurbSpeed with
  | none => simp
  | some v => simp [and_comm]

theorem lowInlet_iff : lowInlet u s = true ↔
    countsInlet s.tbc.state = true ∧ u.newValue qInletP ≠ none ∧ s.turbSet .inletPersist ≤ s.tbc.inletRun := by
  unfold lowInlet reaches Update.listsValue
  rw [Bool.and_eq_true, Bool.and_eq_true, decide_eq_true_iff, ← Option.isSome_iff_ne_none]
  exact ⟨fun ⟨⟨listed, counts⟩, low⟩ => ⟨counts, listed, low⟩, fun ⟨counts, listed, low⟩ => ⟨⟨listed, counts⟩, low⟩⟩

theorem notTripped_of_counts (h : countsInlet s.tbc.state = true) : s.tbc.state ≠ .tripped := by
  rcases countsInlet_iff.1 h with h | h | h | h <;> simp [h]

/-- A trip leaves the flag of the speed band. -/
theorem tripUpdate_inBand (u : Update) (s : State) : (tripUpdate u s).tbc.inBand = s.tbc.inBand := by
  obtain ⟨run, inlet, _⟩ := inletUpdate_steps u s
  rw [tripUpdate, inlet]
  dsimp only
  split
  · rfl
  · split <;> rfl

end Trips

/-! ### The band, the admission demand and the mismatch clock (R102, R105, R113) -/

/-- The flag of the speed band after an update. -/
def BandStep (u : Update) (s : State) (band : Bool) : Prop :=
  (∀ v, u.newValue qTurbSpeed = some v → (band = true ↔
    s.turbSet .ratedSpeed - s.turbSet .speedBand ≤ v ∧ v ≤ s.turbSet .ratedSpeed + s.turbSet .speedBand))
  ∧ (u.newValue qTurbSpeed = none → band = (s.tbc.inBand && !u.outOfValid qTurbSpeed))

theorem bandUpdate_steps (u : Update) (s : State) : ∃ band,
    bandUpdate u s = { s with tbc := { s.tbc with inBand := band } } ∧ BandStep u s band := by
  cases hv : u.newValue qTurbSpeed with
  | some v =>
    refine ⟨_, by rw [bandUpdate, hv], fun w hw => ?_, fun h => by simp [hv] at h⟩
    obtain rfl : v = w := Option.some.inj (hv.symm.trans hw)
    exact decide_eq_true_iff
  | none =>
    refine ⟨_, ?_, fun v h => by simp [hv] at h, fun _ => rfl⟩
    rw [bandUpdate, hv]
    cases u.outOfValid qTurbSpeed
    · rw [Bool.not_false, Bool.and_true]
      rfl
    · rw [Bool.not_true, Bool.and_false]
      rfl

/-- The admission demand and the mismatch clock after an update. -/
def AdmissionStep (u : Update) (s : State) (adm : Int) (clock : Option Nat) : Prop :=
  (u.newValue qAdmPos = none → adm = s.tbc.admission
    ∧ clock = if u.outOfValid qAdmPos then none else s.tbc.mismatch)
  ∧ ∀ v, u.newValue qAdmPos = some v →
    (s.tbc.state = .runup ∨ s.tbc.state = .syncWait → adm = v ∧ clock = s.tbc.mismatch)
    ∧ (s.tbc.state ≠ .runup → s.tbc.state ≠ .syncWait → adm = s.tbc.admission)
    ∧ (s.tbc.state = .offline ∨ s.tbc.state = .tripped ∨ 0 < s.tbc.hold → clock = s.tbc.mismatch)
    ∧ (s.tbc.state = .warming ∨ s.tbc.state = .loaded ∨ s.tbc.state = .unloading → s.tbc.hold = 0 →
      clock = if s.limit 2 < |v - s.tbc.admission| then some (s.tbc.mismatch.getD 0) else none)

theorem carries_iff {st : TurbState} : carries st = true ↔ st = .loaded ∨ st = .unloading := decide_eq_true_iff

theorem admissionUpdate_steps (u : Update) (s : State) : ∃ adm clock, mismatchUpdate u (followUpdate u s)
    = { s with tbc := { s.tbc with admission := adm, mismatch := clock } } ∧ AdmissionStep u s adm clock := by
  cases hv : u.newValue qAdmPos with
  | none =>
    refine ⟨s.tbc.admission, _, ?_, fun _ => ⟨rfl, rfl⟩, fun v h => by simp [hv] at h⟩
    rw [followUpdate, hv, mismatchUpdate, hv]
    dsimp only
    split <;> rfl
  | some v =>
    have given {w : Int} (hw : u.newValue qAdmPos = some w) : w = v := Option.some.inj (hw.symm.trans hv)
    by_cases follows : s.tbc.state = .runup ∨ s.tbc.state = .syncWait
    · have idle : ¬((s.tbc.state = .warming ∨ carries s.tbc.state = true) ∧ s.tbc.hold = 0) := by
        rw [carries_iff]
        rcases follows with h | h <;> simp [h]
      have rests : ¬(s.tbc.state = .warming ∨ s.tbc.state = .loaded ∨ s.tbc.state = .unloading) := by
        rcases follows with h | h <;> simp [h]
      refine ⟨v, s.tbc.mismatch, ?_, fun h => by simp [hv] at h, fun w hw => ⟨fun _ => ⟨(given hw).symm, rfl⟩,
        fun h h' => absurd follows (not_or.2 ⟨h, h'⟩), fun _ => rfl, fun h => absurd h rests⟩⟩
      rw [followUpdate, hv]
      refine (congrArg _ (if_pos follows)).trans ?_
      rw [mismatchUpdate, hv]
      exact if_neg idle
    have stands : followUpdate u s = s := by
      rw [followUpdate, hv]
      exact if_neg follows
    rw [stands, mismatchUpdate, hv]
    by_cases tests : (s.tbc.state = .warming ∨ carries s.tbc.state = true) ∧ s.tbc.hold = 0
    · refine ⟨s.tbc.admission, _, if_pos tests, fun h => by simp [hv] at h, fun w hw => ⟨fun h => absurd h follows,
        fun _ _ => rfl, fun h => ?_, fun _ _ => by rw [given hw]⟩⟩
      have carried := tests.1
      rw [carries_iff] at carried
      rcases h with h | h | h
      · simp [h] at carried
      · simp [h] at carried
      · exact absurd tests.2 (by omega)
    · refine ⟨s.tbc.admission, s.tbc.mismatch, if_neg tests, fun h => by simp [hv] at h, fun w hw =>
        ⟨fun h => absurd h follows, fun _ _ => rfl, fun _ => rfl, fun h h' => absurd ⟨?_, h'⟩ tests⟩⟩
      rw [carries_iff]
      exact h

/-! ### The shortfall (R109, R111) -/

section Shortfall

variable {u : Update} {s : State}

/-- The shortfall test of an update: `c` before, `d` after. -/
def ShortfallStep (u : Update) (c d : State) : Prop :=
  (u.newValue qSteamFlow = none ∨ (c.tbc.state ≠ .loaded ∧ c.tbc.state ≠ .unloading) → d = c)
  ∧ (∀ v, u.newValue qSteamFlow = some v → c.tbc.state = .loaded ∨ c.tbc.state = .unloading →
    (c.tbc.steamAvail * (1000 - c.turbSet .shortfallMargin) ≤ v * 1000 →
      (c.tbc.shortfall = false → d = { c with tbc := { c.tbc with shortRun := 0 } })
      ∧ (c.tbc.shortfall = true → TurbineTakes false [.alarmClear .steamShortfall .turbine] c
        (c.turbineUnder { c.tbc with
          shortRun := 0, shortfall := false, steamAvail := c.steamAvailable
          ceiling := c.steamAvailable * c.turbSet .steamRate }) d))
    ∧ (v * 1000 < c.tbc.steamAvail * (1000 - c.turbSet .shortfallMargin) →
      ∃ run under, run = min (c.tbc.shortRun + 1) 15
        ∧ under = c.turbineUnder { c.tbc with
          shortRun := run, shortfall := true, steamAvail := c.steamAvailable
          ceiling := v * c.turbSet .steamRate }
        ∧ (c.tbc.shortfall = true → TurbineTakes false [] c under d)
        ∧ (c.tbc.shortfall = false → c.turbSet .shortfallPersist ≤ run →
          TurbineTakes false [.alarmChange .steamShortfall .turbine (.raise .alarm v)] c under d)
        ∧ (c.tbc.shortfall = false → run < c.turbSet .shortfallPersist →
          d = { c with tbc := { c.tbc with shortRun := run } })))

/-- A record under a ceiling found anew is taken, with the events `late`. -/
theorem under_takes {r r' : Tbc} (late : List Instr) (hr : r' = s.turbineUnder r) (state : r.state = s.tbc.state) :
    TurbineTakes false late s (s.turbineUnder r) (s.commit false [] late none r') := by
  rw [hr]
  exact Laws.commit_takes _ _ _ _ (.inr ((turbineUnder_state r).trans state))

theorem testShortfall_enough {v : Int} (h : s.tbc.steamAvail * (1000 - s.turbSet .shortfallMargin) ≤ v * 1000) :
    (s.tbc.shortfall = false → s.testShortfall v = { s with tbc := { s.tbc with shortRun := 0 } })
    ∧ (s.tbc.shortfall = true → TurbineTakes false [.alarmClear .steamShortfall .turbine] s
      (s.turbineUnder { s.tbc with
        shortRun := 0, shortfall := false, steamAvail := s.steamAvailable
        ceiling := s.steamAvailable * s.turbSet .steamRate }) (s.testShortfall v)) := by
  have enough : ¬s.isShort v = true := fun on => not_lt.2 h (of_decide_eq_true on)
  rw [State.testShortfall, if_neg enough]
  refine ⟨fun plain => if_neg (Bool.eq_false_iff.1 plain), fun short => ?_⟩
  dsimp only
  rw [if_pos short]
  exact under_takes _ (recompute_available (r := { s.tbc with shortRun := 0, shortfall := false }) rfl _) rfl

theorem testShortfall_short {v : Int} (h : v * 1000 < s.tbc.steamAvail * (1000 - s.turbSet .shortfallMargin)) :
    ∃ run under, run = min (s.tbc.shortRun + 1) 15
      ∧ under = s.turbineUnder { s.tbc with
        shortRun := run, shortfall := true, steamAvail := s.steamAvailable
        ceiling := v * s.turbSet .steamRate }
      ∧ (s.tbc.shortfall = true → TurbineTakes false [] s under (s.testShortfall v))
      ∧ (s.tbc.shortfall = false → s.turbSet .shortfallPersist ≤ run →
        TurbineTakes false [.alarmChange .steamShortfall .turbine (.raise .alarm v)] s under (s.testShortfall v))
      ∧ (s.tbc.shortfall = false → run < s.turbSet .shortfallPersist →
        s.testShortfall v = { s with tbc := { s.tbc with shortRun := run } }) := by
  refine ⟨_, _, rfl, rfl, ?_⟩
  rw [State.testShortfall, if_pos (show s.isShort v = true from decide_eq_true h)]
  dsimp only
  refine ⟨fun short => ?_, fun plain due => ?_, fun plain early => ?_⟩
  · rw [if_pos short]
    exact under_takes _ (recompute_measured (r := { s.tbc with shortRun := min (s.tbc.shortRun + 1) 15 }) short v) rfl
  · rw [if_neg (Bool.eq_false_iff.1 plain), if_pos (show reaches (run15 s.tbc.shortRun) _ = true from decide_eq_true due)]
    exact under_takes _ (recompute_measured (r := { s.tbc with shortRun := min (s.tbc.shortRun + 1) 15, shortfall := true }) rfl v) rfl
  · exact (if_neg (Bool.eq_false_iff.1 plain)).trans (if_neg fun on => not_le.2 early (of_decide_eq_true on))

theorem shortfallUpdate_steps (u : Update) (s : State) : ShortfallStep u s (shortfallUpdate u s) := by
  cases hv : u.newValue qSteamFlow with
  | none => exact ⟨fun _ => by rw [shortfallUpdate, hv], fun v h => by simp [hv] at h⟩
  | some v =>
    rw [shortfallUpdate, hv]
    refine ⟨fun h => ?_, fun w hw carried => ?_⟩
    · refine if_neg fun on => ?_
      rcases carries_iff.1 on with on | on <;> simp [on, hv] at h
    · obtain rfl : v = w := Option.some.inj (hv.symm.trans hw)
      dsimp only
      rw [if_pos (carries_iff.2 carried)]
      exact ⟨testShortfall_enough, testShortfall_short⟩

end Shortfall

/-! ### The breaker test (R108) -/

theorem genLoadUpdate_steps (u : Update) (s : State) : ∃ opens,
    (opens ↔ s.tbc.state = .unloading ∧ s.tbc.breakerOpen = false
      ∧ ∃ v, u.newValue qGenLoad = some v ∧ (s.tbc.load = 0 ∨ v ≤ s.turbSet .minLoad))
    ∧ (opens → TurbineTakes true [] s { s.tbc with breakerOpen := true } (genLoadUpdate u s))
    ∧ (¬opens → genLoadUpdate u s = s) := by
  refine ⟨_, Iff.rfl, ?_⟩
  cases hv : u.newValue qGenLoad with
  | none => exact ⟨fun ⟨_, _, v, h, _⟩ => by simp at h, fun _ => by rw [genLoadUpdate, hv]⟩
  | some v =>
    rw [genLoadUpdate, hv]
    refine ⟨fun ⟨unloading, closed, w, hw, low⟩ => breakerTest_opens ⟨unloading, closed, low.imp_right fun h => ?_⟩,
      fun stays => breakerTest_stands fun on => stays ⟨on.1, on.2.1, v, rfl, on.2.2.imp_right of_decide_eq_true⟩⟩
    obtain rfl := Option.some.inj hw
    exact decide_eq_true h

theorem frame_tbc {s t : State} (h : Frame [.tbc, .svp, .handed] s t) :
    t = { s with tbc := t.tbc, svp := t.svp, handed := t.handed } := by
  obtain ⟨pending, -, -, flc, qtb, tip, scm, hxc, wcc, -, bbu, sqr, alt, ssl, free⟩ := h
  rw [← pending (by decide), ← flc (by decide), ← qtb (by decide), ← tip (by decide), ← scm (by decide),
    ← wcc (by decide), ← hxc (by decide), ← bbu (by decide), ← sqr (by decide), ← alt (by decide), ← ssl (by decide),
    ← free (by decide)]

/-- Settles O41: the tests of an update in their order. -/
theorem turbineTakesAnUpdate : Obligations.TurbineTakesAnUpdate := by
  intro u s
  obtain ⟨run, inlet, counted⟩ := inletUpdate_steps u (s.took (.tbcUpdate u))
  obtain ⟨b, hb⟩ : ∃ b, tripUpdate u (s.took (.tbcUpdate u)) = b := ⟨_, rfl⟩
  obtain ⟨band, banded, bandStep⟩ := bandUpdate_steps u b
  obtain ⟨adm, clock, admitted, admission⟩ := admissionUpdate_steps u
    { b with tbc := { b.tbc with inBand := band } }
  obtain ⟨c, hc⟩ : ∃ c, c = { b with tbc := { b.tbc with inBand := band, admission := adm, mismatch := clock } } :=
    ⟨_, rfl⟩
  have tested : mismatchUpdate u (followUpdate u (bandUpdate u b)) = c := by rw [banded, admitted, hc]
  have form : b = { s with tbc := b.tbc, svp := b.svp, handed := b.handed } := by
    have frame : Frame [.tbc, .svp, .handed] s b :=
      hb ▸ Frame.tripUpdate (.took (.refl _ _) (by decide)) (List.Subset.refl _)
    exact frame_tbc frame
  have inBand : b.tbc.inBand = s.tbc.inBand := by
    rw [← hb]
    exact tripUpdate_inBand u _
  obtain ⟨opens, opens_iff, opened, stands⟩ := genLoadUpdate_steps u (shortfallUpdate u c)
  have exec_eq : exec (.tbcUpdate u) s = .next (genLoadUpdate u (shortfallUpdate u c)) := by
    rw [← tested, ← hb]
    rfl
  have shortfall := shortfallUpdate_steps u c
  have settings (i : TurbItem) : (shortfallUpdate u c).turbSet i = s.turbSet i := by
    have frame : Frame [.tbc, .svp, .handed] c (shortfallUpdate u c) := .shortfallUpdate (.refl _ _) (List.Subset.refl _)
    have ssl := frame_tbc frame
    rw [ssl, hc, form]
    rfl
  have margins (i : TurbItem) : c.turbSet i = s.turbSet i := by rw [hc, form]; rfl
  have steam : c.steamAvailable = s.steamAvailable := by rw [hc, form]; rfl
  have under (r : Tbc) : c.turbineUnder r = s.turbineUnder r := by rw [hc, form]; rfl
  refine ⟨{ s.took (.tbcUpdate u) with tbc := { s.tbc with inletRun := run } }, b, c, _, _, exec_eq, ⟨run, rfl, fun counts counts_iff => ⟨fun h => ?_, fun v on hv => ?_,
    fun fast low fast_iff low_iff => ?_⟩⟩, ⟨band, adm, clock, hc, ?_, ?_, admission.1, fun v hv => ?_⟩,
    shortfall.1, ?_, opens, ?_, opened, stands⟩
  · exact counted.1 (h.imp_left fun off on => off (counts_iff.2 (countsInlet_iff.1 on)))
  · exact counted.2 v (countsInlet_iff.2 (counts_iff.1 on)) hv
  · rw [← hb, tripUpdate, inlet]
    have speeding := overspeeds_iff (u := u) (s := { s.took (.tbcUpdate u) with tbc := { s.tbc with inletRun := run } })
    have starved := lowInlet_iff (u := u) (s := { s.took (.tbcUpdate u) with tbc := { s.tbc with inletRun := run } })
    have fast_iff' := fast_iff.trans speeding.symm
    have low_iff' := low_iff.trans ((and_congr_left' (counts_iff.trans countsInlet_iff.symm)).trans starved.symm)
    refine ⟨fun h => ?_, fun h h' => ?_, fun h h' => ?_⟩
    · exact (if_pos (fast_iff'.1 h)) ▸ Laws.tripTurbine_trips _ _ (fast_iff.1 h).1
    · exact ((if_neg fun on => h (fast_iff'.2 on)).trans (if_pos (low_iff'.1 h'))) ▸ Laws.tripTurbine_trips _ _
        (notTripped_of_counts (countsInlet_iff.2 (counts_iff.1 (low_iff.1 h').1)))
    · exact (if_neg fun on => h (fast_iff'.2 on)).trans (if_neg fun on => h' (low_iff'.2 on))
  · intro v hv
    rw [bandStep.1 v hv, form]
    rfl
  · intro hv
    rw [bandStep.2 hv, inBand]
  · have moved := admission.2 v hv
    have row : b.limit 2 = s.limit 2 := by rw [form]; rfl
    rw [← row]
    exact moved
  · rw [← steam, ← margins, ← margins, ← margins]
    simp only [← under]
    exact shortfall.2
  · rw [opens_iff, settings]

end Sys2Proof.Proofs

/-! PROOFS. The balance: requirement, FAST_DOWN, the events of an allocation and the tank hold (chapter 7). -/

namespace Sys2Proof.Proofs

open Sys2Proof.Machine

/-! ### Requirement and FAST_DOWN (R123 to R125) -/

section Requirement

variable {s : State}

theorem testFastDown_eq (s : State) : s.testFastDown = if s.productionDemand ≤ s.bbu.tReq then
    { s with bbu := { s.bbu with fastDown := false } } else s := rfl

/-- The requirement reckoned and the ceiling that follows, each with what it does. -/
theorem reckonAnew_reckons (hw : s.wellsLegal) (ho : s.ssl.settings.inOrder) :
    Reckons s s.reckon ∧ RecomputesCeiling s.reckon s.reckon.ceilingAnew := by
  have frame : Frame [.bbu] s s.reckon := .reckon (.refl _ _) (List.Subset.refl _)
  refine ⟨Laws.reckon_reckons s, Laws.ceilingAnew_recomputes s.reckon ?_ ?_⟩
  · unfold State.wellsLegal
    rwa [frame.wcc (by decide)]
  · rwa [frame.ssl (by decide)]

theorem reckonCeiling_reckons (hw : s.wellsLegal) (ho : s.ssl.settings.inOrder) :
    ReckonsAtTurbine s s.reckonCeiling := by
  refine ⟨s.requirement, Laws.requirement_requires s, fun h => if_pos h, fun h => ⟨s.reckon, ?_⟩⟩
  rw [State.reckonCeiling, if_neg h]
  exact reckonAnew_reckons hw ho

theorem balMode_taken (h : s.claimant .balance = none) (m : BalMode) : State.balMode .host m s
    = (State.ceilingAnew (State.reckon { s with
      bbu := { s.bbu with mode := m, afterTrip := false }
      svp := noticedSvp s.svp .balance (.balance s.bbu.mode) (.balance m) none
      handed := s.handed ++ changed .balance (.balance s.bbu.mode) (.balance m) }), .ok, .none) := by
  rw [State.balMode, unclaimed_of_none h]
  unfold noticedSvp changed
  by_cases same : m = s.bbu.mode
  · simp [same]
  · have moves : TargetState.balance s.bbu.mode ≠ .balance m := by simpa [eq_comm] using same
    dsimp only
    rw [if_neg same, if_neg moves, if_neg moves]
    rfl

theorem balFixed_taken (h : s.claimant .balance = none) (v f : Int) (hf : f = max 0 (min s.productionMax v)) :
    State.balFixed .host v s = (State.ceilingAnew (State.reckon { s with bbu := { s.bbu with fixedTarget := f } }),
      if f = v then .ok else .clamped, .none) := by
  have status : clampStatus v f = if f = v then .ok else .clamped := by
    unfold clampStatus
    congr 1
    exact propext eq_comm
  rw [State.balFixed, unclaimed_of_none h, ← status, hf]
  rfl

end Requirement

/-- Settles O43: each command and event by the record it leaves, reckoned. -/
theorem requirementAndFastDown : Obligations.RequirementAndFastDown := by
  intro s hw ho
  refine ⟨fun idle => ⟨exec_of_serve idle rfl rfl, fun claimed => ⟨fun m => ?_, fun v => ?_⟩,
    fun free => ⟨fun m => ?_, fun v => ?_⟩⟩, fun d => ⟨_, rfl, reckonCeiling_reckons hw ho⟩, fun old k power => ?_,
    fun old k => ?_, fun old new k unloaded quiet => ?_, fun c => ?_⟩
  · exact onlyAnswers_of_serve idle rfl (unclaimed_of_some (s := s.deselect) claimed _)
  · exact onlyAnswers_of_serve idle rfl (unclaimed_of_some (s := s.deselect) claimed _)
  · exact ⟨_, _, _, exec_of_serve idle rfl (balMode_taken (s := s.deselect) free m), by rw [noticed_svp]; rfl,
      reckonAnew_reckons hw ho⟩
  · exact ⟨_, _, _, rfl, exec_of_serve idle rfl (balFixed_taken (s := s.deselect) free v _ rfl),
      reckonAnew_reckons hw ho⟩
  · exact ⟨_, exec_then rfl ⟨rfl, power⟩, reckonCeiling_reckons hw ho⟩
  · exact ⟨_, exec_then (exec_else rfl fun on => TurbState.noConfusion on.1) rfl, reckonCeiling_reckons hw ho⟩
  · exact exec_else (exec_else rfl fun on => quiet.elim (fun h => h on.1) fun h => h on.2) unloaded
  · by_cases produces : s.role c = .production
    · refine (exec_then rfl produces).trans ?_
      rw [testFastDown_eq]
      simp only [produces, true_and]
      rfl
    · refine (exec_else rfl produces).trans ?_
      simp only [produces, false_and, if_false]

/-! ### The events of an allocation (R126, R129 to R133) -/

theorem maxFlowTaken_production {s : State} {c : WellNo} (role : s.role c = .production) :
    s.maxFlowTaken c = s.allocate := by
  rw [State.maxFlowTaken, role]

theorem maxFlowTaken_reinjection {s : State} {c : WellNo} (role : s.role c = .reinjection) :
    s.maxFlowTaken c = s.ceilingAnew := by
  rw [State.maxFlowTaken, role]

/-- Settles O44: each event by its well's role. -/
theorem allocationEvents : Obligations.AllocationEvents := by
  intro s c hw ho
  refine ⟨fun old new k h => ⟨_, exec_then rfl h, Laws.ceilingAnew_recomputes _ hw ho⟩, fun old new k moves role => ?_,
    fun old new k moves role => ?_, fun role => ⟨_, exec_else rfl role, Laws.allocate_allocates _ hw ho⟩,
    fun role => exec_then rfl role, fun held m hm => ⟨fun role => ?_, fun role => ?_⟩, fun old i m hm =>
      ⟨fun role item => ?_, fun role item => ?_, fun other max min => ?_⟩⟩
  · refine ⟨_, exec_then (exec_else rfl ?_) role, Laws.allocate_allocates _ hw ho⟩
    exact fun on => on.elim moves fun on => absurd (role.symm.trans on) (by decide)
  · refine exec_else (exec_else rfl ?_) ?_
    · exact fun on => on.elim moves fun on => absurd (role.symm.trans on) (by decide)
    · exact fun on => absurd (role.symm.trans on) (by decide)
  · subst hm
    exact ⟨_, exec_then rfl role, Laws.allocate_allocates _ hw ho⟩
  · subst hm
    exact exec_else rfl role
  · subst hm
    rcases item with rfl | rfl
    · exact ⟨_, exec_then rfl role, Laws.allocate_allocates _ hw ho⟩
    · exact ⟨_, exec_as rfl (maxFlowTaken_production (s := s.took _) role), Laws.allocate_allocates _ hw ho⟩
  · subst hm item
    exact ⟨_, exec_as rfl (maxFlowTaken_reinjection (s := s.took _) role), Laws.ceilingAnew_recomputes _ hw ho⟩
  · subst hm
    cases i with
    | role => exact absurd rfl other
    | maxFlow => exact absurd rfl max
    | minFlow => exact exec_else rfl (min.resolve_left fun h => h rfl)
    | _ => rfl

/-! ### The tank hold (R127, R128) -/

section Hold

variable {s : State}

theorem sumMin_eq (s : State) : s.sumMin = s.leastProduction := by
  unfold State.sumMin State.leastProduction overWells countsRuns
  simp only [decide_eq_true_iff]

theorem setHold_eq (new : HoldState) (ceiling : Option Int) (alarms : List Instr) : s.setHold new ceiling alarms
    = State.ceilingAnew { s with
      bbu := { s.bbu with hold := new, holdCeiling := ceiling, holdTimer := decide (new = HoldState.hold) }
      svp := noticedSvp s.svp .balance (.hold s.bbu.hold) (.hold new) none
      handed := s.handed ++ changed .balance (.hold s.bbu.hold) (.hold new) ++ alarms } := by
  unfold State.setHold noticedSvp changed
  dsimp only
  by_cases same : s.bbu.hold = new
  · rw [if_pos same, same, if_pos rfl, if_pos rfl, List.append_nil]
    rfl
  · have moves : TargetState.hold s.bbu.hold ≠ .hold new := by simpa using same
    rw [if_neg same, if_neg moves, if_neg moves]
    rfl

theorem setHold_becomes (hw : s.wellsLegal) (ho : s.ssl.settings.inOrder) (new : HoldState) (ceiling : Option Int)
    (high : Bool) (alarms : List Instr) :
    HoldBecomes new ceiling high alarms s ((s.setTankHigh high).setHold new ceiling alarms) := by
  unfold HoldBecomes
  rw [setHold_eq, noticed_svp]
  exact Laws.ceilingAnew_recomputes _ hw ho

/-- The hold ceiling of a freeze. -/
theorem freezeHold_becomes (hw : s.wellsLegal) (ho : s.ssl.settings.inOrder) (h : s.bbu.hold ≠ .frozen) :
    ∃ x, (s.bbu.holdCeiling = none → x = s.productionDemand)
      ∧ (∀ y, s.bbu.holdCeiling = some y → x = min s.productionDemand y)
      ∧ HoldBecomes .frozen (some x) s.bbu.tankHigh [] s s.freezeHold := by
  rw [State.freezeHold, if_neg h]
  cases kept : s.bbu.holdCeiling with
  | none => exact ⟨_, fun _ => rfl, nofun, setHold_becomes hw ho ..⟩
  | some y => exact ⟨_, nofun, fun z hz => by rw [Option.some.inj hz]; rfl, setHold_becomes hw ho ..⟩

/-- A value of TANK_LEVEL as the hold takes it. -/
def LevelActs (v : Int) (s t : State) : Prop :=
  (s.bbu.hold = .normal → v < s.balSet .tankXoff → t = s)
  ∧ (s.bbu.hold = .hold → s.balSet .tankXon < v → t = s)
  ∧ (s.bbu.hold = .frozen → s.balSet .tankXon < v → v < s.balSet .tankXoff →
    HoldBecomes .hold s.bbu.holdCeiling s.bbu.tankHigh [] s t)
  ∧ (s.bbu.hold ≠ .normal → v ≤ s.balSet .tankXon → HoldBecomes .normal none false
    (if s.bbu.tankHigh then [.alarmClear .tankHigh .balance] else []) s t)
  ∧ (s.bbu.hold ≠ .hold → s.balSet .tankXoff ≤ v → ∃ h,
    (s.bbu.hold = .normal ∨ s.bbu.holdCeiling = none →
      h = max (s.productionDemand - s.balSet .holdStep) s.leastProduction)
    ∧ (∀ x, s.bbu.hold = .frozen → s.bbu.holdCeiling = some x →
      h = max (min (s.productionDemand - s.balSet .holdStep) x) s.leastProduction)
    ∧ HoldBecomes .hold (some h) true (if s.bbu.tankHigh then [] else
      [.alarmChange .tankHigh .balance (.raise .alarm v)]) s t)

theorem takeLevel_normal (v : Int) (h : s.bbu.hold = .normal) : s.takeLevel v
    = if s.balSet .tankXoff ≤ v then
      (s.setTankHigh true).setHold .hold (some (s.enterCeiling none)) (s.tankHighRaise v) else s := by
  unfold State.takeLevel
  rw [h]
  simp only [decide_eq_true_iff]

theorem takeLevel_hold (v : Int) (h : s.bbu.hold = .hold) : s.takeLevel v
    = if v ≤ s.balSet .tankXon then (s.setTankHigh false).setHold .normal none s.tankHighClear else s := by
  unfold State.takeLevel
  rw [h]
  simp only [decide_eq_true_iff]

theorem takeLevel_frozen (v : Int) (h : s.bbu.hold = .frozen) : s.takeLevel v
    = if s.balSet .tankXoff ≤ v then
      (s.setTankHigh true).setHold .hold (some (s.enterCeiling s.bbu.holdCeiling)) (s.tankHighRaise v)
    else if v ≤ s.balSet .tankXon then (s.setTankHigh false).setHold .normal none s.tankHighClear
    else s.setHold .hold s.bbu.holdCeiling [] := by
  unfold State.takeLevel
  rw [h]
  simp only [decide_eq_true_iff]

theorem enterCeiling_none : s.enterCeiling none = max (s.productionDemand - s.balSet .holdStep) s.leastProduction := by
  rw [← sumMin_eq]
  rfl

theorem enterCeiling_some (x : Int) : s.enterCeiling (some x)
    = max (min (s.productionDemand - s.balSet .holdStep) x) s.leastProduction := by
  rw [← sumMin_eq]
  rfl

/-- In each hold state a level at TANK_XOFF, one at TANK_XON and one between them are told apart. -/
theorem takeLevel_acts (hw : s.wellsLegal) (ho : s.ssl.settings.inOrder) (v : Int) :
    LevelActs v s (s.takeLevel v) := by
  have apart : s.balSet .tankXon < s.balSet .tankXoff := ho.2.2.2.1
  have becomes (new : HoldState) (ceiling : Option Int) (high : Bool) (alarms : List Instr) :=
    setHold_becomes hw ho new ceiling high alarms
  cases hs : s.bbu.hold with
  | normal =>
    unfold LevelActs
    rw [takeLevel_normal v hs, hs]
    refine ⟨fun _ low => if_neg (by omega), nofun, nofun, fun h => absurd rfl h, fun _ high => ⟨_, fun _ => rfl, nofun, ?_⟩⟩
    rw [if_pos high, enterCeiling_none]
    exact becomes ..
  | hold =>
    unfold LevelActs
    rw [takeLevel_hold v hs, hs]
    refine ⟨nofun, fun _ high => if_neg (by omega), nofun, fun _ low => ?_, fun h => absurd rfl h⟩
    rw [if_pos low]
    exact becomes ..
  | frozen =>
    unfold LevelActs
    rw [takeLevel_frozen v hs, hs]
    refine ⟨nofun, nofun, fun _ above below => ?_, fun _ low => ?_, fun _ high => ?_⟩
    · rw [if_neg (by omega), if_neg (by omega)]
      exact becomes _ _ s.bbu.tankHigh _
    · rw [if_neg (show ¬s.balSet .tankXoff ≤ v by omega), if_pos low]
      exact becomes ..
    · rw [if_pos high]
      cases kept : s.bbu.holdCeiling with
      | none => exact ⟨_, fun _ => rfl, nofun, by rw [enterCeiling_none]; exact becomes ..⟩
      | some x =>
        refine ⟨_, fun h => by simp at h, fun y _ hy => ?_, by rw [enterCeiling_some]; exact becomes ..⟩
        rw [Option.some.inj hy]

/-! ### The hold timer (R127) -/

theorem validFor_of {level : QState × Int} (met : TakerMeets bbuUpdateOf s qTankLevel level) :
    s.validFor bbuUpdateOf qTankLevel = if level.1 = .valid then some level.2 else none := by
  unfold State.validFor
  rw [Laws.meets_metBy met]

theorem holdExpiry_of {v x : Int} (hv : s.validFor bbuUpdateOf qTankLevel = some v) (hx : s.bbu.holdCeiling = some x) :
    s.holdExpiry = if s.bbu.tankXoff ≤ v ∧ s.lowered x ≠ x then
      State.ceilingAnew { s with bbu := { s.bbu with holdCeiling := some (s.lowered x) } } else s := by
  unfold State.holdExpiry
  rw [hv, hx]

theorem holdExpiry_rests (h : s.validFor bbuUpdateOf qTankLevel = none ∨ s.bbu.holdCeiling = none) :
    s.holdExpiry = s := by
  unfold State.holdExpiry
  split
  next hv hx => simp [hv, hx] at h
  next => rfl

theorem lowered_above {x : Int} (h : s.leastProduction < x) :
    s.lowered x = max (x - s.balSet .holdStep) s.leastProduction := by
  rw [← sumMin_eq] at h ⊢
  exact if_neg (by omega)

theorem lowered_same {x : Int} (h : x ≤ s.leastProduction ∨ s.balSet .holdStep = 0) : s.lowered x = x := by
  unfold State.lowered
  rw [sumMin_eq]
  split <;> omega

theorem holdExpiry_stands {level : QState × Int} (met : TakerMeets bbuUpdateOf s qTankLevel level)
    (h : level.1 ≠ .valid ∨ level.2 < s.bbu.tankXoff ∨ s.bbu.holdCeiling = none
      ∨ (∃ x, s.bbu.holdCeiling = some x ∧ (x ≤ s.leastProduction ∨ s.balSet .holdStep = 0))) :
    s.holdExpiry = s := by
  have level_eq := validFor_of met
  by_cases valid : level.1 = .valid
  · rw [if_pos valid] at level_eq
    cases kept : s.bbu.holdCeiling with
    | none => exact holdExpiry_rests (.inr kept)
    | some x =>
      rw [holdExpiry_of level_eq kept]
      refine if_neg fun on => ?_
      rcases h with h | h | h | ⟨y, hy, h⟩
      · exact h valid
      · exact absurd on.1 (by omega)
      · simp [h] at kept
      · obtain rfl : x = y := Option.some.inj (kept.symm.trans hy)
        exact on.2 (lowered_same h)
  · rw [if_neg valid] at level_eq
    exact holdExpiry_rests (.inl level_eq)

end Hold

/-- Settles O46: an update by the level it lists, the timer by the level BBU meets. -/
theorem tankHoldFollowsTheLevel : Obligations.TankHoldFollowsTheLevel := by
  intro s u level met hw ho
  refine ⟨_, rfl, fun m r step hr hstep hm => ?_⟩
  subst hr hstep
  refine ⟨fun hv quiet => ?_, fun hv stale melted => ?_, fun v hv => ?_, fun h => ?_,
    fun x hold runs valid high kept above step => ?_⟩
  · have same : m = s.took (.bbuTankUpdate u) := by rw [hm, hv]; rfl
    rw [same, State.bbuUpdate, hv]
    rcases quiet with quiet | frozen
    · exact if_neg (Bool.eq_false_iff.1 quiet)
    · dsimp only
      split
      · exact if_pos frozen
      · rfl
  · have same : m = s.took (.bbuTankUpdate u) := by rw [hm, hv]; rfl
    rw [same, State.bbuUpdate, hv]
    dsimp only
    rw [if_pos stale]
    exact freezeHold_becomes (s := s.took (.bbuTankUpdate u)) hw ho melted
  · have noted : m = (s.took (.bbuTankUpdate u)).noteXoff := by rw [hm, hv]; rfl
    rw [State.bbuUpdate, hv, noted]
    exact takeLevel_acts (s := (s.took (.bbuTankUpdate u)).noteXoff) hw ho v
  · by_cases runs : s.bbu.hold = .hold ∧ s.bbu.holdTimer = true
    · refine exec_as (exec_then rfl runs) (holdExpiry_stands met ?_)
      simpa [runs] using h
    · exact exec_else rfl runs
  · have level_eq := validFor_of met
    rw [if_pos valid] at level_eq
    have lowers : s.lowered x = max (x - s.balSet .holdStep) s.leastProduction := lowered_above above
    refine ⟨_, exec_as (exec_then rfl ⟨hold, runs⟩) ?_, Laws.ceilingAnew_recomputes _ hw ho⟩
    rw [holdExpiry_of level_eq kept, if_pos ⟨high, by omega⟩, lowers]

end Sys2Proof.Proofs

/-! PROOFS. The guarantee of an allocation (R132): production targets within bounds, and the brine within the
reinjection capacity. -/

namespace Sys2Proof.Proofs

open Sys2Proof.Machine

/-! ### What the passes of R131 give -/

theorem shares_sum_le {r : Int} {l : List Member} (hr : 0 ≤ r) (hl : l ≠ []) (hw : ∀ m ∈ l, 1 ≤ m.weight) :
    (l.map (shareOf r l)).sum ≤ r := Laws.shares_le hr hl hw

/-- The shares that overflow their headrooms leave a spare that is not negative. -/
theorem spare_nonneg {r : Int} {l : List Member} (hr : 0 ≤ r) (legal : Laws.MembersLegal l) :
    0 ≤ r - ((l.filter fun m => decide (headroom m < shareOf r l m)).map headroom).sum := by
  by_cases hl : l = []
  · simpa [hl] using hr
  have full_le : ((l.filter fun m => decide (headroom m < shareOf r l m)).map headroom).sum
      ≤ ((l.filter fun m => decide (headroom m < shareOf r l m)).map (shareOf r l)).sum :=
    List.sum_le_sum fun m hm => le_of_lt (by simpa using (List.mem_filter.1 hm).2)
  have rest_nonneg : 0 ≤ ((l.filter fun m => !decide (headroom m < shareOf r l m)).map (shareOf r l)).sum :=
    List.sum_nonneg fun x hx => by
      obtain ⟨m, hm, rfl⟩ := List.mem_map.1 hx
      exact Laws.share_nonneg hr legal.2.1 m (List.mem_filter.1 hm).1
  have split := Laws.sum_partition l (fun m => decide (headroom m < shareOf r l m)) (shareOf r l)
  have total := shares_sum_le hr hl legal.2.1
  omega

/-- Every member is given at least nothing and at most its headroom, and all of them at most the spare. -/
theorem sharedOut_bounds {r : Int} {l : List Member} {g : WellNo → Int} (h : SharedOut r l g) :
    0 ≤ r → Laws.MembersLegal l →
    (∀ m ∈ l, 0 ≤ g m.well ∧ g m.well ≤ headroom m) ∧ (l.map fun m => g m.well).sum ≤ r := by
  induction h with
  | none r g => exact fun hr _ => ⟨fun m hm => absurd hm List.not_mem_nil, hr⟩
  | leave r l g overflows given rest ih =>
    intro hr legal
    have kept : (l.filter fun m => decide (shareOf r l m ≤ headroom m))
        = l.filter fun m => !decide (headroom m < shareOf r l m) :=
      List.filter_congr fun m _ => by rw [← decide_not, decide_eq_decide, not_lt]
    obtain ⟨bounds, total⟩ := ih (spare_nonneg hr legal) (Laws.membersLegal_filter legal)
    refine ⟨fun m hm => ?_, ?_⟩
    · by_cases full : headroom m < shareOf r l m
      · rw [given m hm full]
        exact ⟨legal.2.2 m hm, le_refl _⟩
      · exact bounds m (List.mem_filter.2 ⟨hm, decide_eq_true (not_lt.1 full)⟩)
    · have full_eq : ((l.filter fun m => decide (headroom m < shareOf r l m)).map fun m => g m.well)
          = (l.filter fun m => decide (headroom m < shareOf r l m)).map headroom :=
        List.map_congr_left fun m hm => given m (List.mem_filter.1 hm).1 (by simpa using (List.mem_filter.1 hm).2)
      rw [Laws.sum_partition l (fun m => decide (headroom m < shareOf r l m)), full_eq, ← kept]
      omega
  | last r l g q n fits rounds given all =>
    intro hr legal
    refine ⟨fun m hm => ?_, all.trans_le (min_le_left _ _)⟩
    obtain ⟨j, hj⟩ := List.mem_iff_getElem?.1 hm
    have share : 0 ≤ shareOf r l m := Laws.share_nonneg hr legal.2.1 m hm
    have fit := fits m hm
    rw [given j m hj]
    split <;> omega

/-! ### The production of an allocation -/

section Plan

variable {s : State}

/-- The spare that the passes share out among the production wells. -/
def spareOf (s : State) : Int :=
  s.bbu.ceiling - (s.startingFlow .production + s.heldFlow) - minSum (s.members .production)

/-- What an allocation gives a production well over its MIN_FLOW. -/
def productionGift (s : State) : WellNo → Int :=
  Laws.giftOf s .production s.bbu.ceiling (s.startingFlow .production + s.heldFlow)

theorem productionGift_bounds (hw : s.wellsLegal) (ho : s.ssl.settings.inOrder) :
    (spareOf s < 0 → productionGift s = fun _ => 0)
    ∧ (∀ c, s.role c = .production → s.classOf c = .active →
      0 ≤ productionGift s c ∧ productionGift s c ≤ s.upperOf c - s.wellSet c .minFlow)
    ∧ (0 ≤ spareOf s → ((s.members .production).map fun m => productionGift s m.well).sum ≤ spareOf s) := by
  obtain ⟨short, shared⟩ := Laws.giftOf_shared s .production s.bbu.ceiling
    (s.startingFlow .production + s.heldFlow) hw ho
  have legal := Laws.members_legal s .production hw ho
  refine ⟨short, fun c role active => ?_, fun h => (sharedOut_bounds (shared h) h legal).2⟩
  have member : (⟨c, (s.wcc.get c).weight, s.wellSet c .minFlow, s.upperOf c⟩ : Member) ∈ s.members .production :=
    List.mem_map.2 ⟨c, (Laws.mem_wellsOf ..).2 ⟨role, active⟩, rfl⟩
  by_cases h : 0 ≤ spareOf s
  · exact (sharedOut_bounds (shared h) h legal).1 _ member
  · have none_given : productionGift s = fun _ => 0 := short (not_le.1 h)
    rw [none_given]
    exact ⟨le_refl _, legal.2.2 _ member⟩

/-- The flow of an allocation: what is fixed, every active well's MIN_FLOW and what the passes gave. -/
theorem plan_flow (s : State) : s.plan.flow = s.startingFlow .production + s.heldFlow + minSum (s.members .production)
    + ((s.members .production).map fun m => productionGift s m.well).sum := by
  have active : targetSum (activeTargets s.bbu.ceiling (s.startingFlow .production + s.heldFlow) (s.members .production))
      = minSum (s.members .production) + ((s.members .production).map fun m => productionGift s m.well).sum := by
    rw [Laws.activeTargets_eq]
    unfold targetSum minSum State.members productionGift
    simp only [List.map_map, ← List.sum_map_add]
    rfl
  have starting : targetSum (s.startingTargets .production) = s.startingFlow .production := by
    unfold targetSum State.startingTargets State.startingFlow
    rw [List.map_map]
    rfl
  have total : s.plan.flow = targetSum (activeTargets s.bbu.ceiling (s.startingFlow .production + s.heldFlow)
      (s.members .production) ++ s.startingTargets .production) + s.heldFlow := rfl
  have append (a b : List (WellNo × Int)) : targetSum (a ++ b) = targetSum a + targetSum b := by simp [targetSum]
  rw [total, append, active, starting]
  omega

/-- The target an allocation gives a production well. -/
theorem rowOf_production {c : WellNo} (role : s.role c = .production) : (s.rowOf s.plan c).target
    = if s.classOf c = .active then some (s.wellSet c .minFlow + productionGift s c)
      else if s.classOf c = .starting then some (s.wellSet c .minFlow) else none := by
  have prod : s.plan.production.lookup c = if s.classOf c = .active then
      some (s.wellSet c .minFlow + productionGift s c)
      else if s.classOf c = .starting then some (s.wellSet c .minFlow) else none := by
    refine (Laws.roleTargets_lookup s .production s.bbu.ceiling _ c).trans ?_
    simp only [role, true_and]
    rfl
  have other : s.plan.reinjection.lookup c = none := by
    refine (Laws.roleTargets_lookup s .reinjection _ _ c).trans ?_
    rw [if_neg, if_neg] <;> simp [role]
  show s.plan.targetOf c = _
  unfold Plan.targetOf
  rw [other, ← prod]
  cases s.plan.production.lookup c <;> rfl

theorem allocate_rows (s : State) (c : WellNo) : s.allocate.bbu.rows.get c = s.rowOf s.plan c :=
  Bank.get_ofFn ..

/-! ### The guarantee (R132) -/

/-- A production target lies within the well's flows, and a RUNNING well's under its flash cap. -/
theorem productionTarget_bounds (hw : s.wellsLegal) (ho : s.ssl.settings.inOrder) {c : WellNo} {v : Int}
    (role : s.role c = .production) (hv : (s.rowOf s.plan c).target = some v) :
    s.wellSet c .minFlow ≤ v ∧ v ≤ s.wellSet c .maxFlow
      ∧ ∀ cap, s.bbu.caps.get c = some cap → (s.wcc.get c).state = .running → v ≤ cap := by
  have flows : s.wellSet c .minFlow ≤ s.wellSet c .maxFlow := (ho.1 c).2
  rw [rowOf_production role] at hv
  split at hv
  next active =>
    obtain ⟨least, most⟩ := (productionGift_bounds hw ho).2.1 c role active
    obtain rfl := Option.some.inj hv
    cases hc : s.bbu.caps.get c with
    | none =>
      have upper : s.upperOf c = s.wellSet c .maxFlow := by simp [State.upperOf, role, hc]
      exact ⟨by omega, by omega, nofun⟩
    | some cap =>
      have upper : s.upperOf c = min (s.wellSet c .maxFlow) cap := by simp [State.upperOf, role, hc]
      refine ⟨by omega, by omega, fun x hx _ => ?_⟩
      obtain rfl := Option.some.inj hx
      omega
  next =>
    split at hv
    next starting =>
      obtain rfl := Option.some.inj hv
      refine ⟨le_refl _, flows, fun cap _ running => ?_⟩
      unfold State.classOf at starting
      rw [running] at starting
      dsimp only at starting
      split at starting <;> exact absurd starting (by decide)
    next => exact absurd hv nofun

theorem brineOf_eq (flow : Int) : s.brineOf flow = (flow * (1000 - s.balSet .steamFraction) + 999) / 1000 := by
  unfold State.brineOf ceilDiv
  congr 1
  omega

/-- The ceiling is no more than what the reinjection capacity takes as brine. -/
def CeilingLimited (s : State) : Prop :=
  s.bbu.ceiling ≤ s.bbu.capacity * 1000 / (1000 - s.balSet .steamFraction)

variable (limited : CeilingLimited s) (fraction : s.balSet .steamFraction ≤ 500)

include limited fraction in
theorem brine_within {flow : Int} (h : flow ≤ s.bbu.ceiling) : s.brineOf flow ≤ s.bbu.capacity := by
  have positive : 0 < 1000 - s.balSet .steamFraction := by omega
  have flow_le : flow * (1000 - s.balSet .steamFraction) ≤ s.bbu.capacity * 1000 :=
    (Int.le_ediv_iff_mul_le positive).1 (h.trans limited)
  unfold State.brineOf ceilDiv
  omega

include limited fraction in
theorem brineOver_false (hw : s.wellsLegal) (ho : s.ssl.settings.inOrder)
    (h : s.plan.minBrine ≤ s.bbu.capacity) : s.brineOf s.plan.flow ≤ s.bbu.capacity := by
  obtain ⟨short, _, total⟩ := productionGift_bounds hw ho
  have flow := plan_flow s
  by_cases spare : 0 ≤ spareOf s
  · refine brine_within limited fraction ?_
    have sum := total spare
    unfold spareOf at sum
    omega
  · have none_given : ((s.members .production).map fun m => productionGift s m.well).sum = 0 := by
      rw [short (not_le.1 spare)]
      simp
    rw [flow, none_given, add_zero]
    exact h

include limited fraction in
theorem brineOver_true (hw : s.wellsLegal) (ho : s.ssl.settings.inOrder)
    (h : s.bbu.capacity < s.plan.minBrine) : productionGift s = fun _ => 0 := by
  refine (productionGift_bounds hw ho).1 (not_le.1 fun spare => absurd h (not_lt.2 ?_))
  refine brine_within limited fraction ?_
  unfold spareOf at spare
  omega

end Plan

theorem ceiling_limited (s : State) : CeilingLimited { s with bbu := s.withCeiling } := by
  unfold CeilingLimited
  show s.withCeiling.ceiling ≤ s.withCeiling.brineLimit
  unfold State.withCeiling
  dsimp only
  split
  · exact (min_le_left _ _).trans (min_le_right _ _)
  · exact min_le_right _ _

/-- Settles O45: the bounds of the passes, and the ceiling under the brine limit. -/
theorem brineStaysWithinCapacity : Obligations.BrineStaysWithinCapacity := by
  intro s c old new k hw ho hr role
  obtain ⟨m, hm⟩ : ∃ m, m = { s.took (.bbuWellState c (old, new) k) with
    bbu := (s.took (.bbuWellState c (old, new) k)).withCeiling } := ⟨_, rfl⟩
  have limited : CeilingLimited m := hm ▸ ceiling_limited _
  have fraction : m.balSet .steamFraction ≤ 500 := hm ▸ (hr (.balance .steamFraction)).2
  have hwm : m.wellsLegal := hm ▸ hw
  have hom : m.ssl.settings.inOrder := hm ▸ ho
  have raised : m.allocate.bbu.brineOver = decide (m.bbu.capacity < m.plan.minBrine) := rfl
  refine ⟨m.allocate, hm ▸ exec_then rfl (.inr role), fun w v produces hv => ?_, fun h => ?_, fun h w v produces hv => ?_⟩
  · rw [allocate_rows] at hv
    have bounds := productionTarget_bounds hwm hom (hm ▸ produces) hv
    rw [hm] at bounds
    exact bounds
  · have within : m.plan.minBrine ≤ m.bbu.capacity := by
      rw [raised] at h
      exact not_lt.1 (of_decide_eq_false h)
    have brine := brineOver_false limited fraction hwm hom within
    rw [brineOf_eq] at brine
    rw [hm] at brine ⊢
    exact brine
  · have none_given := brineOver_true limited fraction hwm hom (of_decide_eq_true (raised ▸ h))
    rw [allocate_rows, rowOf_production (hm ▸ produces), none_given, add_zero] at hv
    have least : m.wellSet w .minFlow = s.wellSet w .minFlow := by rw [hm]; rfl
    rw [least] at hv
    split at hv
    next => exact (Option.some.inj hv).symm
    next =>
      split at hv
      next => exact (Option.some.inj hv).symm
      next => exact absurd hv nofun

end Sys2Proof.Proofs

/-! PROOFS. The field link: queues, slots, retirements, exchanges and their frames (chapter 8). -/

namespace Sys2Proof.Proofs

open Sys2Proof.Machine

/-! ### Queues and slots (R137 to R141) -/

section Slots

variable {s : State}

theorem exec_setPlaced_gone {o : SetOrder} (h : s.entryOfOrder o = none) :
    exec (.setPlaced o) s = .next (s.took (.setPlaced o)) := by
  show execSetPlaced o s = _
  have gone : (s.took (.setPlaced o)).entryOfOrder o = none := h
  dsimp only [execSetPlaced]
  rw [gone]

theorem exec_setPlaced_station {o : SetOrder} {e : EntryNo} (h : s.entryOfOrder o = some e) :
    exec (.setPlaced o) s = .next (((s.took (.setPlaced o)).placeSetAt e o).arbitrate) := by
  show execSetPlaced o s = _
  have stands : (s.took (.setPlaced o)).entryOfOrder o = some e := h
  dsimp only [execSetPlaced]
  rw [stands]

theorem placeSetAt_eq (e : EntryNo) (o : SetOrder) : s.placeSetAt e o = { s with flc := { s.flc with
    setQ := placeSet e o s.flc.setQ
    stations := s.flc.stations.set e { s.flc.stations.get e with lastDemand := some o } } } := by
  unfold State.placeSetAt State.setStation
  rw [Laws.modify_eq]

theorem exec_tripPlaced_gone {x : TripStation} (h : s.entryOfTrip x = none) :
    exec (.tripPlaced x) s = .next (s.took (.tripPlaced x)) := by
  show execTripPlaced x s = _
  have gone : (s.took (.tripPlaced x)).entryOfTrip x = none := h
  dsimp only [execTripPlaced]
  rw [gone]

theorem exec_tripPlaced_station {x : TripStation} {e : EntryNo} (h : s.entryOfTrip x = some e) :
    exec (.tripPlaced x) s = .next (State.arbitrate { s.took (.tripPlaced x) with flc := { s.flc with
      tripQ := placeTrip e s.flc.tripQ } }) := by
  show execTripPlaced x s = _
  have stands : (s.took (.tripPlaced x)).entryOfTrip x = some e := h
  dsimp only [execTripPlaced]
  rw [stands]
  rfl

theorem mem_pollsFor (pos : Nat) (e : EntryNo) : e ∈ s.pollsFor pos ↔
    (s.station e).kind ≠ .none ∧ (s.entrySet e .pollMask).toNat.testBit pos = true := by
  simp [State.pollsFor, State.dueAt, entryNos]

theorem pollsFor_nodup (pos : Nat) : (s.pollsFor pos).Nodup :=
  (List.perm_insertionSort _ _).nodup_iff.2 ((List.nodup_finRange 24).filter _)

theorem pollsFor_sorted (pos : Nat) :
    (s.pollsFor pos).Pairwise fun a b => (s.station a).address ≤ (s.station b).address :=
  List.pairwise_insertionSort _ _

theorem stationOf_eq (e : EntryNo) : s.stationOf e = (s.flc.retiring.lookup e).getD (s.station e) := by
  unfold State.stationOf
  cases s.flc.retiring.lookup e <;> rfl

theorem inFlightWith_iff {e : EntryNo} : s.inFlightWith e = true ↔ ∃ f, s.flc.flight = some f ∧ f.entry = e := by
  unfold State.inFlightWith
  cases s.flc.flight <;> simp

end Slots

/-- Settles O47: each placement by the queue, the slot's end by its new list, a retirement by the exchange in
flight. -/
theorem queuesAndSlots : Obligations.QueuesAndSlots := by
  intro s
  refine ⟨fun o => exec_setPlaced_gone, fun o e h => ⟨_, _, exec_setPlaced_station h, Laws.placeSet_new e o _,
    fun before x after queue owner others => ?_, ?_⟩, fun x => exec_tripPlaced_gone,
    fun x e h => ⟨_, _, exec_tripPlaced_station h, Laws.placeTrip_new e _,
      fun before y after queue owner others => ?_, Laws.arbitrate_arbitrates _⟩,
    ⟨_, _, _, rfl, rfl, mem_pollsFor _, pollsFor_nodup _, pollsFor_sorted _, fun st hst => ?_⟩,
    fun e old => ⟨fun f flight owner => ?_, fun others => ⟨_, rfl, ?_⟩⟩⟩
  · rw [queue]
    exact Laws.placeSet_again e o before x after owner others
  · rw [placeSetAt_eq]
    exact Laws.arbitrate_arbitrates _
  · rw [queue]
    exact Laws.placeTrip_again e before y after owner others
  · obtain rfl : st = s.stationOf := funext fun e => (hst e).trans (stationOf_eq e).symm
    exact Laws.arbitrate_arbitrates _
  · exact exec_as rfl (Laws.retireStation_waits (s.took _) e old (inFlightWith_iff.2 ⟨f, flight, owner⟩))
  · refine Laws.retireStation_retires _ e old (Bool.eq_false_iff.2 fun on => ?_)
    obtain ⟨f, flight, owner⟩ := inFlightWith_iff.1 on
    exact others f flight owner

/-! ### Frames received (R142, R146) -/

/-- The code of a quality. -/
def qualityCode (q : Quality) : Nat := match q with | .good => 0 | .suspect => 1 | .fault => 2

theorem qualityOf_some {b : Byte} {q : Quality} : qualityOf b = some q ↔ b.toNat = qualityCode q := by
  have zero : b = 0 ↔ b.toNat = 0 := by bv_omega
  have one : b = 1 ↔ b.toNat = 1 := by bv_omega
  have two : b = 2 ↔ b.toNat = 2 := by bv_omega
  unfold qualityOf
  split_ifs with h0 h1 h2
  · simp [zero.1 h0, qualityCode]
    cases q <;> simp
  · simp [one.1 h1, qualityCode]
    cases q <;> simp
  · simp [two.1 h2, qualityCode]
    cases q <;> simp
  · rw [zero] at h0
    rw [one] at h1
    rw [two] at h2
    cases q <;> simp [qualityCode, h0, h1, h2]

theorem qualityOf_none {b : Byte} (h : 2 < b.toNat) : qualityOf b = none := by
  cases hq : qualityOf b with
  | none => rfl
  | some q =>
    have code := qualityOf_some.1 hq
    cases q <;> simp [qualityCode] at code <;> omega

theorem qualityOf_known {b : Byte} (h : b.toNat ≤ 2) : ∃ q, qualityOf b = some q := by
  obtain h | h | h : b.toNat = 0 ∨ b.toNat = 1 ∨ b.toNat = 2 := by omega
  · exact ⟨.good, qualityOf_some.2 h⟩
  · exact ⟨.suspect, qualityOf_some.2 h⟩
  · exact ⟨.fault, qualityOf_some.2 h⟩

/-- A list with at least five more elements than a bound begins with five. -/
theorem five_of_length {n : Nat} {l : List Byte} (h : 5 * (n + 1) ≤ l.length) :
    ∃ a b c d q rest, l = a :: b :: c :: d :: q :: rest ∧ 5 * n ≤ rest.length := by
  match l, h with
  | a :: b :: c :: d :: q :: rest, h =>
    refine ⟨a, b, c, d, q, rest, rfl, ?_⟩
    simp only [List.length_cons] at h
    omega

theorem getD_five (a b c d q : Byte) (rest : List Byte) (j k : Nat) :
    (a :: b :: c :: d :: q :: rest).getD (5 * (j + 1) + k) 0 = rest.getD (5 * j + k) 0 := by
  rw [show 5 * (j + 1) + k = 5 * j + k + 5 by omega]
  rfl

/-- The value entries of a body whose quality codes are known: one to an entry, with its four value bytes. -/
theorem valueEntries_some : ∀ (n : Nat) (body : List Byte), 5 * n ≤ body.length →
    (∀ j < n, (body.getD (5 * j + 4) 0).toNat ≤ 2) → ∃ l, valueEntries n body = some l ∧ l.length = n
      ∧ ∀ (j : Nat) (v : Int) (q : Quality), l[j]? = some (v, q) →
        v = s32 (body.getD (5 * j) 0) (body.getD (5 * j + 1) 0) (body.getD (5 * j + 2) 0) (body.getD (5 * j + 3) 0)
        ∧ (body.getD (5 * j + 4) 0).toNat = qualityCode q := by
  intro n
  induction n with
  | zero => exact fun body _ _ => ⟨[], by rw [valueEntries], rfl, by simp⟩
  | succ n ih =>
    intro body length known
    obtain ⟨a, b, c, d, x, rest, rfl, rest_length⟩ := five_of_length length
    obtain ⟨q, hq⟩ := qualityOf_known (known 0 (by omega))
    obtain ⟨l, entries, count, reads⟩ := ih rest rest_length fun j hj => by
      have := known (j + 1) (by omega)
      rwa [getD_five] at this
    have first : qualityOf x = some q := hq
    refine ⟨(s32 a b c d, q) :: l, ?_, by simp [count], fun j v r hj => ?_⟩
    · rw [valueEntries, first, entries]
    · cases j with
      | zero =>
        obtain ⟨rfl, rfl⟩ : s32 a b c d = v ∧ q = r := by simpa using hj
        exact ⟨rfl, qualityOf_some.1 first⟩
      | succ j =>
        have := reads j v r (by simpa using hj)
        rw [getD_five, getD_five, getD_five, getD_five]
        exact this

/-- A quality code that is not one fails the whole body. -/
theorem valueEntries_none : ∀ (n : Nat) (body : List Byte) (j : Nat), 5 * n ≤ body.length → j < n →
    2 < (body.getD (5 * j + 4) 0).toNat → valueEntries n body = none := by
  intro n
  induction n with
  | zero => exact fun _ j _ hj => absurd hj (Nat.not_lt_zero j)
  | succ n ih =>
    intro body j length hj unknown
    obtain ⟨a, b, c, d, x, rest, rfl, rest_length⟩ := five_of_length length
    rw [valueEntries]
    cases j with
    | zero => rw [qualityOf_none (b := x) unknown]
    | succ j =>
      rw [getD_five] at unknown
      rw [ih rest j rest_length (by omega) unknown]
      cases qualityOf x <;> rfl

theorem answerDue_eq (x : Exchange) (k : Kind) : answerDue x k = (answerKind x, answerLength x k) := by
  cases x <;> cases k <;> rfl

theorem completeFrame_short {l : List Byte} (h : l.length < 3) : completeFrame l = none := by
  match l, h with
  | [], _ => rfl
  | [_], _ => rfl
  | [_, _], _ => rfl

theorem completeFrame_partial {a k n : Byte} {rest : List Byte} (h : rest.length < n.toNat + 2) :
    completeFrame (a :: k :: n :: rest) = none := if_pos h

/-- A whole frame is taken as it stands, whatever follows it. -/
theorem completeFrame_whole {a k n c d : Byte} {body : List Byte} (more : List Byte) (h : body.length = n.toNat) :
    completeFrame (a :: k :: n :: body ++ c :: d :: more)
      = some ⟨a, k, body, decide (crcBytes (a :: k :: n :: body) = [c, d])⟩ := by
  have takes : (body ++ c :: d :: more).take n.toNat = body := by rw [← h, List.take_left]
  have drops : (body ++ c :: d :: more).drop n.toNat = c :: d :: more := by rw [← h, List.drop_left]
  show completeFrame (a :: k :: n :: (body ++ c :: d :: more)) = _
  rw [completeFrame, if_neg (by simp [h]), takes, drops]
  rfl

section Judge

variable {x : Exchange} {st : Station} {r : FieldReply}

theorem judge_badCheck (h : r.crcMatches = false) : judge x st r = (.badCheck, []) := if_pos (by simp [h])

theorem judge_wrongAddr (h : r.crcMatches = true) (ha : r.address.toNat ≠ st.address) :
    judge x st r = (.wrongAddr, []) := (if_neg (by simp [h])).trans (if_pos ha)

/-- The answer due has its kind and length, and a poll's quality codes are known. -/
def WellFormed (x : Exchange) (st : Station) (r : FieldReply) : Prop :=
  (r.kind, r.body.length) = answerDue x st.kind
  ∧ (x = .poll → ∀ j, j < (stationQtys st.kind 0).length → (r.body.getD (5 * j + 4) 0).toNat ≤ 2)

/-- The outcome of the answer due: a poll's by its value entries. -/
def dueOutcome (x : Exchange) (k : Kind) (body : List Byte) : Outcome × List (Int × Quality) :=
  match x with
  | .poll => match valueEntries (entryCount k) body with
    | some l => (.good, l)
    | none => (.badForm, [])
  | .set => (.good, [])
  | .trip => (.good, [])

theorem dueOutcome_poll {k : Kind} {body : List Byte} {l : List (Int × Quality)}
    (h : valueEntries (entryCount k) body = some l) : dueOutcome .poll k body = (.good, l) := by
  rw [dueOutcome, h]

theorem dueOutcome_unknown {k : Kind} {body : List Byte} (h : valueEntries (entryCount k) body = none) :
    dueOutcome .poll k body = (.badForm, []) := by
  rw [dueOutcome, h]

theorem judge_due (h : r.crcMatches = true) (ha : r.address.toNat = st.address)
    (due : (r.kind, r.body.length) = answerDue x st.kind) : judge x st r = dueOutcome x st.kind r.body := by
  rw [answerDue_eq, Prod.mk.injEq] at due
  exact (if_neg (by simp [h])).trans ((if_neg (by simp [ha])).trans
    ((if_neg fun h => h due.1).trans ((if_neg fun h => h due.2).trans rfl)))

theorem entries_fit (due : (r.kind, r.body.length) = answerDue .poll st.kind) :
    5 * entryCount st.kind ≤ r.body.length := by
  rw [answerDue_eq, Prod.mk.injEq] at due
  rw [due.2]
  exact Nat.le_add_right _ _

theorem judge_badForm (h : r.crcMatches = true) (ha : r.address.toNat = st.address) (hf : ¬WellFormed x st r) :
    judge x st r = (.badForm, []) := by
  by_cases due : (r.kind, r.body.length) = answerDue x st.kind
  · rw [judge_due h ha due]
    obtain ⟨rfl, j, hj, unknown⟩ : x = .poll ∧ ∃ j, j < (stationQtys st.kind 0).length
        ∧ 2 < (r.body.getD (5 * j + 4) 0).toNat := by
      unfold WellFormed at hf
      push Not at hf
      exact hf due
    exact dueOutcome_unknown (valueEntries_none _ _ j (entries_fit due) hj unknown)
  · refine (if_neg (by simp [h])).trans ((if_neg (by simp [ha])).trans ?_)
    rw [answerDue_eq, Prod.mk.injEq, not_and_or] at due
    by_cases kind : r.kind = answerKind x
    · exact (if_neg fun h => h kind).trans (if_pos (due.resolve_left fun h => h kind))
    · exact if_pos kind

theorem judge_good (h : r.crcMatches = true) (ha : r.address.toNat = st.address) (hf : WellFormed x st r) :
    ∃ l, judge x st r = (.good, l) ∧ (x = .poll → l.length = (stationQtys st.kind 0).length
      ∧ ∀ (j : Nat) (v : Int) (q : Quality), l[j]? = some (v, q) →
        v = s32 (r.body.getD (5 * j) 0) (r.body.getD (5 * j + 1) 0) (r.body.getD (5 * j + 2) 0)
          (r.body.getD (5 * j + 3) 0)
        ∧ (r.body.getD (5 * j + 4) 0).toNat = qualityCode q) := by
  obtain ⟨due, known⟩ := hf
  rw [judge_due h ha due]
  cases x with
  | poll =>
    obtain ⟨l, entries, count, reads⟩ := valueEntries_some _ _ (entries_fit due) (known rfl)
    exact ⟨l, dueOutcome_poll entries, fun _ => ⟨count, reads⟩⟩
  | set => exact ⟨[], rfl, nofun⟩
  | trip => exact ⟨[], rfl, nofun⟩

end Judge

section Replies

variable {s : State}

theorem exec_reply_idle (l : List Byte) (h : s.flc.flight = none) : exec (.fieldReplyReceived l) s = .next s := by
  show execFieldReplyReceived l s = _
  rw [execFieldReplyReceived, h]

theorem exec_reply_partial {l : List Byte} (h : completeFrame l = none) : exec (.fieldReplyReceived l) s = .next s := by
  show execFieldReplyReceived l s = _
  rw [execFieldReplyReceived, h]
  cases s.flc.flight <;> rfl

theorem exec_reply {l : List Byte} {f : Flight} {r : FieldReply} (hf : s.flc.flight = some f)
    (h : completeFrame l = some r) : exec (.fieldReplyReceived l) s = .next (s.endExchange f
      (judge f.exchange f.station r).1 (judge f.exchange f.station r).2
      (r.body.getD (5 * (stationQtys f.station.kind 0).length) 0)) := by
  show execFieldReplyReceived l s = _
  rw [execFieldReplyReceived, hf, h]
  rfl

theorem exec_timeout_idle (h : s.flc.flight = none) : exec .replyTimeout s = .next s := by
  show execReplyTimeout s = _
  rw [execReplyTimeout, h]

theorem exec_timeout {f : Flight} (h : s.flc.flight = some f) :
    exec .replyTimeout s = .next (s.endExchange f .noReply [] 0) := by
  show execReplyTimeout s = _
  rw [execReplyTimeout, h]

end Replies

/-- Settles O48: the timeout, and the first complete frame by the first check that holds. -/
theorem exchangesEndInOneOutcome : Obligations.ExchangesEndInOneOutcome := by
  intro s
  refine ⟨fun l h => ⟨exec_reply_idle l h, exec_timeout_idle h⟩, fun f hf => ⟨⟨_, exec_timeout hf,
    Laws.endExchange_ends ..⟩, fun l h => exec_reply_partial (completeFrame_short h),
    fun a k n rest h => exec_reply_partial (completeFrame_partial h), fun a k n c d body more length => ?_⟩⟩
  obtain ⟨r, hr⟩ : ∃ r : FieldReply, r = ⟨a, k, body, decide (crcBytes (a :: k :: n :: body) = [c, d])⟩ := ⟨_, rfl⟩
  have whole : completeFrame (a :: k :: n :: body ++ c :: d :: more) = some r :=
    hr ▸ completeFrame_whole more length
  have body_eq : r.body = body := by rw [hr]
  refine ⟨_, _, _, exec_reply hf whole, by rw [← body_eq]; exact Laws.endExchange_ends .., fun check form check_iff form_iff => ?_⟩
  have matches_iff : r.crcMatches = true ↔ check := by
    rw [check_iff, hr]
    exact decide_eq_true_iff
  have formed_iff : WellFormed f.exchange f.station r ↔ form := by
    rw [form_iff, ← length, hr]
    rfl
  refine ⟨fun h => ?_, fun h ha => ?_, fun h ha hform => ?_, fun h ha hform => ?_⟩
  · rw [judge_badCheck (Bool.eq_false_iff.2 fun on => h (matches_iff.1 on))]
  · rw [judge_wrongAddr (matches_iff.2 h) (by rwa [hr])]
  · rw [judge_badForm (matches_iff.2 h) (by rwa [hr]) fun on => hform (formed_iff.1 on)]
  · obtain ⟨l, good, reads⟩ := judge_good (matches_iff.2 h) (by rwa [hr]) (formed_iff.2 hform)
    rw [good]
    rw [body_eq] at reads
    exact ⟨rfl, reads⟩

/-! ### Frames built (R146) -/

theorem s32_be32 {v : Int} (h : -2147483648 ≤ v) (h' : v < 2147483648) :
    s32 (BitVec.ofInt 8 (v / 16777216)) (BitVec.ofInt 8 (v / 65536)) (BitVec.ofInt 8 (v / 256)) (BitVec.ofInt 8 v) = v := by
  unfold s32
  rw [BitVec.toInt_eq_toNat_bmod]
  simp only [BitVec.toNat_append, BitVec.toNat_ofInt]
  rw [← Nat.shiftLeft_add_eq_or_of_lt, ← Nat.shiftLeft_add_eq_or_of_lt, ← Nat.shiftLeft_add_eq_or_of_lt]
  · simp only [Nat.shiftLeft_eq]
    rw [Int.bmod_def]
    split <;> omega
  all_goals omega

/-- A quality as its byte. -/
def qualityByte (q : Quality) : Byte := match q with | .good => 0 | .suspect => 1 | .fault => 2

/-- A value entry of a POLL_REPLY as its bytes. -/
def entryCode (x : Int × Quality) : List Byte := be32 x.1 ++ [qualityByte x.2]

theorem entryCode_length (x : Int × Quality) : (entryCode x).length = 5 := rfl

theorem entries_length (values : List (Int × Quality)) : (values.flatMap entryCode).length = 5 * values.length := by
  simp [List.length_flatMap, entryCode_length, Nat.mul_comm]

theorem qualityOf_byte (q : Quality) : qualityOf (qualityByte q) = some q := by
  cases q <;> rfl

/-- The entries built are read back, whatever follows them. -/
theorem valueEntries_built (tail : List Byte) : ∀ values : List (Int × Quality),
    (∀ v q, (v, q) ∈ values → -2147483648 ≤ v ∧ v < 2147483648) →
    valueEntries values.length (values.flatMap entryCode ++ tail) = some values := by
  intro values
  induction values with
  | nil => exact fun _ => by rw [List.length_nil, valueEntries]
  | cons x l ih =>
    intro range
    obtain ⟨v, q⟩ := x
    obtain ⟨low, high⟩ := range v q (by simp)
    have rest := ih fun v q h => range v q (List.mem_cons_of_mem _ h)
    have bytes : ((v, q) :: l).flatMap entryCode ++ tail = BitVec.ofInt 8 (v / 16777216)
        :: BitVec.ofInt 8 (v / 65536) :: BitVec.ofInt 8 (v / 256) :: BitVec.ofInt 8 v
        :: qualityByte q :: (l.flatMap entryCode ++ tail) := rfl
    rw [bytes, List.length_cons, valueEntries, qualityOf_byte, rest, s32_be32 low high]

/-- The bytes that end a frame. -/
theorem crcBytes_two (l : List Byte) : ∃ c d, crcBytes l = [c, d] := ⟨_, _, rfl⟩

theorem fieldFrame_eq (a : Nat) (k : Byte) (body : List Byte) : fieldFrame a k body
    = (BitVec.ofNat 8 a :: k :: BitVec.ofNat 8 body.length :: body)
      ++ crcBytes (BitVec.ofNat 8 a :: k :: BitVec.ofNat 8 body.length :: body) := by
  unfold fieldFrame be8
  rw [BitVec.ofInt_natCast, BitVec.ofInt_natCast]
  rfl

theorem entryCount_le (k : Kind) : (stationQtys k 0).length ≤ 8 := by cases k <;> decide

/-- Settles O49: the layouts by their definitions; a POLL_REPLY built by its table has the answer's kind and
length, and its entries are read back one by one. -/
theorem pollRepliesAreReadBack : Obligations.PollRepliesAreReadBack := by
  refine ⟨fun c v => ⟨rfl, rfl⟩, fun o => ?_, fun a k body => ⟨_, rfl, fieldFrame_eq a k body⟩,
    fun s f values extra body more flight poll some address count range hb => ?_⟩
  · obtain ⟨control, speed, load, admission, opens⟩ := o
    cases control <;> cases opens <;> rfl
  · obtain ⟨tail, htail⟩ : ∃ tail : List Byte, tail = if f.station.kind = .well ∨ f.station.kind = .turbine
        ∨ f.station.kind = .analyser then [extra] else [] := ⟨_, rfl⟩
    have body_eq : body = values.flatMap entryCode ++ tail := hb.trans (by rw [htail]; rfl)
    have tail_length : tail.length = extraLength f.station.kind := by
      rw [htail]
      cases f.station.kind <;> rfl
    have length : body.length = answerLength .poll f.station.kind := by
      rw [body_eq, List.length_append, entries_length, tail_length, count]
      rfl
    have small : body.length < 256 := by
      have := entryCount_le f.station.kind
      rw [body_eq, List.length_append, entries_length, tail_length, count]
      unfold extraLength
      split <;> omega
    obtain ⟨c, d, crc⟩ := crcBytes_two (BitVec.ofNat 8 f.station.address :: 0x91 :: BitVec.ofNat 8 body.length :: body)
    have frame : fieldFrame f.station.address 0x91 body ++ more
        = BitVec.ofNat 8 f.station.address :: 0x91 :: BitVec.ofNat 8 body.length :: body ++ c :: d :: more := by
      rw [fieldFrame_eq, crc, List.append_assoc]
      rfl
    have whole := completeFrame_whole (a := BitVec.ofNat 8 f.station.address) (k := 0x91) (c := c) (d := d) more
      (show body.length = (BitVec.ofNat 8 body.length).toNat by rw [BitVec.toNat_ofNat]; omega)
    rw [← frame] at whole
    have good : judge f.exchange f.station ⟨BitVec.ofNat 8 f.station.address, 0x91, body,
        decide (crcBytes (BitVec.ofNat 8 f.station.address :: 0x91 :: BitVec.ofNat 8 body.length :: body) = [c, d])⟩
        = (.good, values) := by
      rw [judge_due (decide_eq_true crc) (by rw [BitVec.toNat_ofNat]; omega)
        (by rw [answerDue_eq, poll, ← length]; rfl), poll]
      refine dueOutcome_poll ?_
      rw [show entryCount f.station.kind = values.length from count.symm]
      exact (congrArg _ body_eq).trans (valueEntries_built tail values range)
    have done := exec_reply flight whole
    rw [good] at done
    refine ⟨_, done, _, Laws.endExchange_ends .., fun has => ?_⟩
    rw [if_pos has] at htail
    have offset : 5 * (stationQtys f.station.kind 0).length = (values.flatMap entryCode).length := by
      rw [entries_length, count]
    show body.getD (5 * (stationQtys f.station.kind 0).length) 0 = extra
    rw [offset, body_eq, htail]
    simp

end Sys2Proof.Proofs

/-! PROOFS. Sequences: the requests, and the waits that end (R151, R152, R154, R156 to R159). -/

namespace Sys2Proof.Proofs

open Sys2Proof.Machine

/-! ### The requests (R151, R152, R158, R159) -/

section Requests

variable {s : State} {k : SlotNo}

theorem activeSlot_iff {r : Slot} : activeSlot r.state = true ↔ r.runs := decide_eq_true_iff

theorem runnable_iff {r : Slot} : runnable r.state = true ↔ ¬r.runs ∧ r.state ≠ .empty := by
  unfold runnable Slot.runs
  cases r.state <;> simp

theorem seqLoad_runs (l : List Step) (h : (s.sqr.get k).runs) : State.seqLoad l k s = s.says .refusedState :=
  if_pos (activeSlot_iff.2 h)

theorem seqLoad_size {l : List Step} (h : ¬(s.sqr.get k).runs) (size : l = [] ∨ 32 < l.length) :
    State.seqLoad l k s = s.says .badValue :=
  (if_neg fun on => h (activeSlot_iff.1 on)).trans (if_pos size)

/-- The first step that is not well formed. -/
theorem firstBad {n : Nat} {before : List Step} {st : Step} (after : List Step) (fit : ∀ x ∈ before, StepFits n x)
    (bad : ¬StepFits n st) : (before ++ st :: after).findIdx? (fun x => !stepOk n x) = some before.length := by
  have ok : before.findIdx? (fun x => !stepOk n x) = none := by
    rw [List.findIdx?_eq_none_iff]
    intro x hx
    rw [(Laws.stepOk_iff _ _).2 (fit x hx)]
    rfl
  have fails : stepOk n st = false := Bool.eq_false_iff.2 fun on => bad ((Laws.stepOk_iff _ _).1 on)
  rw [List.findIdx?_append, ok, List.findIdx?_cons, fails]
  simp

theorem allFit {l : List Step} (fit : ∀ x ∈ l, StepFits l.length x) :
    l.findIdx? (fun x => !stepOk l.length x) = none := by
  rw [List.findIdx?_eq_none_iff]
  intro x hx
  rw [(Laws.stepOk_iff _ _).2 (fit x hx)]
  rfl

theorem seqLoad_bad {l : List Step} {n : Nat} (h : ¬(s.sqr.get k).runs) (steps : l ≠ []) (size : l.length ≤ 32)
    (bad : l.findIdx? (fun x => !stepOk l.length x) = some n) :
    State.seqLoad l k s = s.says .badValue (.badIndex n) := by
  rw [State.seqLoad, if_neg fun on => h (activeSlot_iff.1 on), if_neg (by simp [steps, Config.maxSteps, size]), bad]

theorem seqLoad_taken {l : List Step} (h : ¬(s.sqr.get k).runs) (steps : l ≠ []) (size : l.length ≤ 32)
    (fit : ∀ x ∈ l, StepFits l.length x) : State.seqLoad l k s = (s.moveSlot k { s.sqr.get k with
      state := .loaded, steps := l, ptr := 0, timer := .stopped, suspendedFrom := none
      pendingFailure := none, lastFailure := none }, .ok, .none) := by
  rw [State.seqLoad, if_neg fun on => h (activeSlot_iff.1 on), if_neg (by simp [steps, Config.maxSteps, size]),
    allFit fit]

theorem claimsMeet_iff (l : List Target) : s.claimsMeet k l = true ↔
    ∃ j x, j ≠ k ∧ (s.sqr.get j).runs ∧ x ∈ (s.sqr.get j).claims ∧ x ∈ l := by
  unfold State.claimsMeet
  rw [List.any_eq_true]
  constructor
  · rintro ⟨j, -, hj⟩
    rw [Bool.and_eq_true, Bool.and_eq_true, List.any_eq_true] at hj
    obtain ⟨⟨other, active⟩, x, hx, held⟩ := hj
    exact ⟨j, x, of_decide_eq_true other, activeSlot_iff.1 active, of_decide_eq_true held, hx⟩
  · rintro ⟨j, x, other, runs, held, hx⟩
    refine ⟨j, List.mem_finRange j, ?_⟩
    rw [Bool.and_eq_true, Bool.and_eq_true, List.any_eq_true]
    exact ⟨⟨decide_eq_true other, activeSlot_iff.2 runs⟩, x, hx, decide_eq_true held⟩

theorem seqRun_refused (h : (s.sqr.get k).runs ∨ (s.sqr.get k).state = .empty) :
    State.seqRun k s = s.says .refusedState := by
  refine if_pos ?_
  rw [Bool.not_eq_true', Bool.eq_false_iff]
  exact fun on => h.elim (runnable_iff.1 on).1 (runnable_iff.1 on).2

theorem seqRun_claimed (h : ¬(s.sqr.get k).runs) (he : (s.sqr.get k).state ≠ .empty)
    (meets : s.claimsMeet k (claimsOf (s.sqr.get k).steps) = true) : State.seqRun k s = s.says .refusedClaimed :=
  (if_neg (by simp [runnable_iff.2 ⟨h, he⟩])).trans (if_pos meets)

theorem seqRun_taken (h : ¬(s.sqr.get k).runs) (he : (s.sqr.get k).state ≠ .empty)
    (meets : ¬s.claimsMeet k (claimsOf (s.sqr.get k).steps) = true) : State.seqRun k s
      = ((s.moveSlot k { s.sqr.get k with
        state := .running, ptr := 0, timer := .stopped, suspendedFrom := none, pendingFailure := none
        claims := claimsOf (s.sqr.get k).steps }).nextStep k, .ok, .none) :=
  (if_neg (by simp [runnable_iff.2 ⟨h, he⟩])).trans (if_neg meets)

theorem seqSuspend_running (h : (s.sqr.get k).state = .running) : State.seqSuspend k s
    = (s.moveSlot k { s.sqr.get k with state := .suspended, suspendedFrom := some .running }, .ok, .none) := by
  dsimp only [State.seqSuspend]
  rw [h]

theorem seqSuspend_waiting (h : (s.sqr.get k).state = .waiting) : State.seqSuspend k s
    = (s.moveSlot k { s.sqr.get k with
      state := .suspended, suspendedFrom := some .waiting, timer := (s.sqr.get k).timer.freeze }, .ok, .none) := by
  dsimp only [State.seqSuspend]
  rw [h]

theorem seqSuspend_suspended (h : (s.sqr.get k).state = .suspended) : State.seqSuspend k s = s.says .ok := by
  dsimp only [State.seqSuspend]
  rw [h]

theorem seqSuspend_refused (h : ¬(s.sqr.get k).runs) : State.seqSuspend k s = s.says .refusedState := by
  unfold Slot.runs at h
  dsimp only [State.seqSuspend]
  split <;> simp_all

theorem currentHolds_iff : s.currentHolds k = true ↔
    ∃ st, (s.sqr.get k).steps[(s.sqr.get k).ptr]? = some st ∧ s.waitMet st := by
  unfold State.currentHolds Slot.step
  cases (s.sqr.get k).steps[(s.sqr.get k).ptr]? with
  | none => simp
  | some st => simp [Laws.waitHolds_iff]

theorem resumeWait_holds (h : s.currentHolds k = true) : s.resumeWait k = s.advance k := if_pos h

theorem resumeWait_misses (h : ¬s.currentHolds k = true) : s.resumeWait k = s.moveSlot k { s.sqr.get k with
    state := .waiting, timer := (s.sqr.get k).timer.thaw, suspendedFrom := none } := if_neg h

theorem resumeSlot_pending {x : Target} {what : TripStop} (h : (s.sqr.get k).pendingFailure = some (x, what)) :
    s.resumeSlot k = (s.setSlot k { s.sqr.get k with pendingFailure := none }).failStep k (tripStopReason x what) := by
  dsimp only [State.resumeSlot]
  rw [h]

theorem resumeSlot_running (h : (s.sqr.get k).pendingFailure = none)
    (leftAt : (s.sqr.get k).suspendedFrom = some .running ∨ (s.sqr.get k).suspendedFrom = none) :
    s.resumeSlot k = s.runAt k (s.sqr.get k).ptr := by
  dsimp only [State.resumeSlot]
  rw [h]
  rcases leftAt with h | h <;> rw [h]

theorem resumeSlot_waiting (h : (s.sqr.get k).pendingFailure = none)
    (leftAt : (s.sqr.get k).suspendedFrom = some .waiting) : s.resumeSlot k = s.resumeWait k := by
  dsimp only [State.resumeSlot]
  rw [h, leftAt]

theorem resumeSlot_pause (h : (s.sqr.get k).pendingFailure = none)
    (leftAt : (s.sqr.get k).suspendedFrom = some .pause) : s.resumeSlot k = s.advance k := by
  dsimp only [State.resumeSlot]
  rw [h, leftAt]

/-- A suspended slot continues: its pending failure, or what it was suspended from. -/
theorem resumeSlot_resumes (r : Slot) (hr : r = s.sqr.get k) :
    (∀ x what, r.pendingFailure = some (x, what) →
      StepFails k (match what with | .trip => .targetTrip x | .stop => .targetStop x)
        { s with sqr := s.sqr.set k { r with pendingFailure := none } } (s.resumeSlot k))
    ∧ (r.pendingFailure = none →
      (r.suspendedFrom = some .running ∨ r.suspendedFrom = none → RunsAt k r.ptr s (s.resumeSlot k))
      ∧ (r.suspendedFrom = some .pause → MovesOn k s (s.resumeSlot k))
      ∧ (r.suspendedFrom = some .waiting → ∀ held : Prop,
        (held ↔ ∃ st, r.steps[r.ptr]? = some st ∧ s.waitMet st) →
        (held → MovesOn k s (s.resumeSlot k))
        ∧ (¬held → SlotMoves k { r with
          state := .waiting, suspendedFrom := none
          timer := match r.timer with
            | .frozen n => .running n | .stopped => .stopped | .running n => .running n } s (s.resumeSlot k)))) := by
  subst hr
  refine ⟨fun x what pending => ?_, fun quiet => ⟨fun running => ?_, fun pause => ?_,
    fun waiting held held_iff => ⟨fun h => ?_, fun h => ?_⟩⟩⟩
  · rw [resumeSlot_pending pending]
    cases what <;> exact Laws.failStep_fails ..
  · rw [resumeSlot_running quiet running]
    exact Laws.runAt_runs ..
  · rw [resumeSlot_pause quiet pause]
    exact Laws.advance_movesOn k s
  · rw [resumeSlot_waiting quiet waiting, resumeWait_holds (currentHolds_iff.2 (held_iff.1 h))]
    exact Laws.advance_movesOn k s
  · rw [resumeSlot_waiting quiet waiting, resumeWait_misses fun on => h (held_iff.2 (currentHolds_iff.1 on))]
    exact Laws.moveSlot_moves ..

theorem seqAbort_taken (h : (s.sqr.get k).runs) : State.seqAbort k s
    = (s.moveSlot k ((s.sqr.get k).aborted s.svp.plantTime .aborted), .ok, .none) := if_pos (activeSlot_iff.2 h)

theorem seqAbort_refused (h : ¬(s.sqr.get k).runs) : State.seqAbort k s = s.says .refusedState :=
  if_neg fun on => h (activeSlot_iff.1 on)

end Requests

/-- Settles O50: each request by the slot's state. -/
theorem sequenceRequests : Obligations.SequenceRequests := by
  intro s idle
  refine ⟨fun n hn => ⟨fun l => ?_, ?_, ?_, ?_, ?_⟩, fun k r hr => ?_⟩
  iterate 5 exact onlyAnswers_of_serve idle rfl (onSlot_ge hn _ _)
  subst hr
  have serves {i : Instr} {kind : Byte} {f : SlotNo → State → Answer} {u : State} {st : Status} {c : Content}
      (he : exec i s = .next (s.serve kind (onSlot k f))) (ho : f k s.deselect = (u, st, c)) :
      exec i s = .next (u.answer kind st c) := exec_of_serve idle he ((onSlot_fin k f _).trans ho)
  refine ⟨fun l => ⟨fun h => serves rfl (seqLoad_runs (s := s.deselect) l h),
      fun h size => serves rfl (seqLoad_size (s := s.deselect) h size),
      fun h size before st after hl fit bad => ?_, fun h steps size fit => ?_⟩,
    fun h => serves rfl (seqRun_refused (s := s.deselect) h),
    fun meets meets_iff h he => ⟨fun hm => ?_, fun hm => ?_⟩,
    fun h => ⟨_, serves rfl (seqSuspend_running (s := s.deselect) h), Laws.moveSlot_moves ..⟩,
    fun h => ⟨_, serves rfl (seqSuspend_waiting (s := s.deselect) h), ?_⟩,
    fun h => serves rfl (seqSuspend_suspended (s := s.deselect) h),
    fun h => serves rfl (seqSuspend_refused (s := s.deselect) h),
    fun h => serves (f := State.seqResume) rfl (if_neg h),
    fun h => ⟨_, serves (f := State.seqResume) rfl (if_pos h), resumeSlot_resumes (s := s.deselect) _ rfl⟩,
    fun h => ⟨_, serves rfl (seqAbort_taken (s := s.deselect) h), Laws.moveSlot_moves ..⟩,
    fun h => serves rfl (seqAbort_refused (s := s.deselect) h)⟩
  · have first := firstBad after fit bad
    rw [← hl] at first
    exact serves rfl (seqLoad_bad (s := s.deselect) h (by simp [hl]) size first)
  · exact ⟨_, serves rfl (seqLoad_taken (s := s.deselect) h steps size fit), Laws.moveSlot_moves ..⟩
  · refine serves rfl (seqRun_claimed (s := s.deselect) h he ((claimsMeet_iff _).2 ?_))
    obtain ⟨j, x, other, runs, held, claims⟩ := meets_iff.1 hm
    exact ⟨j, x, other, runs, held, (Laws.mem_claimsOf _ x).2 claims⟩
  · refine ⟨claimsOf (s.sqr.get k).steps, _, _, serves rfl (seqRun_taken (s := s.deselect) h he fun on => hm ?_),
      Laws.mem_claimsOf _, Laws.moveSlot_moves .., Laws.nextStep_next ..⟩
    obtain ⟨j, x, other, runs, held, claims⟩ := (claimsMeet_iff _).1 on
    exact meets_iff.2 ⟨j, x, other, runs, held, (Laws.mem_claimsOf _ x).1 claims⟩
  · exact Laws.moveSlot_moves ..

/-! ### Waits that end, slot by slot (R154, R156, R157) -/

theorem overSlots_fold {p : SlotNo → State → State → Prop} {f : State → SlotNo → State} (s : State)
    (h : ∀ k a, p k a (f a k)) : OverSlots p s (slotNos.foldl f s) := by
  refine ⟨fun n => (slotNos.take n).foldl f s, rfl, rfl, fun k => ?_⟩
  have next : (slotNos.take (k + 1)).foldl f s = f ((slotNos.take k).foldl f s) k := by
    have here : slotNos[k.val]? = some k := by simp [slotNos]
    rw [List.take_add_one, List.foldl_append, here]
    rfl
  show p k _ ((slotNos.take (k + 1)).foldl f s)
  rw [next]
  exact h k _

section Waits

variable {s : State} {k : SlotNo}

theorem waitingStep_iff {st : Step} : s.waitingStep k = some st ↔ s.waitsOn k st := by
  unfold State.waitingStep State.waitsOn Slot.step
  by_cases h : (s.sqr.get k).state = .waiting <;> simp [h]

theorem waitedQty_iff {st : Step} {q : QtyNo} :
    waitedQty st = some q ↔ st.kind = .waitQty ∧ st.target = some (.qty q.val) := by
  unfold waitedQty
  split
  next n kind target =>
    rw [kind, target]
    by_cases h : n < 115
    · rw [Laws.indexArg_lt h]
      simp [Fin.ext_iff]
    · rw [Laws.indexArg_ge (by omega)]
      simp
      omega
  next other => exact ⟨nofun, fun ⟨kind, target⟩ => absurd target (other _ kind)⟩

theorem meetsValue_iff {st : Step} {v : Int} :
    meetsValue st v = true ↔ ∃ c l, st.value = some (.compare c l) ∧ Meets c v l := by
  unfold meetsValue
  split
  next c l value =>
    rw [Laws.compares_iff, value]
    simp
  next other => exact ⟨nofun, fun ⟨c, l, value, _⟩ => absurd value (other c l)⟩

theorem slotQtyUpdate_ends (u : Update) (met : Prop) (met_iff : met ↔ ∃ (st : Step) (q : QtyNo) (c : Cmp) (v l : Int),
      s.waitsOn k st ∧ st.kind = .waitQty ∧ st.target = some (.qty q.val)
      ∧ st.value = some (.compare c l) ∧ u.newValue q = some v ∧ Meets c v l) :
    (met → MovesOn k s (slotQtyUpdate u s k)) ∧ (¬met → slotQtyUpdate u s k = s) := by
  unfold slotQtyUpdate
  cases hst : s.waitingStep k with
  | none =>
    refine ⟨fun h => ?_, fun _ => rfl⟩
    obtain ⟨st, q, c, v, l, waits, -⟩ := met_iff.1 h
    rw [waitingStep_iff.2 waits] at hst
    exact absurd hst nofun
  | some st =>
    have waits := waitingStep_iff.1 hst
    dsimp only
    have this_step {x : Step} (h : s.waitsOn k x) : x = st :=
      Option.some.inj ((waitingStep_iff.2 h).symm.trans hst)
    cases hv : (waitedQty st).bind u.newValue with
    | none =>
      refine ⟨fun h => ?_, fun _ => rfl⟩
      obtain ⟨x, q, c, v, l, waits', kind, target, value, new, meets⟩ := met_iff.1 h
      obtain rfl := this_step waits'
      rw [waitedQty_iff.2 ⟨kind, target⟩, Option.bind_some, new] at hv
      exact absurd hv nofun
    | some v =>
      obtain ⟨q, hq, new⟩ := Option.bind_eq_some_iff.1 hv
      obtain ⟨kind, target⟩ := waitedQty_iff.1 hq
      have reads : met ↔ meetsValue st v = true := by
        rw [met_iff, meetsValue_iff]
        constructor
        · rintro ⟨x, q', c, v', l, waits', -, target', value, new', meets⟩
          obtain rfl := this_step waits'
          obtain rfl : q' = q := by simpa [target, Fin.ext_iff, eq_comm] using target'
          obtain rfl : v = v' := Option.some.inj (new.symm.trans new')
          exact ⟨c, l, value, meets⟩
        · rintro ⟨c, l, value, meets⟩
          exact ⟨st, q, c, v, l, waits, kind, target, value, new, meets⟩
      dsimp only
      exact ⟨fun h => (if_pos (reads.1 h)) ▸ Laws.advance_movesOn k s, fun h => if_neg fun on => h (reads.2 on)⟩

theorem waitedState_iff {st : Step} {t : Target} {x : TargetState} :
    waitedState st = some (t, x) ↔ st.kind = .waitState ∧ NamesTarget st t ∧ st.value = some (.state x) := by
  rw [← Laws.stepTarget_iff]
  unfold waitedState
  split
  next t' x' kind target value => simp [kind, target, value]
  next other => exact ⟨nofun, fun ⟨kind, target, value⟩ => absurd value (other _ _ kind target)⟩

theorem isTripState_iff {x : TargetState} : isTripState x = true ↔ TripState x := by
  unfold isTripState TripState isWellTrip
  cases x with
  | well y => cases y <;> simp
  | _ => simp

theorem slotStateChange_ends (x : Target) (new : TargetState) (met : Prop)
    (met_iff : met ↔ ∃ st, s.waitsOn k st ∧ st.kind = .waitState ∧ NamesTarget st x ∧ st.value = some (.state new)
      ∧ ¬(TripState new ∧ x ∈ (s.sqr.get k).claims)) :
    (met → MovesOn k s (slotStateChange x new s k)) ∧ (¬met → slotStateChange x new s k = s) := by
  unfold slotStateChange
  cases hst : s.waitingStep k with
  | none =>
    refine ⟨fun h => ?_, fun _ => rfl⟩
    obtain ⟨st, waits, -⟩ := met_iff.1 h
    rw [waitingStep_iff.2 waits] at hst
    exact absurd hst nofun
  | some st =>
    have waits := waitingStep_iff.1 hst
    dsimp only
    have reads : met ↔ waitedState st = some (x, new) ∧ ¬(isTripState new = true ∧ x ∈ (s.sqr.get k).claims) := by
      rw [met_iff, waitedState_iff, isTripState_iff]
      constructor
      · rintro ⟨y, waits', kind, target, value, untripped⟩
        obtain rfl : y = st := Option.some.inj ((waitingStep_iff.2 waits').symm.trans hst)
        exact ⟨⟨kind, target, value⟩, untripped⟩
      · rintro ⟨⟨kind, target, value⟩, untripped⟩
        exact ⟨st, waits, kind, target, value, untripped⟩
    exact ⟨fun h => (if_pos (reads.1 h)) ▸ Laws.advance_movesOn k s, fun h => if_neg fun on => h (reads.2 on)⟩

/-- A trip or a stop of a target, as one slot takes it. -/
theorem slotTripStop_takes (x : Target) (what : TripStop) (origin : TripOrigin) (hit : Prop)
    (hit_iff : hit ↔ x ∈ (s.sqr.get k).claims ∧ ¬(what = .stop ∧ origin = .command (.slot k))) :
    (hit → (s.sqr.get k).state = .running ∨ (s.sqr.get k).state = .waiting →
      StepFails k (tripStopReason x what) s (slotTripStop x what origin s k))
    ∧ (hit → (s.sqr.get k).state = .suspended → (s.sqr.get k).pendingFailure = none →
      slotTripStop x what origin s k
        = { s with sqr := s.sqr.set k { s.sqr.get k with pendingFailure := some (x, what) } })
    ∧ (¬hit ∨ ¬(s.sqr.get k).runs ∨ (s.sqr.get k).state = .suspended ∧ (s.sqr.get k).pendingFailure ≠ none →
      slotTripStop x what origin s k = s) := by
  have skips : ¬hit ↔ x ∉ (s.sqr.get k).claims ∨ (what = .stop ∧ origin = .command (.slot k)) := by
    rw [hit_iff]
    tauto
  dsimp only [slotTripStop]
  refine ⟨fun h hs => ?_, fun h hs quiet => ?_, fun h => ?_⟩
  · rw [if_neg fun on => skips.2 on h]
    have fails := Laws.failStep_fails k (tripStopReason x what) s
    rcases hs with hs | hs <;> rw [hs] <;> exact fails
  · rw [if_neg fun on => skips.2 on h, hs]
    exact if_neg (by simp [quiet])
  · by_cases hh : hit
    · rw [if_neg fun on => skips.2 on hh]
      unfold Slot.runs at h
      split
      next hs => simp [hs, hh] at h
      next hs => simp [hs, hh] at h
      next hs =>
        have pending : (s.sqr.get k).pendingFailure ≠ none := by simpa [hs, hh] using h
        exact if_pos (Option.isSome_iff_ne_none.2 pending)
      all_goals rfl
    · exact if_pos (skips.1 hh)

theorem slotSecond_idle (h : ∀ n, (s.sqr.get k).timer ≠ .running n) : slotSecond s k = s := by
  unfold slotSecond
  dsimp only
  split
  next n hn => exact absurd hn (h n)
  all_goals rfl

theorem slotSecond_runs {n : Nat} (h : (s.sqr.get k).timer = .running n) (hn : 1 < n) : slotSecond s k
    = { s with sqr := s.sqr.set k { s.sqr.get k with timer := .running (n - 1) } } := by
  dsimp only [slotSecond]
  rw [h]
  exact if_neg (by omega)

theorem slotSecond_ends {n : Nat} (h : (s.sqr.get k).timer = .running n) (hn : n ≤ 1) : slotSecond s k
    = State.timerOut { s with sqr := s.sqr.set k { s.sqr.get k with timer := .running (n - 1) } } k := by
  dsimp only [slotSecond]
  rw [h]
  exact if_pos hn

theorem timerOut_ends {st : Step} (h : s.waitsOn k st) : (st.kind = .delay → MovesOn k s (s.timerOut k))
    ∧ (st.kind ≠ .delay → StepFails k .timeout s (s.timerOut k)) := by
  unfold State.timerOut
  rw [waitingStep_iff.2 h]
  dsimp only
  exact ⟨fun hk => (if_pos hk) ▸ Laws.advance_movesOn k s, fun hk => (if_neg hk) ▸ Laws.failStep_fails k .timeout s⟩

theorem timerOut_idle (h : ∀ st, ¬s.waitsOn k st) : s.timerOut k = s := by
  unfold State.timerOut
  cases hst : s.waitingStep k with
  | none => rfl
  | some st => exact absurd (waitingStep_iff.1 hst) (h st)

/-- A slot's clock shows in nothing that its wait reads. -/
theorem waitsOn_timer (t : Timer) (st : Step) :
    State.waitsOn { s with sqr := s.sqr.set k { s.sqr.get k with timer := t } } k st ↔ s.waitsOn k st := by
  unfold State.waitsOn
  rw [Bank.get_set_self]

theorem exec_timeout_of {st : Step} {n : Nat} (h : s.waitsOn k st) (ht : (s.sqr.get k).timer = .running n) :
    exec (.waitTimeout k) s = .next (if st.kind ≠ .delay then s.failStep k .timeout else s)
    ∧ exec (.delayExpiry k) s = .next (if st.kind = .delay then s.advance k else s) := by
  have runs : s.timerRuns k = true := by rw [State.timerRuns, ht]
  have waits := waitingStep_iff.2 h
  constructor
  · show execWaitTimeout k s = _
    rw [execWaitTimeout, waits]
    simp only [runs, true_and]
  · show execDelayExpiry k s = _
    rw [execDelayExpiry, waits]
    simp only [runs, true_and]

end Waits

/-- Settles O52: each event slot by slot, and the two ends of a timer by the step's kind. -/
theorem waitsEndAndStepsFail : Obligations.WaitsEndAndStepsFail := by
  intro s
  refine ⟨fun u => ⟨_, rfl, overSlots_fold _ fun k a met met_iff => slotQtyUpdate_ends u met met_iff⟩,
    fun x old new cause => ⟨_, rfl, overSlots_fold _ fun k a met met_iff => slotStateChange_ends x new met met_iff⟩,
    fun x what origin => ⟨_, rfl, overSlots_fold _ fun k a r hit hr hit_iff => ?_⟩,
    ⟨_, rfl, overSlots_fold _ fun k a => ⟨slotSecond_idle, fun n m running hm => ⟨fun hn => ?_, fun hn => ⟨fun st waits => ?_,
      fun idle => ?_⟩⟩⟩⟩, fun k st n waits running => ⟨fun kind => ⟨?_, _, ?_, Laws.failStep_fails ..⟩,
      fun kind => ⟨?_, _, ?_, Laws.advance_movesOn ..⟩⟩⟩
  · subst hr
    cases what <;> exact slotTripStop_takes x _ origin hit hit_iff
  · subst hm
    exact slotSecond_runs running hn
  · subst hm
    rw [slotSecond_ends running hn]
    exact timerOut_ends ((waitsOn_timer _ st).2 waits)
  · subst hm
    rw [slotSecond_ends running hn]
    exact timerOut_idle fun st on => idle st ((waitsOn_timer _ st).1 on)
  · exact exec_else (exec_timeout_of waits running).2 kind
  · exact exec_then (exec_timeout_of waits running).1 kind
  · exact exec_else (exec_timeout_of waits running).1 fun h => h kind
  · exact exec_then (exec_timeout_of waits running).2 kind

end Sys2Proof.Proofs

/-! PROOFS. The steps of a sequence as they are taken, and the owner's effect of a command step (R150, R153 to R155,
R160). -/

namespace Sys2Proof.Proofs

open Sys2Proof.Machine

/-! ### Operations apart from the slots, the port and the events handed

An owner's command neither reads nor writes the slots, the port's record and the list of events, but for the
notices and events it adds behind. So it does the same from two states that differ in those three alone. -/

/-- The state with other slots, another port record and another list of events handed. -/
def reseat (z : State) (slots : Bank Slot 4) (port : Svp) (handed : List Instr) : State :=
  { z with sqr := slots, svp := port, handed := handed }

/-- An event that carries no host's STOP or OFF. -/
def Plain (e : Instr) : Prop := ∀ k, fromSlot k e = e

/-- No event of the list carries one. -/
def PlainAll (l : List Instr) : Prop := ∀ e ∈ l, Plain e

/-- The operation adds the events `l` and the notices `n`, and its other effect is that on `z`. -/
def Apart (f : State → State) (z : State) : Prop := ∃ (l : List Instr) (n : List Notice), PlainAll l
  ∧ ∀ slots port handed, f (reseat z slots port handed)
    = reseat (f z) slots (n.foldl Svp.queue port) (handed ++ l)

theorem Apart.comp {f g : State → State} {z : State} (hf : Apart f z) (hg : Apart g (f z)) :
    Apart (fun s => g (f s)) z := by
  obtain ⟨l, n, plain, same⟩ := hf
  obtain ⟨l', n', plain', same'⟩ := hg
  refine ⟨l ++ l', n ++ n', fun e he => (List.mem_append.1 he).elim (plain e) (plain' e), fun slots port handed => ?_⟩
  dsimp only
  rw [same, same', List.foldl_append, List.append_assoc]

/-- An operation that adds nothing. -/
theorem Apart.quiet {f : State → State} {z : State} (h : ∀ slots port handed,
    f (reseat z slots port handed) = reseat (f z) slots port handed) : Apart f z :=
  ⟨[], [], fun _ h => absurd h List.not_mem_nil, fun slots port handed => by rw [List.append_nil]; exact h slots port handed⟩

/-- What an owner does with a command, by the command's origin: the same effect, and the same events but that a STOP or
an OFF carries the origin. -/
def OriginOnly (k : SlotNo) (f : Caller → State → Answer) (z : State) : Prop :=
  ∃ (u : State) (st : Status) (c : Content) (l : List Instr) (n : List Notice),
    (∀ slots port handed, f .host (reseat z slots port handed)
      = (reseat u slots (n.foldl Svp.queue port) (handed ++ l), st, c))
    ∧ ∀ slots port handed, f (.slot k) (reseat z slots port handed)
      = (reseat u slots (n.foldl Svp.queue port) (handed ++ l.map (fromSlot k)), st, c)

theorem map_plain {k : SlotNo} {l : List Instr} (h : PlainAll l) : l.map (fromSlot k) = l := by
  rw [List.map_congr_left fun e he => h e he k, List.map_id']

/-- A command whose events carry no origin. -/
theorem OriginOnly.of_apart {k : SlotNo} {f : Caller → State → Answer} {z : State} {g : State → State} (hg : Apart g z)
    (st : Status) (c : Content)
    (h : ∀ caller slots port handed, f caller (reseat z slots port handed) = (g (reseat z slots port handed), st, c)) :
    OriginOnly k f z := by
  obtain ⟨l, n, plain, same⟩ := hg
  refine ⟨g z, st, c, l, n, fun slots port handed => ?_, fun slots port handed => ?_⟩
  · rw [h, same]
  · rw [h, same, map_plain plain]

/-- A command that its owner refuses. -/
theorem OriginOnly.refuses {k : SlotNo} {f : Caller → State → Answer} {z : State} (st : Status) (c : Content)
    (h : ∀ caller slots port handed, f caller (reseat z slots port handed) = (reseat z slots port handed, st, c)) :
    OriginOnly k f z := .of_apart (g := id) (.quiet fun _ _ _ => rfl) st c h

/-- A STOP or an OFF, handed with its origin behind the rest. -/
theorem OriginOnly.of_stop {k : SlotNo} {f : Caller → State → Answer} {z : State} {g : State → State} (hg : Apart g z) (x : Target)
    (h : ∀ caller slots port handed, f caller (reseat z slots port handed)
      = ((g (reseat z slots port handed)).hand [.sqrTargetTripStop x .stop (.command caller)], .ok, .none)) :
    OriginOnly k f z := by
  obtain ⟨l, n, plain, same⟩ := hg
  refine ⟨g z, .ok, .none, l ++ [.sqrTargetTripStop x .stop (.command .host)], n, fun slots port handed => ?_,
    fun slots port handed => ?_⟩
  · rw [h, same, ← List.append_assoc]
    rfl
  · rw [h, same, List.map_append, map_plain plain, ← List.append_assoc]
    rfl

/-! ### Notices queue alike at two ports that hold the same -/

theorem foldl_queue_alike (n : List Notice) : ∀ {v w : Svp}, v.notices = w.notices → v.noticesLost = w.noticesLost →
    n.foldl Svp.queue v = { v with
      notices := (n.foldl Svp.queue w).notices, noticesLost := (n.foldl Svp.queue w).noticesLost } := by
  induction n with
  | nil =>
    intro v w same lost
    rw [List.foldl_nil, List.foldl_nil, ← same, ← lost]
  | cons x l ih =>
    intro v w same lost
    rw [List.foldl_cons, List.foldl_cons]
    unfold Svp.queue
    rw [same]
    split
    · exact ih (v := { v with notices := w.notices ++ [x] }) (w := { w with notices := w.notices ++ [x] }) rfl lost
    · exact ih (v := { v with notices := w.notices, noticesLost := true }) (w := { w with noticesLost := true }) rfl rfl

/-! ### Claims against a slot's command (R160) -/

section Claims

variable {s : State} {k : SlotNo} {x : Target}

theorem claimant_holds {j : SlotNo} (h : s.claimant x = some j) : x ∈ (s.sqr.get j).claims :=
  of_decide_eq_true (List.find?_some (p := fun k => decide (x ∈ (s.sqr.get k).claims)) h)

theorem unclaimed_refuses {j : SlotNo} (other : x ∈ (s.sqr.get j).claims) (own : x ∉ (s.sqr.get k).claims)
    (owner : State → Answer) : s.unclaimed (.slot k) x owner = s.says .refusedClaimed := by
  cases hc : s.claimant x with
  | none =>
    have none_claims := List.find?_eq_none.1 hc j (List.mem_finRange j)
    exact absurd (decide_eq_true other) none_claims
  | some i =>
    have foreign : Caller.slot k ≠ .slot i := by
      rintro ⟨⟩
      exact own (claimant_holds hc)
    simp [State.unclaimed, State.claimedAgainst, hc, foreign]

theorem unclaimed_passes (h : ∀ j, j ≠ k → x ∉ (s.sqr.get j).claims) (owner : State → Answer) :
    s.unclaimed (.slot k) x owner = owner s := by
  cases hc : s.claimant x with
  | none => exact unclaimed_of_none hc _ _
  | some i =>
    obtain rfl : i = k := by
      by_contra foreign
      exact h i foreign (claimant_holds hc)
    simp [State.unclaimed, State.claimedAgainst, hc]

theorem unclaimed_cleared (port : Svp) (handed : List Instr) (owner : State → Answer) :
    (reseat s (s.sqr.mapIdx fun _ r => { r with claims := [] }) port handed).unclaimed .host x owner
      = owner (reseat s (s.sqr.mapIdx fun _ r => { r with claims := [] }) port handed) := by
  refine unclaimed_of_none (List.find?_eq_none.2 fun j _ => ?_) _ _
  show ¬decide (x ∈ ((s.sqr.mapIdx fun _ r => { r with claims := [] }).get j).claims) = true
  rw [Bank.get_mapIdx]
  simp

end Claims

/-! ### What the owner of a command step does -/

/-- The command a step issues is taken by `f`, which checks the claim on `x` before its owner `g`, or checks none. -/
structure Issues (k : SlotNo) (st : Step) (s : State) (x : Target) (i : Instr) (kind : Byte)
    (f g : Caller → State → Answer) : Prop where
  request : HostRequest st i kind
  host : ∀ u, exec i u = .next (u.serve kind (f .host))
  slot : s.issueStep k st = f (.slot k) s
  target : ∀ y, StepClaims st y → y = x
  checks : ((∀ caller u, f caller u = u.unclaimed caller x (g caller))
      ∧ st.kind ≠ .wellStop ∧ st.kind ≠ .turbStop ∧ st.kind ≠ .hxOff)
    ∨ f = g ∧ (st.kind = .wellStop ∨ st.kind = .turbStop ∨ st.kind = .hxOff)
  apart : OriginOnly k g s

theorem Issues.takes {k : SlotNo} {st : Step} {s : State} {x : Target} {i : Instr} {kind : Byte}
    {f g : Caller → State → Answer} (h : Issues k st s x i kind f g) :
    OwnerTakes k st s (s.issueStep k st).1 (s.issueStep k st).2.1 := by
  obtain ⟨request, host, slot, target, checks, u, reply, c, l, n, fromHost, fromThis⟩ := h
  rw [slot]
  refine ⟨fun y j claims unstopped unstopped' notOff other held own => ?_, fun y claims free => ?_⟩
  · obtain rfl := target y claims
    rcases checks with ⟨checks, -⟩ | ⟨-, stops⟩
    · rw [checks, unclaimed_refuses held own]
      exact ⟨rfl, rfl⟩
    · exact absurd stops (by simp [unstopped, unstopped', notOff])
  · obtain rfl := target y claims
    have owned : f (.slot k) s = g (.slot k) s := by
      rcases checks with ⟨checks, unstopped⟩ | ⟨rfl, -⟩
      · rw [checks, unclaimed_passes (free.resolve_right (by simp [unstopped]))]
      · rfl
    have cleared (port : Svp) (handed : List Instr) :
        f .host (reseat s (s.sqr.mapIdx fun _ r => { r with claims := [] }) port handed)
          = g .host (reseat s (s.sqr.mapIdx fun _ r => { r with claims := [] }) port handed) := by
      rcases checks with ⟨checks, -⟩ | ⟨rfl, -⟩
      · rw [checks, unclaimed_cleared]
      · rfl
    have hosted := (cleared { s.svp with reply := none, selection := none } s.handed).trans (fromHost _ _ _)
    have issued := owned.trans (fromThis s.sqr s.svp s.handed)
    refine ⟨i, kind, c, reseat u (s.sqr.mapIdx fun _ r => { r with claims := [] })
      (n.foldl Svp.queue { s.svp with reply := none, selection := none }) (s.handed ++ l), l, request, ?_, rfl, ?_⟩
    · rw [issued]
      exact exec_of_serve rfl (host _) hosted
    · rw [issued]
      have port := foldl_queue_alike n (v := s.svp) (w := { s.svp with reply := none, selection := none }) rfl rfl
      show reseat u s.sqr (n.foldl Svp.queue s.svp) _ = _
      rw [port]
      rfl

/-! ### The commands of a well (R79, R84) -/

theorem plain_nil : PlainAll [] := fun _ h => absurd h List.not_mem_nil

theorem plain_append {l m : List Instr} (hl : PlainAll l) (hm : PlainAll m) : PlainAll (l ++ m) :=
  fun e he => (List.mem_append.1 he).elim (hl e) (hm e)

theorem plain_cons {x : Instr} {l : List Instr} (hx : Plain x) (hl : PlainAll l) : PlainAll (x :: l) :=
  plain_append (l := [x]) (List.forall_mem_singleton.2 hx) hl

theorem plain_ite {p : Prop} [Decidable p] {l m : List Instr} (hl : PlainAll l) (hm : PlainAll m) :
    PlainAll (if p then l else m) := by
  split
  · exact hl
  · exact hm

theorem wellMoves_plain (c : WellNo) (old new : WellState) : PlainAll (wellMoves c old new) :=
  plain_cons (fun _ => rfl) (plain_cons (fun _ => rfl) (plain_cons (fun _ => rfl) (plain_cons (fun _ => rfl) plain_nil)))

section Wells

variable {z : State} {k : SlotNo} {c : WellNo}

theorem wellChanged_apart (old new : WellState) (h : isWellTrip new = false) : Apart (fun s => s.wellChanged c old new none) z := by
  by_cases same : old = new
  · exact .quiet fun _ _ _ => (if_pos same).trans (congrArg (reseat · _ _ _) (if_pos same).symm)
  · refine ⟨wellMoves c old new, [.state (.well c) (.well old) (.well new) none], wellMoves_plain _ _ _, fun _ _ _ => ?_⟩
    dsimp only
    rw [wellChanged_moves _ _ same h, wellChanged_moves _ _ same h]
    rfl

/-- The owner of WELL_CMD START, its claim checked. -/
def startOwner (c : WellNo) (s : State) : Answer :=
  if s.ssl.storeFault then s.says .refusedStore
  else if (s.wcc.get c).state = .off ∧ s.role c ≠ .unused ∧ s.wellStationReady c = true then
    (((s.setWell c (s.startedWell c)).hand [.counterIncrement [.wellStarts c]]).wellChanged c
      .off .starting none, .ok, .none)
  else s.says .refusedState

theorem startOwner_apart : OriginOnly k (fun _ => startOwner c) z := by
  by_cases fault : z.ssl.storeFault = true
  · exact .refuses .refusedStore .none fun _ _ _ _ => if_pos fault
  by_cases starts : (z.wcc.get c).state = .off ∧ z.role c ≠ .unused ∧ z.wellStationReady c = true
  · have counted : Apart (fun s => (s.setWell c (s.startedWell c)).hand [.counterIncrement [.wellStarts c]]) z :=
      ⟨[.counterIncrement [.wellStarts c]], [], plain_cons (fun _ => rfl) plain_nil, fun _ _ _ => rfl⟩
    exact .of_apart (counted.comp (wellChanged_apart .off .starting rfl)) .ok .none
      fun _ _ _ _ => (if_neg fault).trans (if_pos starts)
  · exact .refuses .refusedState .none fun _ _ _ _ => (if_neg fault).trans (if_neg starts)

theorem wellStop_apart : OriginOnly k (fun caller => State.wellStop caller c) z := by
  by_cases runs : (z.wcc.get c).state = .starting ∨ (z.wcc.get c).state = .running
  · have stopped : Apart (fun s => s.setWell c { (s.wcc.get c).noRuns with state := .stopping, startLeft := none }) z :=
      .quiet fun _ _ _ => rfl
    exact .of_stop (stopped.comp (wellChanged_apart (z.wcc.get c).state .stopping rfl)) (.well c)
      fun _ _ _ _ => if_pos runs
  · exact .refuses .refusedState .none fun _ _ _ _ => if_neg runs

/-- The owner of WELL_CMD WEIGHT, its claim checked. -/
def weightOwner (c : WellNo) (v : Int) (s : State) : Answer :=
  ((s.setWell c { s.wcc.get c with weight := clampTo 1 100 v }).hand
    (if clampTo 1 100 v = (s.wcc.get c).weight then [] else [.bbuWellWeight c]), clampStatus v (clampTo 1 100 v), .none)

theorem weightOwner_apart (v : Int) : OriginOnly k (fun _ => weightOwner c v) z :=
  .of_apart (g := fun s => (s.setWell c { s.wcc.get c with weight := clampTo 1 100 v }).hand
      (if clampTo 1 100 v = (s.wcc.get c).weight then [] else [.bbuWellWeight c]))
    ⟨if clampTo 1 100 v = (z.wcc.get c).weight then [] else [.bbuWellWeight c], [],
      plain_ite plain_nil (plain_cons (fun _ => rfl) plain_nil), fun _ _ _ => rfl⟩ _ _ fun _ _ _ _ => rfl

end Wells

/-! ### The commands of the turbine (R104, R107, R108) -/

section Turbine

variable {z : State} {k : SlotNo}

theorem orderEvents_plain (force : Bool) (r : Tbc) : PlainAll (z.orderEvents force r) :=
  plain_ite (plain_cons (fun _ => rfl) plain_nil) plain_nil

theorem demandEvents_plain (st : TurbState) (d : Int) : PlainAll (z.demandEvents st d) :=
  plain_ite plain_nil (plain_cons (fun _ => rfl) plain_nil)

theorem turbEvents_plain (old new : TurbState) : PlainAll (turbEvents old new none) :=
  plain_ite plain_nil (plain_append (plain_append (plain_cons (fun _ => rfl) plain_nil)
    (plain_ite (plain_cons (fun _ => rfl) plain_nil) plain_nil)) (plain_cons (fun _ => rfl) plain_nil))

/-- A record taken is apart, when the record and the late events are read from other parts. -/
theorem commit_apart (force : Bool) {late : State → List Instr} {record : State → Tbc} (plain : PlainAll (late z))
    (hl : ∀ slots port handed, late (reseat z slots port handed) = late z)
    (hr : ∀ slots port handed, record (reseat z slots port handed) = record z) :
    Apart (fun s => s.commit force [] (late s) none (record s)) z := by
  refine ⟨z.orderEvents force (record z) ++ [] ++ z.demandEvents (record z).state (z.steamDemand (record z)) ++ late z
      ++ turbEvents z.tbc.state (record z).state none, turbNotice z.tbc.state (record z).state none,
    plain_append (plain_append (plain_append (plain_append (orderEvents_plain _ _) plain_nil) (demandEvents_plain _ _))
      plain) (turbEvents_plain _ _), fun slots port handed => ?_⟩
  dsimp only
  rw [hl, hr]
  rfl

/-- The owner of TURB_CMD START, its claim checked. -/
def turbStartOwner (s : State) : Answer :=
  if s.ssl.storeFault then s.says .refusedStore
  else if s.tbc.state = .offline ∧ s.tbc.tripIn = false ∧ s.turbStationReady = true then
    (s.commit true [] [.counterIncrement [.turbStarts]] none s.warmingRecord, .ok, .none)
  else s.says .refusedState

theorem turbStartOwner_apart : OriginOnly k (fun _ => turbStartOwner) z := by
  by_cases fault : z.ssl.storeFault = true
  · exact .refuses .refusedStore .none fun _ _ _ _ => if_pos fault
  by_cases starts : z.tbc.state = .offline ∧ z.tbc.tripIn = false ∧ z.turbStationReady = true
  · exact .of_apart (commit_apart true (late := fun _ => [.counterIncrement [.turbStarts]])
      (record := State.warmingRecord) (plain_cons (fun _ => rfl) plain_nil) (fun _ _ _ => rfl) fun _ _ _ => rfl) .ok .none
      fun _ _ _ _ => (if_neg fault).trans (if_pos starts)
  · exact .refuses .refusedState .none fun _ _ _ _ => (if_neg fault).trans (if_neg starts)

/-- The owner of TURB_CMD LOAD, its claim checked. -/
def loadOwner (v : Int) (s : State) : Answer :=
  (s.commit false [] [] none { s.tbc with loadDemand := clampTo 0 (s.turbSet .ratedLoad) v },
    clampStatus v (clampTo 0 (s.turbSet .ratedLoad) v), .none)

theorem loadOwner_apart (v : Int) : OriginOnly k (fun _ => loadOwner v) z :=
  .of_apart (commit_apart false (late := fun _ => []) (record := fun s =>
      { s.tbc with loadDemand := clampTo 0 (s.turbSet .ratedLoad) v }) plain_nil (fun _ _ _ => rfl) fun _ _ _ => rfl)
    (clampStatus v (clampTo 0 (z.turbSet .ratedLoad) v)) .none fun _ _ _ _ => rfl

theorem shortfallEnd_plain : PlainAll (z.shortfallEnd) := plain_ite (plain_cons (fun _ => rfl) plain_nil) plain_nil

theorem turbStop_apart : OriginOnly k State.turbStop z := by
  by_cases rests : z.tbc.state = .offline ∨ z.tbc.state = .tripped
  · refine .refuses .refusedState .none fun caller slots port handed => ?_
    unfold State.turbStop
    have state : (reseat z slots port handed).tbc.state = z.tbc.state := rfl
    rw [state]
    rcases rests with h | h <;> rw [h] <;> rfl
  by_cases loaded : z.tbc.state = .loaded
  · exact .of_stop (commit_apart (decide (0 < z.tbc.hold)) (late := fun _ => []) (record := fun s =>
      { s.tbc with state := .unloading, inletRun := 0, mismatch := none, hold := 0 }) plain_nil (fun _ _ _ => rfl)
      fun _ _ _ => rfl) .turbine fun caller _ _ _ => turbStop_loaded caller loaded
  by_cases unloading : z.tbc.state = .unloading
  · exact .of_stop (g := id) (.quiet fun _ _ _ => rfl) .turbine fun caller _ _ _ => turbStop_unloading caller unloading
  · have starting : z.tbc.state = .warming ∨ z.tbc.state = .runup ∨ z.tbc.state = .syncWait := by
      cases hs : z.tbc.state <;> simp [hs] at rests loaded unloading ⊢
    exact .of_stop (commit_apart true (late := State.shortfallEnd) (record := State.offlineRecord) shortfallEnd_plain
      (fun _ _ _ => rfl) fun _ _ _ => rfl) .turbine fun caller _ _ _ => turbStop_offline caller starting

end Turbine

/-! ### The commands of the exchanger (R57, R60, R65) -/

section Exchanger

variable {z : State} {k : SlotNo}

theorem setMode_apart (new : HxMode) (h : new ≠ .isolated) : Apart (fun s => s.setMode new) z := by
  by_cases same : z.hxc.mode = new
  · refine .quiet fun slots port handed => ?_
    have there : z.setMode new = z := if_pos same
    rw [there]
    exact if_pos same
  · refine ⟨[.sqrStateChange .exchanger (.exchanger z.hxc.mode, .exchanger new) none],
      [.state .exchanger (.exchanger z.hxc.mode) (.exchanger new) none], plain_cons (fun _ => rfl) plain_nil,
      fun slots port handed => ?_⟩
    dsimp only
    rw [setMode_from (s := z) rfl same h]
    exact setMode_from (s := reseat z slots port handed) rfl same h

/-- The owner of HX_CMD ON, its claim checked. -/
def onOwner (s : State) : Answer :=
  if s.hxc.mode = .off ∧ s.hxc.causes.automatic = false ∧ s.hxc.causes.host = false then
    ({ s with hxc := { s.hxc with breachRun := 0 } }.setMode .heating, .ok, .none)
  else s.says .refusedState

theorem onOwner_apart : OriginOnly k (fun _ => onOwner) z := by
  by_cases starts : z.hxc.mode = .off ∧ z.hxc.causes.automatic = false ∧ z.hxc.causes.host = false
  · have rested : Apart (fun s => { s with hxc := { s.hxc with breachRun := 0 } }) z := .quiet fun _ _ _ => rfl
    exact .of_apart (rested.comp (setMode_apart .heating (by decide))) .ok .none fun _ _ _ _ => if_pos starts
  · exact .refuses .refusedState .none fun _ _ _ _ => if_neg starts

/-- The owner of HX_CMD OFFSET, its claim checked. -/
def offsetOwner (v : Int) (s : State) : Answer :=
  ({ s with hxc := { s.hxc with offset := clampTo (-200) 200 v } }.retarget, clampStatus v (clampTo (-200) 200 v), .none)

theorem offsetOwner_apart (v : Int) : OriginOnly k (fun _ => offsetOwner v) z :=
  .of_apart (g := fun s => State.retarget { s with hxc := { s.hxc with offset := clampTo (-200) 200 v } })
    (.quiet fun _ _ _ => rfl) _ _ fun _ _ _ _ => rfl

/-- OFF but for its STOP. -/
def offMoves (s : State) : State :=
  State.setMode ((((s.dropCause .host).issueBypass 1000).endBreach).hand
    (if s.hxc.mode = .isolated then [.alarmClear .hxIsolated .exchanger] else [])) .off

theorem issueBypass_apart (b : Int) : Apart (fun s => s.issueBypass b) z := by
  by_cases moves : b ≠ z.hxc.bypass ∧ (z.entryOfKind .exchanger).isSome
  · refine ⟨[.setPlaced (.exchanger b)], [], plain_cons (fun _ => rfl) plain_nil, fun slots port handed => ?_⟩
    have there : z.issueBypass b = { z with hxc := { z.hxc with bypass := b } }.hand [.setPlaced (.exchanger b)] :=
      if_pos moves
    dsimp only
    rw [there]
    exact if_pos moves
  · refine .quiet fun slots port handed => ?_
    have there : z.issueBypass b = { z with hxc := { z.hxc with bypass := b } } := if_neg moves
    rw [there]
    exact if_neg moves

theorem offMoves_apart : Apart offMoves z := by
  have breached (u : State) : Apart (fun s => s.endBreach) u :=
    ⟨if u.hxc.breach then [.alarmClear .floorBreach .exchanger] else [], [],
      plain_ite (plain_cons (fun _ => rfl) plain_nil) plain_nil, fun _ _ _ => rfl⟩
  have cleared (p : Prop) [Decidable p] (u : State) :
      Apart (fun s => s.hand (if p then [.alarmClear .hxIsolated .exchanger] else [])) u :=
    ⟨_, [], plain_ite (plain_cons (fun _ => rfl) plain_nil) plain_nil, fun _ _ _ => rfl⟩
  exact ((((Apart.quiet (f := fun s => s.dropCause .host) fun _ _ _ => rfl).comp (issueBypass_apart 1000)).comp
    (breached _)).comp (cleared (z.hxc.mode = .isolated) _)).comp (setMode_apart .off (by decide))

end Exchanger

end Sys2Proof.Proofs

/-! PROOFS. The steps of a sequence as they are taken: the balance, the ten commands, the waits (R153 to R155). -/

namespace Sys2Proof.Proofs

open Sys2Proof.Machine

/-! ### OFF, and the mode of the balance (R65, R123) -/

section Balance

variable {z : State} {k : SlotNo}

theorem hxOff_apart : OriginOnly k State.hxOff z :=
  .of_stop offMoves_apart .exchanger fun _ _ _ _ => rfl

theorem brineEvents_plain (p : Plan) : PlainAll (z.brineEvents p) :=
  plain_ite (plain_cons (fun _ => rfl) plain_nil) (plain_ite (plain_cons (fun _ => rfl) plain_nil) plain_nil)

theorem targetEvents_plain (p : Plan) : PlainAll (z.targetEvents p) := by
  intro e he
  obtain ⟨c, -, hc⟩ := List.mem_flatMap.1 he
  revert hc
  cases p.targetOf c with
  | some t => exact fun hc => plain_cons (fun _ => rfl) plain_nil e hc
  | none => exact fun hc => plain_ite (plain_cons (fun _ => rfl) plain_nil) plain_nil e hc

theorem allocate_apart : Apart State.allocate z :=
  ⟨z.brineEvents z.plan ++ z.targetEvents z.plan, [], plain_append (brineEvents_plain _) (targetEvents_plain _),
    fun _ _ _ => rfl⟩

theorem ceilingAnew_apart : Apart State.ceilingAnew z :=
  (Apart.quiet (f := fun s => { s with bbu := s.withCeiling }) fun _ _ _ => rfl).comp allocate_apart

/-- A choice that rests on other parts. -/
theorem Apart.ite {p : State → Prop} [∀ s, Decidable (p s)] {f g : State → State}
    (same : ∀ slots port handed, p (reseat z slots port handed) = p z) (hf : Apart f z) (hg : Apart g z) :
    Apart (fun s => if p s then f s else g s) z := by
  by_cases h : p z
  · obtain ⟨l, n, plain, moved⟩ := hf
    refine ⟨l, n, plain, fun slots port handed => ?_⟩
    dsimp only
    rw [if_pos h, if_pos (same slots port handed ▸ h), moved]
  · obtain ⟨l, n, plain, moved⟩ := hg
    refine ⟨l, n, plain, fun slots port handed => ?_⟩
    dsimp only
    rw [if_neg h, if_neg (same slots port handed ▸ h), moved]

theorem testFastDown_apart : Apart State.testFastDown z :=
  .ite (p := fun s => s.totalDemand ≤ s.bbu.tReq) (f := fun s => { s with bbu := { s.bbu with fastDown := false } })
    (g := fun s => s) (fun _ _ _ => rfl) (.quiet fun _ _ _ => rfl) (.quiet fun _ _ _ => rfl)

theorem reckon_apart : Apart State.reckon z := by
  have required : Apart (fun s => { s with bbu := { s.bbu with tReq := s.requirement } }) z := .quiet fun _ _ _ => rfl
  exact .ite (p := fun s => s.requirement = s.bbu.tReq) (fun _ _ _ => rfl) required (required.comp testFastDown_apart)

/-- The mode of the balance set, with its notice and event. -/
def modeMoves (m : BalMode) (s : State) : State :=
  let t := { s with bbu := { s.bbu with mode := m, afterTrip := false } }
  if m = s.bbu.mode then t
  else (t.notify [.state .balance (.balance s.bbu.mode) (.balance m) none]).hand
    [.sqrStateChange .balance (.balance s.bbu.mode, .balance m) none]

theorem modeMoves_apart (m : BalMode) : Apart (modeMoves m) z := by
  have set : Apart (fun s => { s with bbu := { s.bbu with mode := m, afterTrip := false } }) z := .quiet fun _ _ _ => rfl
  have told : Apart (fun s => ((({ s with bbu := { s.bbu with mode := m, afterTrip := false } } : State).notify
      [.state .balance (.balance s.bbu.mode) (.balance m) none]).hand
      [.sqrStateChange .balance (.balance s.bbu.mode, .balance m) none])) z :=
    ⟨[.sqrStateChange .balance (.balance z.bbu.mode, .balance m) none],
      [.state .balance (.balance z.bbu.mode) (.balance m) none], plain_cons (fun _ => rfl) plain_nil, fun _ _ _ => rfl⟩
  exact .ite (p := fun s => m = s.bbu.mode) (fun _ _ _ => rfl) set told

/-- The owner of BAL_CMD MODE, its claim checked. -/
def modeOwner (m : BalMode) (s : State) : Answer := ((modeMoves m s).reckon.ceilingAnew, .ok, .none)

theorem modeOwner_apart (m : BalMode) : OriginOnly k (fun _ => modeOwner m) z :=
  .of_apart (((modeMoves_apart m).comp reckon_apart).comp ceilingAnew_apart) .ok .none fun _ _ _ _ => rfl

end Balance

/-! ### The command of each kind of step (R150, R153) -/

section Commands

variable {s : State} {k : SlotNo} {st : Step}

theorem claims_well {c : WellNo} (target : st.target = some (.well c.val)) {y : Target} (h : StepClaims st y) :
    y = .well c := by
  obtain ⟨-, ⟨d, rfl, hd⟩ | ⟨-, h⟩ | ⟨-, h⟩ | ⟨-, h⟩⟩ := h
  · obtain rfl : c = d := Fin.ext (by simpa [target] using hd)
    rfl
  all_goals simp [target] at h

theorem claims_turbine (target : st.target = some .turbine) {y : Target} (h : StepClaims st y) : y = .turbine := by
  obtain ⟨-, ⟨c, -, h⟩ | ⟨rfl, -⟩ | ⟨-, h⟩ | ⟨-, h⟩⟩ := h
  · simp [target] at h
  · rfl
  all_goals simp [target] at h

theorem claims_exchanger (target : st.target = some .exchanger) {y : Target} (h : StepClaims st y) :
    y = .exchanger := by
  obtain ⟨-, ⟨c, -, h⟩ | ⟨-, h⟩ | ⟨rfl, -⟩ | ⟨-, h⟩⟩ := h
  · simp [target] at h
  · simp [target] at h
  · rfl
  · simp [target] at h

theorem claims_balance (target : st.target = some .balance) {y : Target} (h : StepClaims st y) : y = .balance := by
  obtain ⟨-, ⟨c, -, h⟩ | ⟨-, h⟩ | ⟨-, h⟩ | ⟨rfl, -⟩⟩ := h
  · simp [target] at h
  · simp [target] at h
  · simp [target] at h
  · rfl

theorem wellStart_issues {c : WellNo} (kind : st.kind = .wellStart) (target : st.target = some (.well c.val)) :
    Issues k st s (.well c) (.wellCmdStart c) 0x30 (fun caller => State.wellStart caller c) (fun _ => startOwner c) where
  request := .inl ⟨c, target, rfl, .inl ⟨kind, rfl⟩⟩
  host := fun u => by
    show Host.Outcome.next (u.serve 0x30 (onWell c (State.wellStart .host))) = _
    rw [show onWell c (State.wellStart .host) = State.wellStart .host c from funext (onWell_fin c _)]
  slot := by rw [State.issueStep, kind, target]; exact onWell_fin c _ s
  target := fun _ => claims_well target
  checks := .inl ⟨fun _ _ => rfl, by simp [kind]⟩
  apart := startOwner_apart

theorem wellStop_issues {c : WellNo} (kind : st.kind = .wellStop) (target : st.target = some (.well c.val)) :
    Issues k st s (.well c) (.wellCmdStop c) 0x30 (fun caller => State.wellStop caller c)
      (fun caller => State.wellStop caller c) where
  request := .inl ⟨c, target, rfl, .inr (.inl ⟨kind, rfl⟩)⟩
  host := fun u => by
    show Host.Outcome.next (u.serve 0x30 (onWell c (State.wellStop .host))) = _
    rw [show onWell c (State.wellStop .host) = State.wellStop .host c from funext (onWell_fin c _)]
  slot := by rw [State.issueStep, kind, target]; exact onWell_fin c _ s
  target := fun _ => claims_well target
  checks := .inr ⟨rfl, .inl kind⟩
  apart := wellStop_apart

theorem wellWeight_issues {c : WellNo} {v : Int} (kind : st.kind = .wellWeight)
    (target : st.target = some (.well c.val)) (value : st.value = some (.num v)) :
    Issues k st s (.well c) (.wellCmdWeight c v) 0x30 (fun caller => State.wellWeight caller c v)
      (fun _ => weightOwner c v) where
  request := .inl ⟨c, target, rfl, .inr (.inr ⟨v, kind, value, rfl⟩)⟩
  host := fun u => by
    show Host.Outcome.next (u.serve 0x30 (onWell c fun c => State.wellWeight .host c v)) = _
    rw [show onWell c (fun c => State.wellWeight .host c v) = State.wellWeight .host c v from funext (onWell_fin c _)]
  slot := by rw [State.issueStep, kind, target, value]; exact onWell_fin c _ s
  target := fun _ => claims_well target
  checks := .inl ⟨fun _ _ => rfl, by simp [kind]⟩
  apart := weightOwner_apart v

theorem balMode_issues {m : BalMode} (kind : st.kind = .balMode) (target : st.target = some .balance)
    (value : st.value = some (.mode m)) :
    Issues k st s .balance (.balCmdMode (some m)) 0x40 (fun caller => State.balMode caller m)
      (fun _ => modeOwner m) where
  request := .inr (.inl ⟨rfl, m, kind, value, rfl⟩)
  host := fun _ => rfl
  slot := by rw [State.issueStep, kind, target, value]
  target := fun _ => claims_balance target
  checks := .inl ⟨fun _ _ => rfl, by simp [kind]⟩
  apart := modeOwner_apart m

theorem turbStart_issues (kind : st.kind = .turbStart) (target : st.target = some .turbine) :
    Issues k st s .turbine .turbCmdStart 0x38 State.turbStart (fun _ => turbStartOwner) where
  request := .inr (.inr (.inl ⟨rfl, .inl ⟨kind, rfl⟩⟩))
  host := fun _ => rfl
  slot := by rw [State.issueStep, kind, target]
  target := fun _ => claims_turbine target
  checks := .inl ⟨fun _ _ => rfl, by simp [kind]⟩
  apart := turbStartOwner_apart

theorem turbLoad_issues {v : Int} (kind : st.kind = .turbLoad) (target : st.target = some .turbine)
    (value : st.value = some (.num v)) :
    Issues k st s .turbine (.turbCmdLoad (some v)) 0x38 (fun caller => State.turbLoad caller v)
      (fun _ => loadOwner v) where
  request := .inr (.inr (.inl ⟨rfl, .inr (.inr ⟨v, kind, value, rfl⟩)⟩))
  host := fun _ => rfl
  slot := by rw [State.issueStep, kind, target, value]
  target := fun _ => claims_turbine target
  checks := .inl ⟨fun _ _ => rfl, by simp [kind]⟩
  apart := loadOwner_apart v

theorem turbStop_issues (kind : st.kind = .turbStop) (target : st.target = some .turbine) :
    Issues k st s .turbine .turbCmdStop 0x38 State.turbStop State.turbStop where
  request := .inr (.inr (.inl ⟨rfl, .inr (.inl ⟨kind, rfl⟩)⟩))
  host := fun _ => rfl
  slot := by rw [State.issueStep, kind, target]
  target := fun _ => claims_turbine target
  checks := .inr ⟨rfl, .inr (.inl kind)⟩
  apart := turbStop_apart

theorem hxOn_issues (kind : st.kind = .hxOn) (target : st.target = some .exchanger) :
    Issues k st s .exchanger .hxCmdOn 0x28 State.hxOn (fun _ => onOwner) where
  request := .inr (.inr (.inr ⟨rfl, .inl ⟨kind, rfl⟩⟩))
  host := fun _ => rfl
  slot := by rw [State.issueStep, kind, target]
  target := fun _ => claims_exchanger target
  checks := .inl ⟨fun _ _ => rfl, by simp [kind]⟩
  apart := onOwner_apart

theorem hxOff_issues (kind : st.kind = .hxOff) (target : st.target = some .exchanger) :
    Issues k st s .exchanger .hxCmdOff 0x28 State.hxOff State.hxOff where
  request := .inr (.inr (.inr ⟨rfl, .inr (.inl ⟨kind, rfl⟩)⟩))
  host := fun _ => rfl
  slot := by rw [State.issueStep, kind, target]
  target := fun _ => claims_exchanger target
  checks := .inr ⟨rfl, .inr (.inr kind)⟩
  apart := hxOff_apart

theorem hxOffset_issues {v : Int} (kind : st.kind = .hxOffset) (target : st.target = some .exchanger)
    (value : st.value = some (.num v)) :
    Issues k st s .exchanger (.hxCmdOffset v) 0x28 (fun caller => State.hxOffset caller v)
      (fun _ => offsetOwner v) where
  request := .inr (.inr (.inr ⟨rfl, .inr (.inr ⟨v, kind, value, rfl⟩)⟩))
  host := fun _ => rfl
  slot := by rw [State.issueStep, kind, target, value]
  target := fun _ => claims_exchanger target
  checks := .inl ⟨fun _ _ => rfl, by simp [kind]⟩
  apart := offsetOwner_apart v

/-- The command that a well-formed step issues, as its owner takes it. -/
theorem issueStep_takes {n : Nat} (fits : StepFits n st) (command : CommandKind st.kind) :
    OwnerTakes k st s (s.issueStep k st).1 (s.issueStep k st).2.1 := by
  obtain ⟨-, -, -, -, well, weight, mode, turbine, load, exchanger, offset, -, -, -, -⟩ := fits
  obtain ⟨notQty, notState, notDelay, notPause, notFin, known⟩ := command
  cases kind : st.kind with
  | wellStart =>
    obtain ⟨⟨c, hc, target⟩, -⟩ := well (.inl kind)
    exact (wellStart_issues (c := ⟨c, hc⟩) kind target).takes
  | wellStop =>
    obtain ⟨⟨c, hc, target⟩, -⟩ := well (.inr kind)
    exact (wellStop_issues (c := ⟨c, hc⟩) kind target).takes
  | wellWeight =>
    obtain ⟨⟨c, hc, target⟩, v, -, -, value⟩ := weight kind
    exact (wellWeight_issues (c := ⟨c, hc⟩) kind target value).takes
  | balMode =>
    obtain ⟨target, m, value⟩ := mode kind
    exact (balMode_issues kind target value).takes
  | turbStart => exact (turbStart_issues kind (turbine (.inl kind)).1).takes
  | turbLoad =>
    obtain ⟨target, v, -, -, value⟩ := load kind
    exact (turbLoad_issues kind target value).takes
  | turbStop => exact (turbStop_issues kind (turbine (.inr kind)).1).takes
  | hxOn => exact (hxOn_issues kind (exchanger (.inl kind)).1).takes
  | hxOff => exact (hxOff_issues kind (exchanger (.inr kind)).1).takes
  | hxOffset =>
    obtain ⟨target, v, -, -, value⟩ := offset kind
    exact (hxOffset_issues kind target value).takes
  | waitQty => exact absurd kind notQty
  | waitState => exact absurd kind notState
  | delay => exact absurd kind notDelay
  | pause => exact absurd kind notPause
  | fin => exact absurd kind notFin
  | other => exact absurd kind known

end Commands

/-! ### The four events (R153 to R155) -/

section Events

variable {s : State} {k : SlotNo} {st : Step}

theorem toTake_current {p : StepKind → Bool} (running : (s.sqr.get k).state = .running)
    (current : (s.sqr.get k).steps[(s.sqr.get k).ptr]? = some st) (h : p st.kind = true) :
    s.toTake k p = some st := by
  rw [State.toTake, if_pos running, Slot.step, current]
  exact if_pos h

theorem waitSeconds_delay {v : Int} (kind : st.kind = .delay) (value : st.value = some (.num v)) :
    waitSeconds st = seconds v := by
  rw [waitSeconds, kind, value]

theorem waitSeconds_timed {n : Nat} (kind : st.kind ≠ .delay) (timeout : st.timeout = some n) :
    waitSeconds st = n := by
  cases hk : st.kind <;> simp_all [waitSeconds]

/-- The seconds of a well-formed wait step. -/
theorem waitSeconds_fits {n : Nat} (fits : StepFits n st)
    (wait : st.kind = .waitQty ∨ st.kind = .waitState ∨ st.kind = .delay) :
    (st.kind ≠ .delay → st.timeout = some (waitSeconds st))
      ∧ (st.kind = .delay → st.value = some (.num (waitSeconds st))) := by
  obtain ⟨-, -, timed, -, -, -, -, -, -, -, -, -, -, delays, -⟩ := fits
  refine ⟨fun other => ?_, fun kind => ?_⟩
  · obtain ⟨t, -, -, timeout⟩ := timed (by simpa [other] using wait)
    rw [waitSeconds_timed other timeout, timeout]
  · obtain ⟨-, v, positive, -, value⟩ := delays kind
    rw [waitSeconds_delay kind value, value]
    have whole : ((seconds v : Nat) : Int) = v := Int.toNat_of_nonneg (by omega)
    rw [whole]

end Events

/-- Settles O51, by the owner's command of each kind of step, apart from the slots and the port, and by the kind of a
wait. -/
theorem stepsAreTaken : Obligations.StepsAreTaken := by
  intro s k st running current fits
  refine ⟨fun command => ?_, fun wait => ?_, fun pause => ?_, fun finish => ?_⟩
  · have taken : (s.took (.seqCommandStep k)).toTake k isCommand = some st :=
      toTake_current running current ((Laws.isCommand_iff _).2 command)
    refine ⟨((s.took (.seqCommandStep k)).issueStep k st).1, ((s.took (.seqCommandStep k)).issueStep k st).2.1,
      (s.took (.seqCommandStep k)).takeCommand k st, ?_, issueStep_takes fits command, fun good => ?_, fun bad bad' => ?_⟩
    · show execSeqCommandStep k s = _
      dsimp only [execSeqCommandStep]
      rw [taken]
    · have moved : (s.took (.seqCommandStep k)).takeCommand k st
          = ((s.took (.seqCommandStep k)).issueStep k st).1.advance k := if_pos good
      rw [moved]
      exact Laws.advance_movesOn _ _
    · have failed : (s.took (.seqCommandStep k)).takeCommand k st = ((s.took (.seqCommandStep k)).issueStep k st).1.failStep k
          (.refused ((s.took (.seqCommandStep k)).issueStep k st).2.1) := if_neg (by simp [bad, bad'])
      rw [failed]
      exact Laws.failStep_fails _ _ _
  · have taken : (s.took (.seqWaitStep k)).toTake k isWait = some st :=
      toTake_current running current (by rcases wait with h | h | h <;> rw [h] <;> rfl)
    refine ⟨(s.took (.seqWaitStep k)).beginWait k st, ?_, fun met => ?_, fun unmet => ?_⟩
    · show execSeqWaitStep k s = _
      dsimp only [execSeqWaitStep]
      rw [taken]
    · have moved : (s.took (.seqWaitStep k)).beginWait k st = (s.took (.seqWaitStep k)).advance k :=
        if_pos ((Laws.waitHolds_iff _ _).2 met)
      rw [moved]
      exact Laws.advance_movesOn _ _
    · have waits : (s.took (.seqWaitStep k)).beginWait k st = (s.took (.seqWaitStep k)).moveSlot k
          { s.sqr.get k with state := .waiting, timer := .running (waitSeconds st) } :=
        if_neg fun h => unmet ((Laws.waitHolds_iff _ _).1 h)
      obtain ⟨timed, delays⟩ := waitSeconds_fits fits wait
      refine ⟨waitSeconds st, timed, delays, ?_⟩
      rw [waits]
      exact Laws.moveSlot_moves _ _ _
  · have taken : (s.took (.seqPauseStep k)).toTake k (fun x => decide (x = .pause)) = some st :=
      toTake_current running current (decide_eq_true pause)
    refine ⟨(s.took (.seqPauseStep k)).moveSlot k
      { s.sqr.get k with state := .suspended, suspendedFrom := some .pause }, ?_, Laws.moveSlot_moves _ _ _⟩
    show execSeqPauseStep k s = _
    dsimp only [execSeqPauseStep]
    rw [taken]
    rfl
  · have taken : (s.took (.seqEndStep k)).toTake k (fun x => decide (x = .fin)) = some st :=
      toTake_current running current (decide_eq_true finish)
    refine ⟨(s.took (.seqEndStep k)).finishSlot k, ?_, Laws.finishSlot_finishes _ _⟩
    show execSeqEndStep k s = _
    dsimp only [execSeqEndStep]
    rw [taken]

end Sys2Proof.Proofs

/-! PROOFS. The alarm table: the changes and clears of the owners (R164, R165, R167 to R169). -/

namespace Sys2Proof.Proofs

open Sys2Proof.Machine

section Alarms

variable {s : State} {now : U32} {code : AlarmCode} {source : Source} {ch : AlarmChange} {table : List AlarmEntry}
  {ovf : Bool} {l : List Notice} {before after : List AlarmEntry} {e : AlarmEntry}

/-! ### From the table to the state -/

theorem alarmChange_becomes (h : s.alt.change s.svp.plantTime code source ch
    = ({ s.alt with table := table, overflow := ovf }, l)) : AlarmsBecome table ovf l s (s.alarmChange code source ch) := by
  dsimp only [State.alarmChange]
  rw [h]
  exact Laws.evaluate_becomes s { s.alt with table := table, overflow := ovf } l rfl rfl

theorem alarmChange_stands (legal : s.alt.legal) (h : s.alt.change s.svp.plantTime code source ch = (s.alt, [])) :
    s.alarmChange code source ch = s := by
  dsimp only [State.alarmChange]
  rw [h]
  exact Laws.evaluate_legal legal

theorem alarmClear_becomes (h : s.alt.clear s.svp.plantTime code source
    = ({ s.alt with table := table, overflow := ovf }, l)) : AlarmsBecome table ovf l s (s.alarmClear code source) := by
  dsimp only [State.alarmClear]
  rw [h]
  exact Laws.evaluate_becomes s { s.alt with table := table, overflow := ovf } l rfl rfl

theorem alarmClear_stands (legal : s.alt.legal) (h : s.alt.clear s.svp.plantTime code source = (s.alt, [])) :
    s.alarmClear code source = s := by
  dsimp only [State.alarmClear]
  rw [h]
  exact Laws.evaluate_legal legal

end Alarms

section Table

variable {a : Alt} {now : U32} {ch : AlarmChange} {before after : List AlarmEntry} {e : AlarmEntry}

/-! ### A clear (R165) -/

theorem clear_missing {code : AlarmCode} {source : Source} (h : ∀ e ∈ a.table, e.code = code → e.source ≠ source) :
    a.clear now code source = (a, []) := by
  rw [Alt.clear, Laws.entry_none h]

theorem clear_cleared (legal : a.legal) (he : a.table = before ++ e :: after) (hs : e.state = .clearedUnacked) :
    a.clear now e.code e.source = (a, []) := by
  simp only [Alt.clear, Laws.entry_some legal he, hs]

theorem clear_acked (legal : a.legal) (he : a.table = before ++ e :: after) (hs : e.state = .activeAcked) :
    a.clear now e.code e.source = ({ a with table := before ++ after, overflow := false }, [.alarm e .removed]) := by
  simp only [Alt.clear, Laws.entry_some legal he, hs, Laws.remove_eq legal he]

theorem clear_unacked (legal : a.legal) (he : a.table = before ++ e :: after) (hs : e.state = .activeUnacked) :
    a.clear now e.code e.source
      = ({ a with table := before ++ { e with state := .clearedUnacked, lastChange := now } :: after },
        [.alarm { e with state := .clearedUnacked, lastChange := now } .cleared]) := by
  simp only [Alt.clear, Laws.entry_some legal he, hs]
  exact congrArg (·, _) (Laws.put_eq legal he _ rfl rfl)

/-! ### A change without an entry (R164, R167) -/

theorem change_missing {code : AlarmCode} {source : Source} (h : ∀ e ∈ a.table, e.code = code → e.source ≠ source) :
    a.change now code source ch
      = a.add ⟨code, source, ch.severity, .activeUnacked, now, now, 1, ch.value.getD 0⟩ := by
  rw [Alt.change, Laws.entry_none h]

theorem add_room (h : a.table.length < 64) (e : AlarmEntry) :
    a.add e = ({ a with table := a.table ++ [e] }, [.alarm e .raised]) := if_pos h

theorem add_evicts {old : AlarmEntry} (h : a.table.length = 64) (ho : a.table = before ++ old :: after)
    (cleared : old.state = .clearedUnacked) (first : ∀ e ∈ before, e.state ≠ .clearedUnacked) (e : AlarmEntry) :
    a.add e = ({ a with table := before ++ after ++ [e], overflow := false },
      [.alarm old .evicted, .alarm e .raised]) := by
  obtain ⟨found, erased⟩ := Laws.evict_first ho cleared first
  have full : ¬a.table.length < Config.alarmCapacity := by rw [h]; decide
  rw [Alt.add, if_neg full, found, erased]

theorem add_full (h : a.table.length = 64) (stand : ∀ e ∈ a.table, e.state ≠ .clearedUnacked) (e : AlarmEntry) :
    a.add e = ({ a with overflow := true }, [.alarm { e with occurrences := 0 } .notEntered]) := by
  have full : ¬a.table.length < Config.alarmCapacity := by rw [h]; decide
  rw [Alt.add, if_neg full, List.find?_eq_none.2 fun x hx => by simpa using stand x hx]

/-! ### A change of an entry (R164) -/

theorem change_reopens (legal : a.legal) (he : a.table = before ++ e :: after) (hs : e.state = .clearedUnacked)
    {e' : AlarmEntry} (h : e' = { e with
      severity := ch.severity, state := .activeUnacked, occurrences := min (e.occurrences + 1) 65535
      value := ch.value.getD e.value, lastChange := now }) :
    a.change now e.code e.source ch = ({ a with table := before ++ e' :: after }, [.alarm e' .raised]) := by
  subst h
  simp only [Alt.change, Laws.entry_some legal he, hs, if_true]
  exact congrArg (·, _) (Laws.put_eq legal he _ rfl rfl)

theorem change_active (legal : a.legal) (he : a.table = before ++ e :: after) (hs : e.state ≠ .clearedUnacked) :
    a.change now e.code e.source ch = a.changeActive now ch e := by
  simp only [Alt.change, Laws.entry_some legal he, if_neg hs]

theorem below_irrefl (x : Severity) : ¬Below x x := fun h => absurd ((Laws.rank_lt_iff x x).2 h) (lt_irrefl _)

theorem below_asymm {x y : Severity} (h : Below x y) : ¬Below y x := fun h' =>
  absurd ((Laws.rank_lt_iff x y).2 h) (lt_asymm ((Laws.rank_lt_iff y x).2 h'))

theorem below_ne {x y : Severity} (h : Below x y) : x ≠ y := by
  rintro rfl
  exact below_irrefl _ h

theorem changeActive_escalates (legal : a.legal) (he : a.table = before ++ e :: after) {v : Int}
    (value : ch.value = some v) (h : Below e.severity ch.severity) {e' : AlarmEntry}
    (h' : e' = { e with severity := ch.severity, state := .activeUnacked, value := v, lastChange := now }) :
    a.changeActive now ch e = ({ a with table := before ++ e' :: after }, [.alarm e' .escalated]) := by
  subst h'
  simp only [Alt.changeActive, value, if_pos ((Laws.rank_lt_iff _ _).2 h)]
  exact congrArg (·, _) (Laws.put_eq legal he _ rfl rfl)

theorem changeActive_same {v : Int} (value : ch.value = some v) (h : ch.severity = e.severity) (hv : v = e.value) :
    a.changeActive now ch e = (a, []) := by
  have level : ¬e.severity.rank < ch.severity.rank := by rw [h]; exact lt_irrefl _
  simp only [Alt.changeActive, value, if_neg level, if_pos h, if_pos hv.symm]

theorem changeActive_value (legal : a.legal) (he : a.table = before ++ e :: after) {v : Int}
    (value : ch.value = some v) (h : ch.severity = e.severity) (hv : v ≠ e.value) :
    a.changeActive now ch e
      = ({ a with table := before ++ { e with value := v, lastChange := now } :: after }, []) := by
  have level : ¬e.severity.rank < ch.severity.rank := by rw [h]; exact lt_irrefl _
  simp only [Alt.changeActive, value, if_neg level, if_pos h, if_neg hv.symm]
  exact congrArg (·, _) (Laws.put_eq legal he _ rfl rfl)

theorem changeActive_deescalates (legal : a.legal) (he : a.table = before ++ e :: after)
    (h : Below ch.severity e.severity) {e' : AlarmEntry}
    (h' : e' = { e with severity := ch.severity, lastChange := now }) :
    a.changeActive now ch e = ({ a with table := before ++ e' :: after }, [.alarm e' .deescalated]) := by
  subst h'
  have lower := (Laws.rank_lt_iff _ _).2 h
  cases value : ch.value with
  | some v =>
    simp only [Alt.changeActive, value, if_neg (lt_asymm lower), if_neg (below_ne h)]
    exact congrArg (·, _) (Laws.put_eq legal he _ rfl rfl)
  | none =>
    simp only [Alt.changeActive, value, if_pos lower]
    exact congrArg (·, _) (Laws.put_eq legal he _ rfl rfl)

theorem changeActive_stands (value : ch.value = none) (h : ¬Below ch.severity e.severity) :
    a.changeActive now ch e = (a, []) := by
  simp only [Alt.changeActive, value, if_neg fun on => h ((Laws.rank_lt_iff _ _).1 on)]

/-- A change's severity and value, as it is written. -/
theorem change_carries {sev : Severity} {val : Option Int}
    (raised : ∀ x v, ch = .raise x v ∨ ch = .escalate x v → sev = x ∧ val = some v)
    (lowered : ∀ x, ch = .deescalate x → sev = x ∧ val = none) : ch.severity = sev ∧ ch.value = val := by
  cases ch with
  | raise x v =>
    obtain ⟨rfl, rfl⟩ := raised x v (.inl rfl)
    exact ⟨rfl, rfl⟩
  | escalate x v =>
    obtain ⟨rfl, rfl⟩ := raised x v (.inr rfl)
    exact ⟨rfl, rfl⟩
  | deescalate x =>
    obtain ⟨rfl, rfl⟩ := lowered x rfl
    exact ⟨rfl, rfl⟩

end Table

/-- Settles O53, by the entry that stands, its state, and the room in the table. -/
theorem alarmChangesAndClears : Obligations.AlarmChangesAndClears := by
  intro s code source legal now ovf table hnow hovf htable
  subst hnow hovf htable
  refine ⟨⟨(s.took (.alarmClear code source)).alarmClear code source, rfl, ?_⟩,
    fun ch sev val raised lowered => ⟨(s.took (.alarmChange code source ch)).alarmChange code source ch, rfl, ?_⟩⟩
  · rintro m rfl
    refine ⟨fun missing => alarmClear_stands legal (clear_missing missing), ?_⟩
    rintro before e after he rfl rfl
    exact ⟨fun hs => alarmClear_stands legal (clear_cleared legal he hs),
      fun hs => alarmClear_becomes (clear_acked legal he hs),
      fun hs => ⟨_, rfl, alarmClear_becomes (clear_unacked legal he hs)⟩⟩
  · obtain ⟨rfl, rfl⟩ := change_carries raised lowered
    rintro m rfl
    refine ⟨fun missing => ⟨_, rfl, fun room => ?_, fun full before old after ho cleared first => ?_,
      fun full stand => ?_⟩, ?_⟩
    · exact alarmChange_becomes ((change_missing missing).trans (add_room room _))
    · exact alarmChange_becomes ((change_missing missing).trans (add_evicts full ho cleared first _))
    · exact alarmChange_becomes ((change_missing missing).trans (add_full full stand _))
    rintro before e after he rfl rfl
    refine ⟨fun hs => ⟨_, rfl, alarmChange_becomes (change_reopens legal he hs rfl)⟩, fun hs =>
      have active := change_active (now := s.svp.plantTime) (ch := ch) legal he hs
      ⟨fun v value higher => ⟨_, rfl, ?_⟩, fun v value same => ⟨fun hv => ?_, fun hv => ?_⟩,
        fun lower => ⟨_, rfl, ?_⟩, fun value level => ?_⟩⟩
    · exact alarmChange_becomes (active.trans (changeActive_escalates legal he value higher rfl))
    · exact alarmChange_stands legal (active.trans (changeActive_same value same hv))
    · exact alarmChange_becomes (active.trans (changeActive_value legal he value same hv))
    · exact alarmChange_becomes (active.trans (changeActive_deescalates legal he lower rfl))
    · exact alarmChange_stands legal (active.trans (changeActive_stands value level))

end Sys2Proof.Proofs

/-! PROOFS. Settings and limit rows: the blocks that take a change, and the requests that write one (R174 to R177). -/

namespace Sys2Proof.Proofs

open Sys2Proof.Machine

/-! ### A setting taken by the block that reads it (R174) -/

section Items

variable {s : State} {i : Item}

theorem itemTaken_later (h : readLater i) : s.itemTaken i = s := by
  cases i with
  | well c x =>
    obtain ⟨role, minFlow, maxFlow⟩ := h
    cases x with
    | role => exact absurd rfl role
    | minFlow => exact absurd rfl minFlow
    | maxFlow => exact absurd rfl maxFlow
    | _ => rfl
  | turbine x =>
    obtain ⟨rated, rate, warm⟩ := h
    cases x with
    | ratedLoad => exact absurd rfl rated
    | steamRate => exact absurd rfl rate
    | warmSteam => exact absurd rfl warm
    | _ => rfl
  | exchanger x =>
    obtain ⟨min, max, fallback⟩ := h
    cases x with
    | supplyMin => exact absurd rfl min
    | supplyMax => exact absurd rfl max
    | fallbackSupply => exact absurd rfl fallback
    | _ => rfl
  | balance x =>
    obtain ⟨fraction, base⟩ := h
    cases x with
    | steamFraction => exact absurd rfl fraction
    | heatBaseFlow => exact absurd rfl base
    | _ => rfl
  | scaling x => rfl
  | field x => rfl
  | entry e x => rfl
  | qty q x =>
    obtain rfl : x = .weight := h
    rfl

theorem hxItem_retargets {x : HxItem} (h : x = .supplyMin ∨ x = .supplyMax ∨ x = .fallbackSupply) :
    s.itemTaken (.exchanger x) = s.retarget := by
  rcases h with rfl | rfl | rfl <;> rfl

/-- A flow limit of a well that BBU does not allocate changes nothing. -/
theorem flowItem_idle {c : WellNo} {x : WellItem} (hx : x = .minFlow ∨ x = .maxFlow)
    (h : s.role c = .unused ∨ s.role c = .reinjection ∧ x = .minFlow) : s.itemTaken (.well c x) = s := by
  have idle : s.role c ≠ .production := by
    intro on
    rcases h with h | ⟨h, -⟩ <;> rw [h] at on <;> cases on
  rcases hx with rfl | rfl
  · exact if_neg idle
  · obtain unused : s.role c = .unused := h.resolve_right fun h => nomatch h.2
    show s.maxFlowTaken c = s
    rw [State.maxFlowTaken, unused]

theorem flowItem_production {c : WellNo} {x : WellItem} (hx : x = .minFlow ∨ x = .maxFlow) (h : s.role c = .production) :
    s.itemTaken (.well c x) = s.allocate := by
  rcases hx with rfl | rfl
  · exact if_pos h
  · exact maxFlowTaken_production h

/-- STEAM_FRACTION at TBC, then at BBU. -/
theorem steamFraction_acts (hw : s.wellsLegal) (ho : s.ssl.settings.inOrder) : ∃ a b,
    TurbineTakes false [] s s.ceilingFound a ∧ Reckons a b
      ∧ RecomputesCeiling b (s.itemTaken (.balance .steamFraction)) := by
  have frame : Frame [.tbc, .svp, .handed] s s.steamRateTaken := .steamRateTaken (.refl _ _) (List.Subset.refl _)
  have legal : s.steamRateTaken.wellsLegal ∧ s.steamRateTaken.ssl.settings.inOrder := by
    unfold State.wellsLegal
    rw [frame.wcc (by decide), frame.ssl (by decide)]
    exact ⟨hw, ho⟩
  obtain ⟨reckons, recomputes⟩ := reckonAnew_reckons legal.1 legal.2
  exact ⟨_, _, recomputeCeiling_takes s, reckons, recomputes⟩

end Items

/-- The block that reads a setting takes a change of it, item by item. -/
theorem itemTaken_acts (i : Item) (s : State) : ItemActs i s (s.itemTaken i) := by
  refine ⟨itemTaken_later, ?_, ?_, ?_, ?_, ?_, ?_, ?_, fun hw ho => ⟨?_, ?_⟩⟩
  · rintro q x rfl
    exact Laws.qtySettingTaken_acts s q x
  · rintro x rfl h
    exact ⟨s.targetBase, (targetBase_iff s).1, (targetBase_iff s).2, hxItem_retargets h⟩
  · rintro c rfl
    rfl
  · rintro c x rfl h
    refine ⟨flowItem_idle h, fun hw ho => ⟨fun production => ?_, ?_⟩⟩
    · rw [flowItem_production h production]
      exact Laws.allocate_allocates s hw ho
    · rintro reinjection rfl
      show RecomputesCeiling s (s.maxFlowTaken c)
      rw [maxFlowTaken_reinjection reinjection]
      exact Laws.ceilingAnew_recomputes s hw ho
  · rintro rfl
    exact Laws.commit_takes s false [] _ (.inr rfl)
  · rintro rfl
    exact Laws.commit_takes s false [] _ (.inr rfl)
  · rintro rfl
    exact recomputeCeiling_takes s
  · rintro rfl
    exact ⟨s.reckon, reckonAnew_reckons hw ho⟩
  · rintro rfl
    exact steamFraction_acts hw ho

/-! ### A limit row taken (R38, R39, R177) -/

section Rows

variable {s : State}

theorem l6Taken_standing (h : s.scm.floor.clock = none ∨ s.scm.floor.silicaStale = true) : s.l6Taken = s :=
  h.elim testStale_idle testStale_standing

theorem l6Taken_early {n : Nat} (clock : s.scm.floor.clock = some n) (h : (n : Int) < s.limit 6 * 60) :
    s.l6Taken = s := by
  have early := setClock_early h
  rwa [setClock_same clock] at early

theorem l6Taken_due {n : Nat} (clock : s.scm.floor.clock = some n) (quiet : s.scm.floor.silicaStale = false)
    (h : s.limit 6 * 60 ≤ (n : Int)) : s.l6Taken = { s with
      scm := { s.scm with floor := { s.scm.floor with silicaStale := true } }
      handed := s.handed ++ [.alarmChange .silicaStale .floor (.raise .alarm ((n / 60 : Nat) : Int)),
        .hxcSilicaStale true] } := by
  have due := setClock_due h quiet
  rw [setClock_same clock, staleRaised, ← clock] at due
  exact due

theorem limitTaken_acts (l : RowNo) (s : State) : RowActs l s (s.limitTaken l) := by
  refine ⟨fun not5 not6 => (if_neg not5).trans (if_neg not6), ?_, ?_⟩
  · rintro rfl
    exact ⟨fun has => if_neg has, fun bare => if_pos bare⟩
  · rintro rfl
    exact ⟨l6Taken_standing, fun n clock quiet => ⟨l6Taken_early clock, l6Taken_due clock quiet⟩⟩

end Rows

/-- Settles O57: each setting and each row at the block that reads it. -/
theorem settingsReachTheirReaders : Obligations.SettingsReachTheirReaders := by
  intro s old
  exact ⟨fun i => ⟨_, rfl, itemTaken_acts i _⟩, fun l => ⟨_, rfl, limitTaken_acts l _⟩⟩

/-! ### A station that is retired by a write (R137) -/

section Retiring

variable {s : State} {e : EntryNo} {old : EntryNo → Station}

theorem namesStation_iff (x : EntryItem) : namesStation x = true ↔ x = .kind ∨ x = .address ∨ x = .channel := by
  cases x <;> simp [namesStation]

/-- The write names the station of entry `e`. -/
def NamesEntry (i : Item) (e : EntryNo) : Prop := i = .entry e .kind ∨ i = .entry e .address ∨ i = .entry e .channel

theorem namesEntry_iff {i : Item} : NamesEntry i e ↔ ∃ x, i = .entry e x ∧ namesStation x = true := by
  constructor
  · rintro (rfl | rfl | rfl)
    · exact ⟨.kind, rfl, rfl⟩
    · exact ⟨.address, rfl, rfl⟩
    · exact ⟨.channel, rfl, rfl⟩
  · rintro ⟨x, rfl, names⟩
    rcases (namesStation_iff x).1 names with rfl | rfl | rfl
    · exact .inl rfl
    · exact .inr (.inl rfl)
    · exact .inr (.inr rfl)

theorem retireChanged_retires {i : Item} (h : NamesEntry i e) (used : (old e).kind ≠ .none) :
    s.retireChanged old i = s.retireStation e (old e) := by
  obtain ⟨x, rfl, names⟩ := namesEntry_iff.1 h
  exact if_pos (by rw [names, decide_eq_true used]; rfl)

theorem retireChanged_stands {i : Item} (h : ∀ e, NamesEntry i e → (old e).kind = .none) :
    s.retireChanged old i = s := by
  cases i with
  | entry e x =>
    refine if_neg fun both => ?_
    obtain ⟨names, used⟩ := Bool.and_eq_true_iff.1 both
    exact of_decide_eq_true used (h e (namesEntry_iff.2 ⟨x, rfl, names⟩))
  | _ => rfl

theorem inFlightWith_eq {f : Flight} (h : s.flc.flight = some f) : s.inFlightWith e = decide (f.entry = e) := by
  rw [State.inFlightWith, h]

theorem inFlightWith_false (h : ∀ f, s.flc.flight = some f → f.entry ≠ e) : s.inFlightWith e = false := by
  cases hf : s.flc.flight with
  | none => rw [State.inFlightWith, hf]
  | some f => rw [inFlightWith_eq hf, decide_eq_false (h f hf)]

end Retiring

/-! ### SET_PARAM and SET_LIMIT (R174, R177) -/

section Writes

variable {s : State} {i : Item} {v : Int}

theorem existing_own (i : Item) : existing (some (itemGroup i)) (some i) = some i := if_pos rfl

theorem storeBusy_iff : s.storeBusy = true ↔ s.ssl.storing ≠ none := by
  rw [State.storeBusy, Option.isSome_iff_ne_none]

theorem storeBusy_false : s.storeBusy = false ↔ s.ssl.storing = none := by
  rw [State.storeBusy, Option.isSome_eq_false_iff, Option.isNone_iff_eq_none]

theorem onItem_own (f : Item → State → Answer) : onItem (some (itemGroup i)) (some i) f s = f i s := by
  rw [onItem, existing_own]

theorem onItem_unknown {g : Option Group} {i : Option Item} (h : ∀ x, i = some x → g ≠ some (itemGroup x))
    (f : Item → State → Answer) : onItem g i f s = s.says .badValue := by
  rw [onItem, existing_none h]

theorem setItem_badValue (h : ¬s.valueOk i v = true) : State.setItem i v s = s.says .badValue := if_pos (by simp [h])

theorem setItem_busy (ok : s.valueOk i v = true) (busy : s.storeBusy = true) : State.setItem i v s = s.says .busy :=
  (if_neg (by simp [ok])).trans (if_pos busy)

theorem setItem_locked (ok : s.valueOk i v = true) (free : s.storeBusy = false) (locked : s.groupLocked (itemGroup i) = true) :
    State.setItem i v s = s.says .refusedLocked :=
  (if_neg (by simp [ok])).trans ((if_neg (by simp [free])).trans (if_pos locked))

theorem setItem_state (ok : s.valueOk i v = true) (free : s.storeBusy = false)
    (unheld : ¬s.groupLocked (itemGroup i) = true) (refused : ¬s.stateAllows i = true) :
    State.setItem i v s = s.says .refusedState :=
  (if_neg (by simp [ok])).trans ((if_neg (by simp [free])).trans ((if_neg unheld).trans (if_pos (by simp [refused]))))

theorem setItem_taken (ok : s.valueOk i v = true) (free : s.storeBusy = false)
    (unheld : ¬s.groupLocked (itemGroup i) = true) (allowed : s.stateAllows i = true) :
    State.setItem i v s = (s.applyItem i v, .ok, .none) :=
  (if_neg (by simp [ok])).trans ((if_neg (by simp [free])).trans ((if_neg unheld).trans (if_neg (by simp [allowed]))))

/-- SET_PARAM of an item is answered by its owner. -/
theorem exec_setParam (idle : s.portIdle) {u : State} {st : Status} {c : Content}
    (h : State.setItem i v s.deselect = (u, st, c)) :
    exec (.setParam (some (itemGroup i)) (some i) v) s = .next (u.answer 0x70 st c) :=
  exec_of_serve idle rfl ((onItem_own (s := s.deselect) _).trans h)

theorem setLimit_answers {l : RowNo} {fits : Prop} (hf : fits ↔ (limitRange l).lo ≤ v ∧ v ≤ (limitRange l).hi) :
    (¬fits → State.setLimit l v s = s.says .badValue)
    ∧ (fits → s.ssl.storing ≠ none → State.setLimit l v s = s.says .busy)
    ∧ (fits → s.ssl.storing = none → l.val < s.ssl.boundary → State.setLimit l v s = s.says .refusedProtected)
    ∧ (fits → s.ssl.storing = none → s.ssl.boundary ≤ l.val → State.setLimit l v s = (s.applyLimit l v, .ok, .none)) := by
  rw [hf, ← storeBusy_iff, ← storeBusy_false, State.setLimit, Laws.indexArg_fin]
  refine ⟨fun bad => if_pos bad, fun good busy => (if_neg (not_not_intro good)).trans (if_pos busy),
    fun good free guarded => (if_neg (not_not_intro good)).trans ((if_neg (by simp [free])).trans (if_pos guarded)),
    fun good free above => (if_neg (not_not_intro good)).trans ((if_neg (by simp [free])).trans
      (if_neg (Nat.not_lt.2 above)))⟩

/-- An accepted write: the value in force, the change taken, the old station retired. -/
theorem applyItem_writes (s : State) (i : Item) (v : Int) : ∃ table : Settings,
    (∀ j, table.read j = if j = i then v else s.ssl.settings.read j)
    ∧ ∃ m n : State, m = { s with ssl := { s.ssl with settings := table } } ∧ ItemActs i m n
      ∧ (∀ e, NamesEntry i e → (s.station e).kind ≠ .none →
        (∀ f, s.flc.flight = some f → f.entry = e → s.applyItem i v = { n with flc := { n.flc with
          retiring := n.flc.retiring ++ [(e, s.station e)] } })
        ∧ ((∀ f, s.flc.flight = some f → f.entry ≠ e) → Retires e (s.station e) n (s.applyItem i v)))
      ∧ ((∀ e, NamesEntry i e → (s.station e).kind = .none) → s.applyItem i v = n) := by
  have frame : Frame (touchesTaken (.item i)) (s.withItem i v) ((s.withItem i v).itemTaken i) :=
    .itemTaken (.refl _ _) (List.Subset.refl _)
  have link : ((s.withItem i v).itemTaken i).flc = s.flc :=
    frame.flc (by cases i <;> simp [touchesTaken])
  refine ⟨s.ssl.settings.write i v, fun j => Laws.read_write _ _ _ _, s.withItem i v, (s.withItem i v).itemTaken i, rfl,
    itemTaken_acts i _, fun e names used => ?_, fun unused => retireChanged_stands unused⟩
  have retired : s.applyItem i v = ((s.withItem i v).itemTaken i).retireStation e (s.station e) :=
    retireChanged_retires names used
  rw [retired]
  refine ⟨fun f flight entry => Laws.retireStation_waits _ _ _ ?_, fun other => Laws.retireStation_retires _ _ _ ?_⟩
  · rw [inFlightWith_eq (link ▸ flight), decide_eq_true entry]
  · exact inFlightWith_false (link ▸ other)

end Writes

/-- Settles O55: the checks in order, and the accepted write with what takes it. -/
theorem settingsLimitsAndLocks : Obligations.SettingsLimitsAndLocks := by
  intro s idle
  refine ⟨fun g i v unknown => onlyAnswers_of_serve idle rfl (onItem_unknown (s := s.deselect) unknown _),
    fun i v fits locked off hfits hlocked hoff => ?_,
    fun n v high => onlyAnswers_of_serve idle rfl ?_, fun l v fits hfits => ?_,
    onlyAnswers_of_serve idle rfl rfl, onlyAnswers_of_serve idle rfl rfl,
    fun g => ⟨exec_of_serve idle rfl rfl, exec_of_serve idle rfl rfl⟩⟩
  · have value : s.deselect.valueOk i v = true ↔ fits := (Laws.valueOk_iff _ _ _).trans hfits.symm
    have group : s.deselect.groupLocked (itemGroup i) = true ↔ locked := (Laws.groupLocked_iff _ _).trans hlocked.symm
    have state : s.deselect.stateAllows i = true ↔ off := (Laws.stateAllows_iff _ _).trans hoff.symm
    refine ⟨fun bad => exec_setParam idle (setItem_badValue fun ok => bad (value.1 ok)),
      fun good busy => exec_setParam idle (setItem_busy (value.2 good) (storeBusy_iff.2 busy)),
      fun good free held => exec_setParam idle (setItem_locked (value.2 good) (storeBusy_false.2 free) (group.2 held)),
      fun good free unheld on => exec_setParam idle (setItem_state (value.2 good) (storeBusy_false.2 free)
        (fun h => unheld (group.1 h)) fun h => on (state.1 h)), fun good free unheld rests => ?_⟩
    obtain ⟨table, written, m, n, in_force, acts, retires, stands⟩ := applyItem_writes s.deselect i v
    exact ⟨table, written, m, n, _, exec_setParam idle (setItem_taken (value.2 good) (storeBusy_false.2 free)
      (fun h => unheld (group.1 h)) (state.2 rests)), in_force, acts, retires, stands⟩
  · show State.setLimit n v s.deselect = _
    rw [State.setLimit, Laws.indexArg_ge high]
    rfl
  · obtain ⟨bad, busy, guarded, taken⟩ := setLimit_answers (s := s.deselect) hfits
    exact ⟨fun h => onlyAnswers_of_serve idle rfl (bad h), fun h storing => onlyAnswers_of_serve idle rfl (busy h storing),
      fun h free below => onlyAnswers_of_serve idle rfl (guarded h free below),
      fun h free above => ⟨_, exec_of_serve idle rfl (taken h free above), limitTaken_acts l _⟩⟩

end Sys2Proof.Proofs

/-! PROOFS. The bytes of the supervisory port: its receiver, and the layouts of what it sends (R183, R193). -/

namespace Sys2Proof.Proofs

open Sys2Proof.Machine

/-! ### The receiver, byte by byte (R183) -/

/-- Fuel beyond the number of bytes changes nothing. -/
theorem receive_fuel : ∀ (n : Nat) {m : Nat} {l : List Byte}, l.length ≤ n → l.length ≤ m → receive n l = receive m l
  | 0, m, [], _, _ => by cases m <;> rfl
  | n + 1, m, [], _, _ => by cases m <;> rfl
  | n + 1, m + 1, b :: rest, size, size' => by
    have hn : rest.length ≤ n := Nat.le_of_succ_le_succ size
    have hm : rest.length ≤ m := Nat.le_of_succ_le_succ size'
    clear size size'
    by_cases start : b = 0xC3#8
    · subst start
      match rest with
      | [] => rfl
      | [hi] => rfl
      | hi :: lo :: more =>
        have fewer : (more.drop (u16 hi lo + 3)).length ≤ n ∧ (more.drop (u16 hi lo + 3)).length ≤ m := by
          simp only [List.length_cons, List.length_drop] at hn hm ⊢
          omega
        simp only [receive, receive_fuel n hn hm, receive_fuel n fewer.1 fewer.2]
    · simp only [receive, if_pos start, receive_fuel n hn hm]

theorem receive_enough {n : Nat} {l : List Byte} (h : l.length ≤ n) : receive n l = receiver l :=
  receive_fuel n h (Nat.le_refl _)

theorem receiver_hunts {b : Byte} (h : b ≠ 0xC3#8) (l : List Byte) : receiver (b :: l) = receiver l := if_pos h

theorem receiver_long {hi lo : Byte} (h : 240 < u16 hi lo) (l : List Byte) :
    receiver (0xC3#8 :: hi :: lo :: l) = receiver (hi :: lo :: l) :=
  if_pos h

theorem receiver_short {hi lo : Byte} {l : List Byte} (h : u16 hi lo ≤ 240) (short : l.length < u16 hi lo + 3) :
    receiver (0xC3#8 :: hi :: lo :: l) = .partial_ (0xC3#8 :: hi :: lo :: l) :=
  (if_neg (Nat.not_lt.2 h)).trans (if_pos short)

/-- A frame that is all there: taken, or dropped by its CRC. -/
theorem receiver_frame {hi lo kind c d : Byte} {body : List Byte} (size : body.length = u16 hi lo)
    (h : u16 hi lo ≤ 240) (more : List Byte) : receiver (0xC3#8 :: hi :: lo :: kind :: (body ++ c :: d :: more))
      = if crcBytes (hi :: lo :: kind :: body) = [c, d] then .good kind body else receiver more := by
  have full : ¬(kind :: (body ++ c :: d :: more)).length < u16 hi lo + 3 := by
    simp only [List.length_cons, List.length_append]
    omega
  refine (if_neg (Nat.not_lt.2 h)).trans ((if_neg full).trans ?_)
  have inner : (hi :: lo :: kind :: (body ++ c :: d :: more)).take (u16 hi lo + 3) = hi :: lo :: kind :: body := by
    rw [← size, List.take_succ_cons, List.take_succ_cons, List.take_succ_cons, List.take_left]
  have crc : (hi :: lo :: kind :: (body ++ c :: d :: more)).drop (u16 hi lo + 3) = c :: d :: more := by
    rw [← size, List.drop_succ_cons, List.drop_succ_cons, List.drop_succ_cons, List.drop_left]
  have rest : (kind :: (body ++ c :: d :: more)).drop (u16 hi lo + 3) = more := by
    rw [← size, List.drop_succ_cons, ← List.drop_drop, List.drop_left]
    rfl
  have taken : ((kind :: (body ++ c :: d :: more)).drop 1).take (u16 hi lo) = body := by
    rw [← size, List.drop_succ_cons, List.drop_zero, List.take_left]
  rw [inner, crc, rest, taken]
  refine if_congr Iff.rfl rfl (receive_enough ?_)
  simp only [List.length_cons, List.length_append]
  omega

/-- The bytes behind a length are those of a whole frame, or too few. -/
theorem frame_split {n : Nat} {l : List Byte} (h : n + 3 ≤ l.length) : ∃ (kind c d : Byte) (body more : List Byte),
    l = kind :: (body ++ c :: d :: more) ∧ body.length = n := by
  match l with
  | kind :: rest =>
    have enough : n + 2 ≤ rest.length := Nat.le_of_succ_le_succ h
    have tail : (rest.drop n).length = rest.length - n := List.length_drop
    match hd : rest.drop n with
    | [] => simp only [hd, List.length_nil] at tail; omega
    | [c] => simp only [hd, List.length_singleton] at tail; omega
    | c :: d :: more =>
      exact ⟨kind, c, d, rest.take n, more, by rw [← hd, List.take_append_drop], List.length_take_of_le (by omega)⟩

/-- A partial frame goes on when more bytes come. -/
theorem receiver_resumes (more : List Byte) : ∀ (n : Nat) {l p : List Byte}, l.length ≤ n →
    receiver l = .partial_ p → receiver (l ++ more) = receiver (p ++ more)
  | _, [], p, _, h => by
    cases h
    rfl
  | n + 1, b :: rest, p, size, h => by
    have hn : rest.length ≤ n := Nat.le_of_succ_le_succ size
    clear size
    by_cases start : b = 0xC3#8
    · subst start
      match rest with
      | [] =>
        cases h
        rfl
      | [hi] =>
        cases h
        rfl
      | hi :: lo :: l =>
        by_cases long : 240 < u16 hi lo
        · rw [receiver_long long] at h
          exact (receiver_long long (l ++ more)).trans (receiver_resumes more n hn h)
        have bounded : u16 hi lo ≤ 240 := Nat.le_of_not_lt long
        by_cases short : l.length < u16 hi lo + 3
        · rw [receiver_short bounded short] at h
          cases h
          rfl
        · obtain ⟨kind, c, d, body, left, rfl, size⟩ := frame_split (Nat.le_of_not_lt short)
          have behind : (kind :: (body ++ c :: d :: left)) ++ more = kind :: (body ++ c :: d :: (left ++ more)) := by simp
          rw [receiver_frame size bounded] at h
          show receiver (0xC3#8 :: hi :: lo :: ((kind :: (body ++ c :: d :: left)) ++ more)) = _
          rw [behind, receiver_frame size bounded]
          by_cases crc : crcBytes (hi :: lo :: kind :: body) = [c, d]
          · rw [if_pos crc] at h
            cases h
          · rw [if_neg crc] at h ⊢
            refine receiver_resumes more n ?_ h
            simp only [List.length_cons, List.length_append] at hn
            omega
    · rw [receiver_hunts start] at h
      exact (receiver_hunts start (rest ++ more)).trans (receiver_resumes more n hn h)

/-! ### The layouts (R193) -/

theorem bytesOf_one (v : Int) : bytesOf 1 v = be8 v := by simp [bytesOf, be8]

theorem bytesOf_two (v : Int) : bytesOf 2 v = be16 v := by simp [bytesOf, be16, List.range_succ]

theorem bytesOf_four (v : Int) : bytesOf 4 v = be32 v := by simp [bytesOf, be32, List.range_succ]

theorem laidOut_nil : laidOut [] = [] := rfl

theorem laidOut_cons (n : Nat) (v : Int) (l : List (Nat × Int)) : laidOut ((n, v) :: l) = bytesOf n v ++ laidOut l := rfl

theorem be8_natCast (n : Nat) : be8 (n : Int) = [BitVec.ofNat 8 n] := by
  rw [be8, BitVec.ofInt_natCast]

theorem toNat_cast (b : Bool) : ((b.toNat : Nat) : Int) = if b then 1 else 0 := by cases b <;> rfl

/-- A body's length, read back from its two bytes. -/
theorem u16_length {n : Nat} (h : n < 65536) : u16 (BitVec.ofInt 8 ((n : Int) / 256)) (BitVec.ofInt 8 (n : Int)) = n := by
  unfold u16
  rw [BitVec.toNat_ofInt, BitVec.toNat_ofInt]
  omega

theorem supFrame_eq (kind : Byte) (body : List Byte) : supFrame kind body
    = 0xC3#8 :: BitVec.ofInt 8 ((body.length : Int) / 256) :: BitVec.ofInt 8 (body.length : Int) :: kind
      :: (body ++ crcBytes (BitVec.ofInt 8 ((body.length : Int) / 256) :: BitVec.ofInt 8 (body.length : Int) :: kind
        :: body)) := rfl

theorem receiver_supFrame {body : List Byte} (h : body.length ≤ 240) (kind : Byte) (more : List Byte) :
    receiver (supFrame kind body ++ more) = .good kind body := by
  obtain ⟨c, d, crc⟩ := crcBytes_two (BitVec.ofInt 8 ((body.length : Int) / 256) :: BitVec.ofInt 8 (body.length : Int)
    :: kind :: body)
  have size := u16_length (n := body.length) (by omega)
  have whole : supFrame kind body ++ more = 0xC3#8 :: BitVec.ofInt 8 ((body.length : Int) / 256)
      :: BitVec.ofInt 8 (body.length : Int) :: kind :: (body ++ c :: d :: more) := by
    rw [supFrame_eq, crc]
    simp
  rw [whole, receiver_frame size.symm (by omega), if_pos crc]

theorem statusCode_eq (st : Status) : ([.ok, .clamped, .busy, .badKind, .badValue, .badTable, .refusedState,
    .refusedLocked, .refusedClaimed, .refusedProtected, .refusedStore, .notSelected, .notFound].idxOf st : Nat)
      = statusCode st := by
  cases st <;> rfl

theorem toByte_eq (f : Flags) : be8 ((if f.noticesLost then 1 else 0) + (if f.storeBusy then 2 else 0)
    + (if f.storeFault then 4 else 0) + (if f.linkOverrun then 8 else 0) + if f.alarmUnacked then 16 else 0)
      = [f.toByte] := by
  obtain ⟨lost, busy, fault, overrun, unacked⟩ := f
  cases lost <;> cases busy <;> cases fault <;> cases overrun <;> cases unacked <;> rfl

theorem replyHeader_eq (r : Reply) : replyHeader r = headerOf r.status r.flags := by
  rw [headerOf, laidOut_cons, laidOut_cons, laidOut_nil, bytesOf_one, bytesOf_one, toByte_eq, be8_natCast, statusCode_eq]
  rfl

theorem codeNo_eq (code : AlarmCode) : ([.silicaSi, .silicaFloorUnreachable, .silicaStale, .flashWatch, .calciteRisk,
    .pumpFouling, .hxFouling, .hxIsolated, .floorBreach, .wellTrip, .wellLockout, .turbTrip, .steamShortfall, .tankHigh,
    .brineOver, .stationLost, .storeFault].idxOf code + 1 : Nat) = codeNo code := by
  cases code <;> rfl

theorem sourceByte_eq (x : Source) : sourceByte x = (sourceNo x : Nat) := by cases x <;> simp [sourceByte, sourceNo]

theorem severityNo_eq (x : Severity) : ([.watch, .alarm, .trip].idxOf x : Nat) = severityNo x := by cases x <;> rfl

theorem alarmStateNo_eq (x : AlarmState) : [.activeUnacked, .activeAcked, .clearedUnacked].idxOf x = alarmStateNo x := by
  cases x <;> rfl

theorem retentionNo_eq (x : Retention) : [.cleared, .kept, .lost].idxOf x = retentionNo x := by cases x <;> rfl

theorem markNo_eq (x : Mark) : [.raised, .escalated, .deescalated, .cleared, .removed, .evicted, .notEntered].idxOf x
    = markNo x := by cases x <;> rfl

theorem pointStateNo_eq (x : PointState) : ([.clear, .watch, .alarm].idxOf x : Nat) = pointStateNo x := by
  cases x <;> rfl

theorem alarmBytes_eq (e : AlarmEntry) (third : Nat) : alarmBytes e third = entryLaidOut e third := by
  simp only [entryLaidOut, codeNo_eq, severityNo_eq, sourceByte_eq, laidOut_cons, laidOut_nil, bytesOf_one, bytesOf_two,
    bytesOf_four, be8_natCast]
  simp [alarmBytes]

theorem trendBytes_eq (x : Trend) : trendBytes x = trendLaidOut x := by
  simp only [trendLaidOut, pointStateNo_eq, laidOut_cons, laidOut_nil, bytesOf_one, bytesOf_two, bytesOf_four,
    ← toNat_cast, be8_natCast]
  simp [trendBytes]

theorem replyBody_alarms {r : Reply} {n : Nat} {ovf out : Bool} {ret : Retention} {l : List AlarmEntry}
    (h : r.content = .alarms n ovf out ret l) : replyBody r = some (headerOf r.status r.flags
      ++ laidOut [(1, n), (1, if ovf then 1 else 0), (1, if out then 1 else 0),
        (1, ([.cleared, .kept, .lost].idxOf ret : Nat))]
      ++ l.flatMap fun e => entryLaidOut e ([.activeUnacked, .activeAcked, .clearedUnacked].idxOf e.state)) := by
  have entries : (fun e => entryLaidOut e ([.activeUnacked, .activeAcked, .clearedUnacked].idxOf e.state)) = entryBytes :=
    funext fun e => by rw [entryBytes, alarmBytes_eq, alarmStateNo_eq]
  rw [replyBody, h, entries, retentionNo_eq, ← toNat_cast, ← toNat_cast]
  simp only [laidOut_cons, laidOut_nil, bytesOf_one, replyHeader_eq, List.append_nil, List.append_assoc]

theorem replyBody_trend {r : Reply} {newest : U32} {kept : Nat} {old : Bool} {l : List Trend}
    (h : r.content = .trend newest kept old l) : replyBody r = some (headerOf r.status r.flags
      ++ laidOut [(4, newest.toNat), (2, kept), (1, if old then 1 else 0), (1, l.length)]
      ++ l.flatMap trendLaidOut) := by
  rw [replyBody, h, ← funext trendBytes_eq, ← toNat_cast]
  simp only [laidOut_cons, laidOut_nil, bytesOf_one, bytesOf_two, bytesOf_four, replyHeader_eq, List.append_nil,
    List.append_assoc]

/-- The CRC's check value, bit by bit. -/
theorem crc16_check : crc16 [0x31, 0x32, 0x33, 0x34, 0x35, 0x36, 0x37, 0x38, 0x39] = 0x29B1#16 := by
  simp [crc16, crcByte, crcBit, BitVec.msb_eq_decide]

/-- Settles O7, the receiver by its frames and the layouts field by field. -/
theorem framesAreFoundAndLaidOut : Obligations.FramesAreFoundAndLaidOut := by
  refine ⟨fun b l h => receiver_hunts h l, fun hi lo l h => receiver_long h l,
    fun kind body more h => receiver_supFrame h kind more,
    fun hi lo kind c d body more size h bad => (receiver_frame size h more).trans (if_neg bad),
    fun l p more h => receiver_resumes more l.length (Nat.le_refl _) h, crc16_check, fun s bytes left h => ?_,
    fun kind body inner h => ?_, fun r => ⟨fun body h => ?_, fun h => ?_, fun n ovf out ret l h => replyBody_alarms h,
      fun newest kept old l h => replyBody_trend h⟩, fun e m => ?_⟩
  · show execFrameDiscarded bytes s = _
    rw [execFrameDiscarded, h]
  · subst h
    rw [bytesOf_two, bytesOf_two]
    rfl
  · rw [replyFrame, h]
    rfl
  · rw [replyBody, h, replyHeader_eq]
  · rw [markNo_eq, ← alarmBytes_eq]
    rfl

end Sys2Proof.Proofs

/-! PROOFS. RESTART, block by block (R29, R53, R75, R120, R135, R148, R162, R192). -/

namespace Sys2Proof.Proofs

open Sys2Proof.Machine

/-! ### The link's operations read the link and the settings alone -/

section Link

variable {a z : State}

theorem startTrip_alike (link : a.flc = z.flc) (settings : a.ssl = z.ssl) (e : EntryNo) :
    (a.startTrip e).flc = (z.startTrip e).flc := by
  simp only [State.startTrip, State.startExchange, State.station, State.entrySet, State.item, link, settings]

theorem startSet_alike (link : a.flc = z.flc) (settings : a.ssl = z.ssl) (x : SetEntry) :
    (a.startSet x).flc = (z.startSet x).flc := by
  simp only [State.startSet, State.startExchange, State.station, State.entrySet, State.item, link, settings]

theorem startPoll_alike (link : a.flc = z.flc) (settings : a.ssl = z.ssl) (e : EntryNo) (rest : List EntryNo) :
    (a.startPoll e rest).flc = (z.startPoll e rest).flc := by
  simp only [State.startPoll, State.startExchange, State.station, State.entrySet, State.item, link, settings]

theorem nextTrip_alike (link : a.flc = z.flc) : a.nextTrip = z.nextTrip := by
  have eligible : a.tripEligible = z.tripEligible := funext fun x => by
    unfold State.tripEligible State.linkStatus
    rw [link]
  rw [State.nextTrip, State.nextTrip, eligible, link]

theorem nextSet_alike (link : a.flc = z.flc) : a.nextSet = z.nextSet := by
  have eligible : a.setEligible = z.setEligible := funext fun x => by
    unfold State.setEligible State.linkStatus
    rw [link]
  rw [State.nextSet, State.nextSet, eligible, link]

theorem choosePoll_alike (link : a.flc = z.flc) (settings : a.ssl = z.ssl) : a.choosePoll.flc = z.choosePoll.flc := by
  rw [State.choosePoll, State.choosePoll, link, nextSet_alike link]
  cases z.flc.pollList with
  | cons e rest => exact startPoll_alike link settings e rest
  | nil =>
    cases z.nextSet with
    | some x => exact startSet_alike link settings x
    | none => exact link

theorem chooseWithin_alike (link : a.flc = z.flc) (settings : a.ssl = z.ssl) : a.chooseWithin.flc = z.chooseWithin.flc := by
  have setting (i : FieldItem) : a.fieldSet i = z.fieldSet i := by
    unfold State.fieldSet State.item
    rw [settings]
  rw [State.chooseWithin, State.chooseWithin, link, nextSet_alike link, setting, setting]
  by_cases fits : (z.flc.started : Int) < z.fieldSet .slotBudget
  · rw [if_pos fits, if_pos fits]
    cases z.nextSet with
    | none => exact choosePoll_alike link settings
    | some x =>
      by_cases burst : z.fieldSet .pollBurst ≤ (z.flc.burst : Int)
      · dsimp only
        rw [if_pos burst, if_pos burst]
        exact startSet_alike link settings x
      · dsimp only
        rw [if_neg burst, if_neg burst]
        exact choosePoll_alike link settings
  · rw [if_neg fits, if_neg fits]
    exact link

theorem arbitrate_alike (link : a.flc = z.flc) (settings : a.ssl = z.ssl) : a.arbitrate.flc = z.arbitrate.flc := by
  rw [State.arbitrate, State.arbitrate, link, nextTrip_alike link]
  by_cases flight : z.flc.flight.isSome = true
  · rw [if_pos flight, if_pos flight]
    exact link
  · rw [if_neg flight, if_neg flight]
    cases z.nextTrip with
    | some x => exact startTrip_alike link settings x.entry
    | none => exact chooseWithin_alike link settings

/-- Retirements at two states with the same link: the same link after, and the same events handed. -/
theorem retireAll_alike : ∀ (l : List (EntryNo × Station)) {a z : State}, a.flc = z.flc → ∃ events : List Instr,
    z.retireAll l = { z with flc := (a.retireAll l).flc, handed := z.handed ++ events }
      ∧ (a.retireAll l).handed = a.handed ++ events
  | [], a, z, link => ⟨[], by rw [List.append_nil]; exact (congrArg (fun x => { z with flc := x }) link).symm,
      (List.append_nil _).symm⟩
  | x :: rest, a, z, link => by
    have here : Retires x.1 x.2 a (a.retire x.1 x.2) := Laws.retire_retires a x.1 x.2
    have there : Retires x.1 x.2 z (z.retire x.1 x.2) := Laws.retire_retires z x.1 x.2
    unfold Retires at here there
    rw [← link] at there
    obtain ⟨events, retired, handed⟩ := retireAll_alike rest (a := a.retire x.1 x.2) (z := z.retire x.1 x.2)
      (by rw [here, there])
    refine ⟨[.qtbStationLost x.2.kind x.2.channel] ++ ownerOf x.2 ++ (if (a.flc.stations.get x.1).status = .lost then
      [.alarmClear .stationLost (.station x.2.address)] else []) ++ events, ?_, ?_⟩
    · show (z.retire x.1 x.2).retireAll rest = _
      rw [retired, there]
      simp only [List.append_assoc]
      rfl
    · show ((a.retire x.1 x.2).retireAll rest).handed = _
      rw [handed, here]
      simp only [List.append_assoc]

end Link

/-! ### The link's SETs at a restart (R148) -/

section Demands

variable {s : State}

theorem mem_demandSet {e : EntryNo} {x : SetEntry} : x ∈ s.demandSet e ↔
    x.entry = e ∧ (s.flc.stations.get e).lastDemand = some x.order ∧ x.inFlight = false ∧ x.replaced = false := by
  obtain ⟨entry, order, flying, replaced⟩ := x
  unfold State.demandSet
  cases (s.flc.stations.get e).lastDemand with
  | none => simp
  | some o =>
    simp only [List.mem_singleton, SetEntry.mk.injEq, Option.some.injEq]
    constructor
    · rintro ⟨rfl, rfl, rfl, rfl⟩
      exact ⟨rfl, rfl, rfl, rfl⟩
    · rintro ⟨rfl, rfl, rfl, rfl⟩
      exact ⟨rfl, rfl, rfl, rfl⟩

theorem mem_demandEntries {e : EntryNo} : e ∈ s.demandEntries ↔ (s.flc.stations.get e).lastDemand.isSome = true := by
  simp [State.demandEntries, entryNos]

theorem mem_demandSets (x : SetEntry) : x ∈ s.demandEntries.flatMap s.demandSet ↔
    (s.flc.stations.get x.entry).lastDemand = some x.order ∧ x.inFlight = false ∧ x.replaced = false := by
  rw [List.mem_flatMap]
  constructor
  · rintro ⟨e, -, hx⟩
    obtain ⟨rfl, demand⟩ := mem_demandSet.1 hx
    exact demand
  · rintro demand
    exact ⟨x.entry, mem_demandEntries.2 (by rw [demand.1]; rfl), mem_demandSet.2 ⟨rfl, demand⟩⟩

/-- Their order: ascending addresses. -/
theorem demandSets_sorted : (s.demandEntries.flatMap s.demandSet).Pairwise
    fun x y => (s.station x.entry).address ≤ (s.station y.entry).address := by
  have sorted : s.demandEntries.Pairwise fun a b => (s.station a).address ≤ (s.station b).address :=
    List.pairwise_insertionSort _ _
  refine List.pairwise_flatMap.2 ⟨fun e _ => ?_, sorted.imp fun {a b} ordered x hx y hy => ?_⟩
  · unfold State.demandSet
    cases (s.flc.stations.get e).lastDemand with
    | none => exact .nil
    | some o => exact List.pairwise_singleton _ _
  · rw [(mem_demandSet.1 hx).1, (mem_demandSet.1 hy).1]
    exact ordered

end Demands

/-! ### The balance at a restart (R135) -/

section Balance

variable {s : State}

/-- The state whose ceiling BBU finds anew at a restart, with nothing handed. -/
def requiredAnew (s : State) : State := { s with handed := [], bbu := { s.bbu with tReq := s.requirement } }

/-- Of the events of an allocation, those of the targets. -/
theorem filter_targets (p : Instr → Bool) (target : ∀ c v, p (.wccTarget c v) = true)
    (raised : ∀ x y ch, p (.alarmChange x y ch) = false) (cleared : ∀ x y, p (.alarmClear x y) = false) (l : Plan) :
    (s.brineEvents l ++ s.targetEvents l).filter p = s.targetEvents l := by
  have brine : (s.brineEvents l).filter p = [] := by
    rw [State.brineEvents]
    split
    · rw [List.filter_cons_of_neg (by simp [raised]), List.filter_nil]
    · split
      · rw [List.filter_cons_of_neg (by simp [cleared]), List.filter_nil]
      · rfl
  have targets : ∀ e ∈ s.targetEvents l, p e = true := by
    intro e he
    obtain ⟨c, -, hc⟩ := List.mem_flatMap.1 he
    revert hc
    cases l.targetOf c with
    | some t =>
      intro hc
      rw [List.mem_singleton.1 hc, target]
    | none =>
      dsimp only
      split
      · intro hc
        rw [List.mem_singleton.1 hc, target]
      · exact fun hc => absurd hc List.not_mem_nil
  rw [List.filter_append, brine, List.nil_append, List.filter_eq_self.2 targets]

end Balance

/-! ### The restart whole -/

section Restart

variable (s : State)

/-- The retirements that waited for the abandoned exchange, with nothing else handed. -/
def retiredFirst : State := ({ s with handed := [], flc := { s.flc with retiring := [] } } : State).retireAll s.flc.retiring

/-- The link that the arbiter finds at a restart. -/
def restartedLink : Flc :=
  { (retiredFirst s).flc with
    stations := (retiredFirst s).flc.stations.mapIdx fun _ x => { x with status := .unknown, failRun := 0 }
    setQ := (retiredFirst s).demandEntries.flatMap (retiredFirst s).demandSet
    tripQ := []
    flight := none }

theorem demandSet_alike {a z : State} (link : a.flc = z.flc) : a.demandSet = z.demandSet := by
  funext e
  rw [State.demandSet, State.demandSet, link]

theorem demandEntries_alike {a z : State} (link : a.flc = z.flc) (settings : a.ssl = z.ssl) :
    a.demandEntries = z.demandEntries := by
  unfold State.demandEntries State.station State.entrySet State.item
  rw [link, settings]

theorem retiredFirst_ssl : (retiredFirst s).ssl = s.ssl := by
  have frame : Frame [.flc, .handed] ({ s with handed := [], flc := { s.flc with retiring := [] } } : State)
      (retiredFirst s) := .retireAll (.refl _ _) (List.Subset.refl _)
  exact frame.ssl (by decide)

/-- The link at a restart, whatever the other blocks hold. -/
theorem restartLink_eq {z : State} (link : z.flc = s.flc) (settings : z.ssl = s.ssl) : z.restartLink = { z with
    flc := restartedLink s, handed := z.handed ++ (retiredFirst s).handed } := by
  obtain ⟨events, retired, handed⟩ := retireAll_alike s.flc.retiring
    (a := { s with handed := [], flc := { s.flc with retiring := [] } })
    (z := { z with flc := { z.flc with retiring := [] } }) (by rw [link])
  have sets := demandSet_alike (a := ({ z with flc := { z.flc with retiring := [] } } : State).retireAll s.flc.retiring)
    (z := retiredFirst s) (by rw [retired]; rfl)
  have entries := demandEntries_alike (z := retiredFirst s)
    (a := ({ z with flc := { z.flc with retiring := [] } } : State).retireAll s.flc.retiring)
    (by rw [retired]; rfl) (by rw [retired, retiredFirst_ssl, ← settings])
  have events_eq : (retiredFirst s).handed = events := handed
  rw [State.restartLink, events_eq]
  dsimp only
  rw [show z.flc.retiring = s.flc.retiring by rw [link], sets, entries, retired]
  rfl

/-- Every block's record at a restart, before the arbiter chooses. -/
def restartedBlocks : State :=
  { (s.took .restart).restartRecords.restartSlots with
    bbu := { (requiredAnew s).ceilingAnew.bbu with brineOver := s.bbu.brineOver }
    flc := restartedLink s
    handed := s.handed.erase .restart
      ++ ({ requiredAnew s with bbu := (requiredAnew s).withCeiling } : State).targetEvents
        ({ requiredAnew s with bbu := (requiredAnew s).withCeiling } : State).plan
      ++ (retiredFirst s).handed ++ stationClears }

theorem exec_restart : exec .restart s = .next (restartedBlocks s).arbitrate := by
  have balanced := restartLink_eq s (z := (s.took .restart).restartRecords.restartSlots.restartBalance) rfl rfl
  show execRestart s = _
  rw [execRestart, balanced]
  rfl

theorem restarted_arbitrate : Frame [.flc] (restartedBlocks s) (restartedBlocks s).arbitrate :=
  .arbitrate (.refl _ _) (List.Subset.refl _)

end Restart

/-- Settles O9, block by block, the arbiter's choice behind the records. -/
theorem restartActsOnEveryBlock : Obligations.RestartActsOnEveryBlock := by
  intro s wells settings
  have kept := restarted_arbitrate s
  have link : (restartedBlocks s).arbitrate.flc = ({ s with flc := restartedLink s } : State).arbitrate.flc :=
    arbitrate_alike rfl rfl
  refine ⟨(restartedBlocks s).arbitrate, (requiredAnew s).ceilingAnew, retiredFirst s,
    ({ s with flc := restartedLink s } : State).arbitrate, s.requirement, restartedLink s, exec_restart s, fun q => ?_,
    (kept.tip (by decide)).trans rfl, (kept.ssl (by decide)).trans rfl, (kept.wcc (by decide)).trans rfl,
    (kept.alt (by decide)).trans rfl, (kept.svp (by decide)).trans rfl, (kept.scm (by decide)).trans ?_,
    (kept.hxc (by decide)).trans rfl, (kept.tbc (by decide)).trans rfl,
    ⟨Laws.requirement_requires s, Laws.ceilingAnew_recomputes (requiredAnew s) wells settings,
      (kept.bbu (by decide)).trans rfl⟩, fun k => ?_,
    ⟨Laws.retireAll_retires _ _, rfl, fun e => ?_, fun x => ?_, ?_, ?_, Laws.arbitrate_arbitrates _, link⟩, ?_⟩
  · rw [kept.qtb (by decide)]
    exact Bank.get_fill ..
  · show ({ s.scm with floor := s.scm.floor.restarted } : Scm) = _
    rw [Floor.restarted]
    cases h : s.scm.floor.state <;> rfl
  · rw [kept.sqr (by decide)]
    show (s.sqr.mapIdx fun _ r => if activeSlot r.state then r.aborted s.svp.plantTime .restart else r).get k = _
    rw [Bank.get_mapIdx]
    rfl
  · exact Bank.get_mapIdx ..
  · exact mem_demandSets x
  · exact demandSets_entries _ _ (demandEntries_nodup _)
  · have address (e : EntryNo) : (retiredFirst s).station e = s.station e := by
      unfold State.station State.entrySet State.item
      rw [retiredFirst_ssl]
    have sorted := demandSets_sorted (s := retiredFirst s)
    simp only [address] at sorted
    exact sorted
  · rw [kept.handed (by decide)]
    show s.handed.erase .restart ++ _ ++ _ ++ _ = _
    rw [show (requiredAnew s).ceilingAnew.handed = [] ++
      (({ requiredAnew s with bbu := (requiredAnew s).withCeiling } : State).brineEvents _
        ++ ({ requiredAnew s with bbu := (requiredAnew s).withCeiling } : State).targetEvents _) from rfl,
      List.nil_append, filter_targets _ (fun _ _ => rfl) (fun _ _ _ => rfl) (fun _ _ => rfl)]
    rfl

end Sys2Proof.Proofs

/-! PROOFS. POWER_ON, block by block (R14, R29, R52, R74, R99, R120, R135, R148, R162, R165, R173, R179 to R182). -/

namespace Sys2Proof.Proofs

open Sys2Proof.Machine

/-! ### What alarm changes and clears leave alone -/

/-- The state `t` is `s` with another alarm table and with notices queued. -/
def AlarmsOnly (s t : State) : Prop := ∃ (a : Alt) (n : List Notice), a.counters = s.alt.counters
  ∧ a.retention = s.alt.retention ∧ t = { s with alt := a, svp := (s.notify n).svp }

section AlarmsOnly

variable {s t u : State}

theorem AlarmsOnly.refl (s : State) : AlarmsOnly s s := ⟨s.alt, [], rfl, rfl, rfl⟩

theorem AlarmsOnly.trans (h : AlarmsOnly s t) (h' : AlarmsOnly t u) : AlarmsOnly s u := by
  obtain ⟨a, n, counters, retention, rfl⟩ := h
  obtain ⟨b, m, counters', retention', rfl⟩ := h'
  refine ⟨b, n ++ m, counters'.trans counters, retention'.trans retention, ?_⟩
  simp only [State.notify, List.foldl_append]

theorem clear_keeps (a : Alt) (now : U32) (code : AlarmCode) (source : Source) :
    (a.clear now code source).1.counters = a.counters ∧ (a.clear now code source).1.retention = a.retention := by
  unfold Alt.clear
  cases a.entry code source with
  | none => exact ⟨rfl, rfl⟩
  | some e => cases h : e.state <;> simp [h, Alt.put, Alt.remove]

theorem add_keeps (a : Alt) (e : AlarmEntry) :
    (a.add e).1.counters = a.counters ∧ (a.add e).1.retention = a.retention := by
  unfold Alt.add
  split
  · exact ⟨rfl, rfl⟩
  · split <;> exact ⟨rfl, rfl⟩

theorem changeActive_keeps (a : Alt) (now : U32) (ch : AlarmChange) (e : AlarmEntry) :
    (a.changeActive now ch e).1.counters = a.counters ∧ (a.changeActive now ch e).1.retention = a.retention := by
  unfold Alt.changeActive
  cases ch.value with
  | some v =>
    by_cases higher : e.severity.rank < ch.severity.rank
    · simp [higher, Alt.put]
    · by_cases same : ch.severity = e.severity
      · by_cases value : e.value = v <;> simp [same, value, Alt.put]
      · simp [higher, same, Alt.put]
  | none => by_cases lower : ch.severity.rank < e.severity.rank <;> simp [lower, Alt.put]

theorem change_keeps (a : Alt) (now : U32) (code : AlarmCode) (source : Source) (ch : AlarmChange) :
    (a.change now code source ch).1.counters = a.counters ∧ (a.change now code source ch).1.retention = a.retention := by
  unfold Alt.change
  cases a.entry code source with
  | none => exact add_keeps _ _
  | some e =>
    by_cases cleared : e.state = .clearedUnacked
    · simp [cleared, Alt.put]
    · simp only [cleared, if_false]
      exact changeActive_keeps a now ch e

theorem alarmClear_only (s : State) (code : AlarmCode) (source : Source) : AlarmsOnly s (s.alarmClear code source) :=
  ⟨(s.alt.clear s.svp.plantTime code source).1.evaluate, (s.alt.clear s.svp.plantTime code source).2,
    (clear_keeps ..).1, (clear_keeps ..).2, rfl⟩

theorem alarmChange_only (s : State) (code : AlarmCode) (source : Source) (ch : AlarmChange) :
    AlarmsOnly s (s.alarmChange code source ch) :=
  ⟨(s.alt.change s.svp.plantTime code source ch).1.evaluate, (s.alt.change s.svp.plantTime code source ch).2,
    (change_keeps ..).1, (change_keeps ..).2, rfl⟩

theorem clearAll_only : ∀ (l : List (AlarmCode × Source)) (s : State), AlarmsOnly s (s.clearAll l)
  | [], s => .refl s
  | x :: l, s => (alarmClear_only s x.1 x.2).trans (clearAll_only l _)

/-- What the notices queued leave of the port. -/
theorem foldl_queue_rest (n : List Notice) (v : Svp) :
    { n.foldl Svp.queue v with notices := v.notices, noticesLost := v.noticesLost } = v := by
  rw [foldl_queue_alike n (v := v) (w := v) rfl rfl]

end AlarmsOnly

/-! ### STORE_FAULT seen, and the clears (R182, log 44) -/

section Seen

variable (seen : Bool)

/-- The port's record with STORE_FAULT seen or not. -/
def withSeen (s : State) : State := { s with svp := { s.svp with storeFaultSeen := seen } }

theorem queue_seen (n : List Notice) : ∀ v : Svp, n.foldl Svp.queue { v with storeFaultSeen := seen }
    = { n.foldl Svp.queue v with storeFaultSeen := seen } := by
  induction n with
  | nil => exact fun v => rfl
  | cons x n ih =>
    intro v
    rw [List.foldl_cons, List.foldl_cons, ← ih]
    congr 1
    unfold Svp.queue
    split <;> rfl

theorem alarmClear_seen (s : State) (code : AlarmCode) (source : Source) :
    (withSeen seen s).alarmClear code source = withSeen seen (s.alarmClear code source) := by
  dsimp only [State.alarmClear, State.notify, withSeen]
  rw [queue_seen]

theorem clearAll_seen : ∀ (l : List (AlarmCode × Source)) (s : State),
    (withSeen seen s).clearAll l = withSeen seen (s.clearAll l)
  | [], _ => rfl
  | x :: l, s => by
    show ((withSeen seen s).alarmClear x.1 x.2).clearAll l = withSeen seen ((s.alarmClear x.1 x.2).clearAll l)
    rw [alarmClear_seen, clearAll_seen l]

end Seen

/-! ### The alarms no owner's records hold after a power-on (R165) -/

theorem mem_pointPairs {c code : AlarmCode} {x : Source} :
    (code, x) ∈ pointNos.map (fun p => (c, Source.point p)) ↔ code = c ∧ ∃ p, x = .point p := by
  simp [pointNos, eq_comm]

theorem mem_wellPairs {c code : AlarmCode} {x : Source} :
    (code, x) ∈ wells.map (fun w => (c, Source.well w)) ↔ code = c ∧ ∃ w, x = .well w := by
  simp [wells, eq_comm]

theorem mem_unlockedPairs {wcc : Bank Well 16} {c code : AlarmCode} {x : Source} :
    (code, x) ∈ (wells.filter fun w => decide ((wcc.get w).state ≠ .lockedOut)).map (fun w => (c, Source.well w)) ↔
      code = c ∧ ∃ w, x = .well w ∧ (wcc.get w).state ≠ .lockedOut := by
  simp only [List.mem_map, List.mem_filter, Prod.mk.injEq, decide_eq_true_eq]
  constructor
  · rintro ⟨w, ⟨-, hw⟩, rfl, rfl⟩
    exact ⟨rfl, w, rfl, hw⟩
  · rintro ⟨rfl, w, rfl, hw⟩
    exact ⟨w, ⟨List.mem_finRange w, hw⟩, rfl, rfl⟩

theorem mem_stationPairs {c code : AlarmCode} {x : Source} :
    (code, x) ∈ (List.range 63).map (fun a => (c, Source.station (a + 1))) ↔
      code = c ∧ ∃ a, x = .station a ∧ 1 ≤ a ∧ a ≤ 63 := by
  simp only [List.mem_map, List.mem_range, Prod.mk.injEq]
  constructor
  · rintro ⟨a, ha, rfl, rfl⟩
    exact ⟨rfl, a + 1, rfl, by omega, by omega⟩
  · rintro ⟨rfl, a, rfl, ha, ha'⟩
    exact ⟨a - 1, by omega, rfl, by rw [Nat.sub_add_cancel ha]⟩

theorem mem_powerOnClears (wcc : Bank Well 16) (code : AlarmCode) (x : Source) : (code, x) ∈ powerOnClears wcc ↔
    codeNames code x = true ∧ code ≠ .storeFault
      ∧ ¬∃ w, code = .wellLockout ∧ x = .well w ∧ (wcc.get w).state = .lockedOut := by
  unfold powerOnClears
  simp only [List.mem_append, mem_pointPairs, mem_wellPairs, mem_unlockedPairs, mem_stationPairs, List.mem_cons,
    List.not_mem_nil, or_false, Prod.mk.injEq]
  cases code with
  | wellLockout => cases x <;> simp [codeNames]
  | storeFault => simp
  | _ => cases x <;> simp [codeNames]

/-- The clears a power-on takes: those of the owners and, with a stored copy that passes, that of STORE_FAULT. -/
def clearsTaken (wcc : Bank Well 16) (copy : Option StoredCopy) : List (AlarmCode × Source) :=
  powerOnClears wcc ++ if copy.isSome then [(.storeFault, .store)] else []

theorem clearsTaken_none (wcc : Bank Well 16) : clearsTaken wcc none = powerOnClears wcc := List.append_nil _

theorem clearsTaken_stands {wcc : Bank Well 16} {copy : Option StoredCopy} {stands : AlarmEntry → Bool}
    (h : ∀ e, stands e = true ↔ (e.code = .storeFault ∧ copy = none) ∨ codeNames e.code e.source = false
      ∨ ∃ c, e.code = .wellLockout ∧ e.source = .well c ∧ (wcc.get c).state = .lockedOut) :
    (fun y => decide (y ∉ clearsTaken wcc copy)) ∘ Laws.pairOf = stands := by
  funext e
  have named : codeNames .storeFault e.source = true ↔ e.source = .store := by cases e.source <;> simp [codeNames]
  rw [Bool.eq_iff_iff, h]
  show decide ((e.code, e.source) ∉ clearsTaken wcc copy) = true ↔ _
  rw [decide_eq_true_iff, clearsTaken, List.mem_append, mem_powerOnClears]
  by_cases fault : e.code = .storeFault
  · cases copy with
    | none => simp [fault]
    | some c => simp [fault, ← named]
  · cases copy with
    | none =>
      simp only [fault, Option.isSome_none, Bool.false_eq_true, if_false, List.not_mem_nil, or_false, ne_eq,
        not_false_eq_true, true_and, false_and, false_or, ← Bool.not_eq_true]
      exact not_and_not_right.trans imp_iff_not_or
    | some c =>
      simp only [fault, Option.isSome_some, if_true, List.mem_singleton, Prod.mk.injEq, false_and, or_false, ne_eq,
        not_false_eq_true, true_and, false_or, ← Bool.not_eq_true]
      exact not_and_not_right.trans imp_iff_not_or

/-! ### The step -/

/-- Every block's record at a power-on, STORE_FAULT seen when the copy failed. -/
def restored (s : State) (straps : Straps) (tripIn : Bool) (copy : Option StoredCopy) (record : Option CommRecord)
    (passes : Bool) : State := withSeen copy.isNone (s.poweredOn straps tripIn copy record passes)

/-- ALT's part of a power-on, on the records restored. -/
def alarmsTaken (q : State) : Option StoredCopy → State
  | some c => q.clearAll (clearsTaken q.wcc (some c))
  | none => (q.clearAll (clearsTaken q.wcc none)).alarmChange .storeFault .store (.raise .alarm 1)

theorem clearAll_append (s : State) (l m : List (AlarmCode × Source)) :
    s.clearAll (l ++ m) = (s.clearAll l).clearAll m := List.foldl_append

theorem alarmsTaken_only (q : State) (copy : Option StoredCopy) : AlarmsOnly q (alarmsTaken q copy) := by
  cases copy with
  | some c => exact clearAll_only _ _
  | none => exact (clearAll_only _ _).trans (alarmChange_only _ _ _ _)

theorem exec_powerOn (straps : Straps) (tripIn : Bool) (store : StoreChecks) (passes : Bool) (s : State) :
    exec (.powerOn straps tripIn store passes) s = .next (State.startLink (alarmsTaken (restored s straps tripIn
      (s.copyAtPowerOn store.copy) (s.recordAtPowerOn store) passes) (s.copyAtPowerOn store.copy))) := by
  show execPowerOn straps tripIn store passes s = _
  rw [execPowerOn]
  dsimp only
  generalize s.copyAtPowerOn store.copy = copy
  cases copy with
  | none =>
    rw [alarmsTaken, clearsTaken_none, restored, clearAll_seen]
    rfl
  | some c =>
    rw [alarmsTaken, clearsTaken, clearAll_append]
    rfl

/-- The link started: the arbiter's choice on the first poll list, and the exchanger's SET. -/
theorem startLink_eq (z : State) : z.startLink = { z with
    flc := ({ z with flc := { z.flc with pollList := z.pollsFor 0 } } : State).arbitrate.flc
    handed := z.handed ++ (if (z.entryOfKind .exchanger).isSome then [.setPlaced (.exchanger 1000)] else []) } := by
  have frame : Frame [.flc] ({ z with flc := { z.flc with pollList := z.pollsFor 0 } } : State)
      ({ z with flc := { z.flc with pollList := z.pollsFor 0 } } : State).arbitrate :=
    .arbitrate (.refl _ _) (List.Subset.refl _)
  obtain ⟨pending, handed, svp, -, qtb, tip, scm, hxc, wcc, tbc, bbu, sqr, alt, ssl, free⟩ := frame
  rw [State.startLink, State.hand, pending (by decide), handed (by decide), svp (by decide), qtb (by decide),
    tip (by decide), scm (by decide), hxc (by decide), wcc (by decide), tbc (by decide), bbu (by decide),
    sqr (by decide), alt (by decide), ssl (by decide), free (by decide)]

/-! ### The alarms after a power-on (R165, R173, R182) -/

theorem alarmChange_alike {a z : State} (alarms : a.alt = z.alt) (port : a.svp = z.svp) (code : AlarmCode)
    (source : Source) (ch : AlarmChange) : (a.alarmChange code source ch).alt = (z.alarmChange code source ch).alt
      ∧ (a.alarmChange code source ch).svp = (z.alarmChange code source ch).svp := by
  unfold State.alarmChange State.notify
  rw [alarms, port]
  exact ⟨rfl, rfl⟩

theorem clearsTaken_ne (wcc : Bank Well 16) (copy : Option StoredCopy) : clearsTaken wcc copy ≠ [] := by
  have member : (AlarmCode.turbTrip, Source.turbine) ∈ powerOnClears wcc :=
    (mem_powerOnClears _ _ _).2 ⟨rfl, by decide, by simp⟩
  exact List.ne_nil_of_mem (List.mem_append_left _ member)

theorem alarmsTaken_become {q t : State} {copy : Option StoredCopy} (distinct : (q.alt.table.map Laws.pairOf).Nodup)
    (overflow : q.alt.overflow = false) (now : q.svp.plantTime = 0) (notices : q.svp.notices = [])
    (lost : q.svp.noticesLost = false) (alarms : t.alt = (alarmsTaken q copy).alt)
    (port : t.svp = (alarmsTaken q copy).svp) {stands : AlarmEntry → Bool}
    (h : ∀ e, stands e = true ↔ (e.code = .storeFault ∧ copy = none) ∨ codeNames e.code e.source = false
      ∨ ∃ c, e.code = .wellLockout ∧ e.source = .well c ∧ (q.wcc.get c).state = .lockedOut) :
    ∃ (clears : List Notice) (m n : State), clears.Perm (clearNotices stands 0 q.alt.table)
      ∧ m = { t with
        alt := { t.alt with table := q.alt.table, overflow := false }
        svp := { t.svp with notices := [], noticesLost := false } }
      ∧ AlarmsBecome (clearedTable stands 0 q.alt.table) false clears m n
      ∧ (copy.isSome = true → t.alt = n.alt ∧ t.svp = n.svp)
      ∧ (copy = none → ∃ x, exec (.alarmChange .storeFault .store (.raise .alarm 1)) n = .next x
        ∧ t.alt = x.alt ∧ t.svp = x.svp) := by
  obtain ⟨clears, perm, out, sounds, cleared⟩ := Laws.clearAll_clears (clearsTaken q.wcc copy) q distinct overflow
  rw [clearsTaken_stands h, now] at perm sounds cleared
  obtain ⟨a, n, counters, retention, taken⟩ := alarmsTaken_only q copy
  have before : ({ t.svp with notices := [], noticesLost := false } : Svp) = q.svp := by
    rw [port, taken, ← notices, ← lost]
    exact foldl_queue_rest n q.svp
  have kept : t.alt.counters = q.alt.counters ∧ t.alt.retention = q.alt.retention := by
    rw [alarms, taken]
    exact ⟨counters, retention⟩
  refine ⟨clears, _, { t with
    alt := (q.clearAll (clearsTaken q.wcc copy)).alt, svp := (q.clearAll (clearsTaken q.wcc copy)).svp }, perm, rfl,
    ⟨out, ?_, ?_⟩, fun passed => ?_, fun failed => ?_⟩
  · rw [sounds (clearsTaken_ne _ _), overflow]
    exact Laws.alarmOutOf_iff _ _
  · rw [cleared, before]
    dsimp only
    rw [kept.1, kept.2, overflow]
    rfl
  · obtain ⟨c, rfl⟩ := Option.isSome_iff_exists.1 passed
    exact ⟨alarms, port⟩
  · subst failed
    obtain ⟨sameAlarms, samePort⟩ := alarmChange_alike
      (a := State.took { t with
        alt := (q.clearAll (clearsTaken q.wcc none)).alt, svp := (q.clearAll (clearsTaken q.wcc none)).svp }
        (.alarmChange .storeFault .store (.raise .alarm 1)))
      (z := q.clearAll (clearsTaken q.wcc none)) rfl rfl .storeFault .store (.raise .alarm 1)
    exact ⟨_, rfl, alarms.trans sameAlarms.symm, port.trans samePort.symm⟩

/-! ### The records restored -/

section Records

variable {copy : Option StoredCopy} {record : Option CommRecord}

/-- Settings, P, the lock and the rows, by the copy and the record (R179, R181). -/
theorem sslAtPowerOn_holds (copy : Option StoredCopy) (record : Option CommRecord) :
    ∀ x : Ssl, x = sslAtPowerOn copy record → x.settings = (match copy with | some c => c.settings | none => defaultSettings)
      ∧ x.storing = none ∧ x.storeFault = copy.isNone ∧ x.copy = copy ∧ x.record = record
      ∧ (∀ g, x.hostLocks.get g = false)
      ∧ (∀ r, record = some r → x.locked = true ∧ x.boundary = r.boundary
        ∧ ∀ l : RowNo, l.val < r.boundary → x.limits.get l = r.limits.get l)
      ∧ (record = none → ∀ c, copy = some c → x.locked = c.locked ∧ x.boundary = c.boundary)
      ∧ (record = none → copy = none → x.locked = false ∧ x.boundary = 0)
      ∧ ∀ l : RowNo, (∀ r, record = some r → r.boundary ≤ l.val) →
        (∀ c, copy = some c → x.limits.get l = c.limits.get l)
        ∧ (copy = none → x.limits.get l = (limitRange l).dflt) := by
  rintro x rfl
  refine ⟨rfl, rfl, rfl, rfl, rfl, fun g => Bank.get_fill .., ?_, ?_, ?_, fun l above => ⟨?_, ?_⟩⟩
  · rintro r rfl
    refine ⟨rfl, rfl, fun l below => ?_⟩
    exact (Bank.get_ofFn ..).trans (if_pos below)
  · rintro rfl c rfl
    exact ⟨rfl, rfl⟩
  · rintro rfl rfl
    exact ⟨rfl, rfl⟩
  · rintro c rfl
    cases record with
    | none => rfl
    | some r => exact (Bank.get_ofFn ..).trans (if_neg (Nat.not_lt.2 (above r rfl)))
  · rintro rfl
    cases record with
    | none => exact Bank.get_ofFn ..
    | some r =>
      have row : (protectedRows (some r) defaultLimits).get l = defaultLimits.get l :=
        (Bank.get_ofFn ..).trans (if_neg (Nat.not_lt.2 (above r rfl)))
      exact row.trans (Bank.get_ofFn ..)

theorem wccAtPowerOn_get (s : State) (kept : Bool) (c : WellNo) : (s.wccAtPowerOn kept).get c = {
    state := if kept = true ∧ (s.wcc.get c).state = .lockedOut then .lockedOut else .off
    target := none, demand := 0, weight := 1, ramp := false, startLeft := none, run := none, fault := none
    margin := none, flashHold := false, ocRun := 0, flashRun := 0, dryRun := 0
    lastCause := if kept = true then (s.wcc.get c).lastCause else none, cooldown := 0
    history := if kept = true then (s.wcc.get c).history else [], adopting := true } := by
  cases kept with
  | false => exact Bank.get_fill ..
  | true =>
    refine (Bank.get_ofFn ..).trans ?_
    simp only [retainedWell, newWell, true_and, if_true]

theorem baselinesAt_get (c : WellNo) : (baselinesAt copy).get c = copy.bind fun x => x.baselines.get c := by
  cases copy with
  | none => exact Bank.get_fill ..
  | some x => rfl

theorem hxBaselineAt_eq : hxBaselineAt copy = copy.bind fun c => c.hxBaseline := by cases copy <;> rfl

theorem altAtPowerOn_eq (s : State) (retain passes : Bool) : s.altAtPowerOn retain passes =
    ⟨if (retain && passes) = true then s.alt.table else [], false, false,
      if (retain && passes) = true then s.alt.counters else newCounters,
      if (retain && passes) = true then .kept else if retain = true then .lost else .cleared⟩ := by
  unfold State.altAtPowerOn
  split <;> rfl

theorem retained_distinct {s : State} (h : s.alt.legal) (kept : Bool) :
    ((if kept = true then s.alt.table else []).map Laws.pairOf).Nodup := by
  split
  · refine List.pairwise_map.2 (h.2.1.imp fun {x y} apart same => apart ?_)
    exact ⟨congrArg Prod.fst same, congrArg Prod.snd same⟩
  · exact List.nodup_nil

end Records

/-- Settles O10: every block's record restored, ALT's clears on the kept table, the link started. -/
theorem powerOnActsOnEveryBlock : Obligations.PowerOnActsOnEveryBlock := by
  intro straps tripIn store passes s
  have copied : s.copyAtPowerOn store.copy = if store.copy && s.ssl.storing.isNone then s.ssl.copy else none := by
    unfold State.copyAtPowerOn State.storeBusy
    cases s.ssl.storing <;> rfl
  have recorded : s.recordAtPowerOn store = if store.firstRecord || store.secondRecord then s.ssl.record else none := rfl
  rw [← copied, ← recorded, exec_powerOn]
  generalize s.copyAtPowerOn store.copy = copy
  generalize s.recordAtPowerOn store = record
  obtain ⟨a, n, counters, retention, taken⟩ := alarmsTaken_only (restored s straps tripIn copy record passes) copy
  rw [startLink_eq, taken]
  refine ⟨_, rfl, fun q => Bank.get_fill .., fun k => Bank.get_fill .., rfl, ?_, ⟨rfl, fun c => ⟨Bank.get_fill .., ?_⟩⟩,
    wccAtPowerOn_get s _, ⟨?_, fun p => Bank.get_fill .., fun c => ⟨Bank.get_fill .., ?_⟩⟩, ?_, ?_,
    sslAtPowerOn_holds copy record _ rfl, ?_, ?_, ⟨?_, ?_⟩, ?_, ?_⟩
  · rfl
  · exact Bank.get_ofFn ..
  · show newScm _ _ _ (hxBaselineAt copy) = _
    rw [hxBaselineAt_eq]
    rfl
  · exact (Bank.get_ofFn ..).trans (congrArg newFouling (baselinesAt_get c))
  · exact ⟨_, _, rfl, fun e => Bank.get_fill .., fun e => mem_pollsFor 0 e, pollsFor_nodup 0, pollsFor_sorted 0,
      Laws.arbitrate_arbitrates _, arbitrate_alike rfl rfl⟩
  · rfl
  · rintro c rfl
    rfl
  · rintro rfl
    rfl
  · exact counters.trans (congrArg Alt.counters (altAtPowerOn_eq s straps.retain passes))
  · exact retention.trans (congrArg Alt.retention (altAtPowerOn_eq s straps.retain passes))
  · exact foldl_queue_alike n (v := { newSvp straps with storeFaultSeen := copy.isNone }) rfl rfl
  · intro legal old stands hold hstands
    have table : (restored s straps tripIn copy record passes).alt.table = old :=
      (congrArg Alt.table (altAtPowerOn_eq s straps.retain passes)).trans hold.symm
    have distinct : (old.map Laws.pairOf).Nodup := hold ▸ retained_distinct legal _
    subst table
    exact alarmsTaken_become distinct (congrArg Alt.overflow (altAtPowerOn_eq s straps.retain passes)) rfl rfl rfl
      (by rw [taken]) (by rw [taken]) hstands

end Sys2Proof.Proofs
